-- ==== Sys2Proof/Word.lean ====
section
/-! DEFINITION. The machine's words (R4: bit 0 is the least significant bit). -/

namespace Sys2Proof

/-- A byte of memory. -/
abbrev Byte := BitVec 8

/-- A 32-bit address register, lane or tile element. -/
abbrev Word := BitVec 32

/-- A 64-bit scalar or system register. -/
abbrev DWord := BitVec 64

/-- A vector register: lane `L` is bits `[32L+31:32L]` (R147). -/
abbrev VReg := BitVec 512

/-- One vector control word as it stands in the table (R45). -/
abbrev VcwBits := BitVec 256

end Sys2Proof
end

