-- ==== Sys2Proof/Syntax.lean ====
section
/-! DEFINITION. The instructions: one constructor per row of spec/opcode_table.json. Rows with an encoding are the
syllables and vector control words of the bundle (R43, R45); the others are the moves of the machine's agents, which
carry what the mover brings. Register numbers and immediates are bit fields of the encoding, and stay bit vectors. -/

namespace Sys2Proof

/-- The slots of a column (R10), and the vector control word that a vector syllable names (R45). -/
inductive Slot where
  | s | l | w | va | vb | x | c | q | vcw
  deriving DecidableEq, Repr

/-- The common fields of a syllable (R43): hold, predicate flag and predicate invert. -/
structure Ctl where
  /-- H: the syllable is held. -/
  h  : Bool
  /-- PF: the predicate flag, f0 to f7. -/
  pf : BitVec 3
  /-- PI: the predicate is inverted. -/
  pi : Bool
  deriving DecidableEq, Repr

/-- The fields of a vector control word other than its opcode (R45). -/
structure Vcw where
  fmt  : BitVec 5
  fmt2 : BitVec 5
  rd   : BitVec 11
  ra   : BitVec 11
  rb   : BitVec 11
  rc   : BitVec 11
  std  : BitVec 8
  sta  : BitVec 8
  stb  : BitVec 8
  stc  : BitVec 8
  pf   : BitVec 3
  pi   : Bool
  lp   : Bool
  rm   : BitVec 2
  sat  : Bool
  nf   : Bool
  tq   : Bool
  sbe  : Bool
  sbs  : BitVec 6
  imm  : BitVec 16
  deriving DecidableEq, Repr

/-- A place where Okra can bind a bank (R12, R13): a core, its lowest column and one of the two bank slots. -/
structure Place where
  core  : Nat
  col   : Nat
  slotB : Bool
  deriving DecidableEq, Repr

/-- What the host does on its link to device memory or a register page (R387, R402). -/
structure HostReq where
  /-- The function that makes the access; 0 is the physical function. -/
  vf    : Nat
  write : Bool
  addr  : Nat
  len   : Nat
  /-- The bytes of a write. -/
  data  : List Byte
  /-- The access comes from a trusted environment (the T bit of TDISP). -/
  tee   : Bool
  deriving DecidableEq, Repr

/-- An AtomicOp of the host on the link (R401): the function that makes it, its address and its T bit (R402). -/
structure AtomicReq where
  vf   : Nat
  addr : Nat
  tee  : Bool
  deriving DecidableEq, Repr

/-- The requests of the TDISP interface (R402). -/
inductive TdiReq where
  | lock | start | stop
  deriving DecidableEq, Repr

/-- One instruction: one constructor per row of the opcode table, in the table's order of families. -/
inductive Instr where
  /-- R50: the bank issues one issue cycle of its next bundle -/
  | bundleIssue (bank : Nat)
  /-- R292 -/
  | asyncAbort (bank : Nat)
  /-- R52 -/
  | waitSyllableExecute (bank : Nat) (col slot : Nat)
  /-- R68 -/
  | resultLand (bank : Nat)
  /-- R177 -/
  | latchUpdate (bank : Nat)
  /-- R59 -/
  | segmentExpand (bank : Nat)
  /-- R276: bank is the background bank -/
  | fairnessExpiry (bank : Nat)
  /-- R237 -/
  | barrierArrival (bank : Nat)
  /-- R239 -/
  | barrierComplete (bank : Nat)
  /-- R135: far numbers the far load within the bank -/
  | farRead (bank : Nat) (far : Nat)
  /-- R136 -/
  | farDataArrival (bank : Nat) (far : Nat)
  /-- R136 -/
  | farLoadLand (bank : Nat)
  /-- R229 -/
  | gldFault (bank : Nat)
  /-- R191: op is the serial number of the X operation -/
  | xOpStart (core op : Nat)
  /-- R191 -/
  | tileRelease (core op : Nat)
  /-- R195 -/
  | mmasRow (bank : Nat) (col : Nat)
  /-- R206 -/
  | packetStart (bank : Nat) (col queue : Nat)
  /-- R213 -/
  | packetGranule (bank : Nat) (col queue : Nat)
  /-- R210 -/
  | packetComplete (bank : Nat) (col queue : Nat)
  /-- R219 -/
  | atomicPerform (bank : Nat) (col queue : Nat)
  /-- R298 -/
  | cmtCommit (bank : Nat)
  /-- R308 -/
  | txcCommit (bank : Nat)
  /-- R244 -/
  | tkwaitRetire (bank : Nat)
  /-- R247 -/
  | tqputComplete (bank : Nat)
  /-- R247 -/
  | tqgetComplete (bank : Nat)
  /-- R247 -/
  | tqrelComplete (bank : Nat)
  /-- R250 -/
  | fenceRetire (bank : Nat)
  /-- R221 -/
  | cwaitRetire (bank : Nat)
  /-- R222 -/
  | drainRetire (bank : Nat)
  /-- R261 -/
  | postEnqueue (bank : Nat)
  /-- R255 -/
  | launchEnqueue (bank : Nat)
  /-- R425: Okra binds the head launch of queue pri at the places it chose -/
  | launchBind (pri : Nat) (places : List Place)
  /-- R262 -/
  | taskDispatch (die pri : Nat) (place : Place)
  /-- R274 -/
  | bankSwitch (core : Nat)
  /-- R330 -/
  | shareWindowSwitch (ctx core : Nat)
  /-- R365: us is the resident time counted -/
  | watchdogExpiry (bank : Nat) (us : Nat)
  /-- R362 -/
  | handlerForcedEntry (core : Nat)
  /-- R367 -/
  | settleComplete (core : Nat)
  /-- R368 -/
  | droopDetect (core : Nat)
  /-- R370 -/
  | powerGrant (bank : Nat)
  /-- R373: temp in 1/16 degree C -/
  | thermalTrip (zone : Nat) (temp : Nat)
  /-- R359 -/
  | mcldLoad (bank : Nat)
  /-- R423: in checkpoint, shadow or held state -/
  | softError (bank : Nat)
  /-- R345 -/
  | sramUncorrectable (core : Nat) (slotB : Bool)
  /-- R142 -/
  | cbcWrite (bank : Nat) (col buf : Nat) (val : BitVec 64)
  /-- R323 -/
  | s1rWrite (ctx : Nat) (val : BitVec 64)
  /-- R246 -/
  | tqcWrite (num : Nat) (val : BitVec 64)
  /-- R334 -/
  | trrWrite (ctx : Nat) (val : BitVec 64)
  /-- R416 -/
  | vpoolWrite (val : BitVec 64)
  /-- R351 -/
  | registerWrite (bank : Nat) (num : Nat) (val : BitVec 64)
  /-- R405 -/
  | uqnNotify (page : Nat) (widx : BitVec 32)
  /-- R403 -/
  | uqdWrite (queue : Nat) (hi : Bool) (val : BitVec 64)
  /-- R404, R406 -/
  | launchPacket (queue : Nat)
  /-- R404, R406 -/
  | loadPacket (queue : Nat)
  /-- R404, R406 -/
  | unloadPacket (queue : Nat)
  /-- R404, R406 -/
  | graphPacket (queue : Nat)
  /-- R404, R406 -/
  | replyPacket (queue : Nat)
  /-- R387, R402 -/
  | hostMemoryAccess (req : HostReq)
  /-- R401 -/
  | fetchadd (req : AtomicReq) (val : BitVec 64)
  /-- R401 -/
  | swap (req : AtomicReq) (val : BitVec 64)
  /-- R401 -/
  | cas (req : AtomicReq) (cmp val : BitVec 64)
  /-- R344 -/
  | functionLevelReset (vf : Nat)
  /-- R417 -/
  | flitArrival (port : Nat) (crcOk poison : Bool) (target : Nat)
  /-- R98 -/
  | add (c : Ctl) (rd : BitVec 6) (ra : BitVec 6) (i : Bool) (b : BitVec 6)
  /-- R98 -/
  | sub (c : Ctl) (rd : BitVec 6) (ra : BitVec 6) (i : Bool) (b : BitVec 6)
  /-- R98 -/
  | mul (c : Ctl) (rd : BitVec 6) (ra : BitVec 6) (i : Bool) (b : BitVec 6)
  /-- R98 -/
  | mulh (c : Ctl) (rd : BitVec 6) (ra : BitVec 6) (i : Bool) (m : Bool) (b : BitVec 6)
  /-- R98, R99 -/
  | div (c : Ctl) (rd : BitVec 6) (ra : BitVec 6) (i : Bool) (m : Bool) (b : BitVec 6)
  /-- R98, R99 -/
  | rem (c : Ctl) (rd : BitVec 6) (ra : BitVec 6) (i : Bool) (m : Bool) (b : BitVec 6)
  /-- R98 -/
  | and (c : Ctl) (rd : BitVec 6) (ra : BitVec 6) (i : Bool) (b : BitVec 6)
  /-- R98 -/
  | or (c : Ctl) (rd : BitVec 6) (ra : BitVec 6) (i : Bool) (b : BitVec 6)
  /-- R98 -/
  | xor (c : Ctl) (rd : BitVec 6) (ra : BitVec 6) (i : Bool) (b : BitVec 6)
  /-- R98 -/
  | andn (c : Ctl) (rd : BitVec 6) (ra : BitVec 6) (i : Bool) (b : BitVec 6)
  /-- R98 -/
  | shl (c : Ctl) (rd : BitVec 6) (ra : BitVec 6) (i : Bool) (b : BitVec 6)
  /-- R98 -/
  | shr (c : Ctl) (rd : BitVec 6) (ra : BitVec 6) (i : Bool) (b : BitVec 6)
  /-- R98 -/
  | sra (c : Ctl) (rd : BitVec 6) (ra : BitVec 6) (i : Bool) (b : BitVec 6)
  /-- R98 -/
  | min (c : Ctl) (rd : BitVec 6) (ra : BitVec 6) (i : Bool) (m : Bool) (b : BitVec 6)
  /-- R98 -/
  | max (c : Ctl) (rd : BitVec 6) (ra : BitVec 6) (i : Bool) (m : Bool) (b : BitVec 6)
  /-- R100 -/
  | sel (c : Ctl) (rd : BitVec 6) (ra : BitVec 6) (rb : BitVec 6) (fs : BitVec 2)
  /-- R101 -/
  | clz (c : Ctl) (rd : BitVec 6) (ra : BitVec 6)
  /-- R101 -/
  | popc (c : Ctl) (rd : BitVec 6) (ra : BitVec 6)
  /-- R102 -/
  | movi (c : Ctl) (rd : BitVec 6) (imm : BitVec 14)
  /-- R102 -/
  | movhi (c : Ctl) (rd : BitVec 6) (imm : BitVec 14)
  /-- R104 -/
  | cmp (c : Ctl) (fd : BitVec 4) (cc : BitVec 3) (ra : BitVec 6) (i : Bool) (b : BitVec 6)
  /-- R103 -/
  | ext (c : Ctl) (rd : BitVec 6) (ra : BitVec 6) (wc : BitVec 2) (sg : Bool) (bo : BitVec 3)
  /-- R109 -/
  | br (c : Ctl) (bi : Bool) (bf : BitVec 4) (off : BitVec 15)
  /-- R109 -/
  | jmp (c : Ctl) (off : BitVec 20)
  /-- R111 -/
  | jmpi (c : Ctl) (ra : BitVec 6) (disp : BitVec 14)
  /-- R110 -/
  | call (c : Ctl) (off : BitVec 20)
  /-- R111 -/
  | ret (c : Ctl) (ra : BitVec 6)
  /-- R114 -/
  | loopImm (c : Ctl) (cnt : BitVec 8) (fin : BitVec 11)
  /-- R114 -/
  | loopReg (c : Ctl) (ra : BitVec 6) (fin : BitVec 11)
  /-- R117 -/
  | loopbrk (c : Ctl) (n : BitVec 3)
  /-- R118 -/
  | lidx (c : Ctl) (rd : BitVec 6) (cnt : Bool) (lv : BitVec 3)
  /-- R120 -/
  | seghint (c : Ctl) (off : BitVec 20)
  /-- R106 -/
  | fset (c : Ctl) (mask : BitVec 15)
  /-- R106 -/
  | fclr (c : Ctl) (mask : BitVec 15)
  /-- R107 -/
  | fop (c : Ctl) (fd : BitVec 4) (fa : BitVec 4) (fb : BitVec 4) (tt : BitVec 4)
  /-- R153 -/
  | vcwld (c : Ctl) (idx : BitVec 9) (ra : BitVec 6) (cnt : BitVec 4)
  /-- R236 -/
  | gmset (c : Ctl) (gn : BitVec 4) (ra : BitVec 6)
  /-- R244 -/
  | tkwait (c : Ctl) (cell : BitVec 8) (ra : BitVec 6)
  /-- R244 -/
  | tkadv (c : Ctl) (cell : BitVec 8) (inc : BitVec 12)
  /-- R244 -/
  | tkset (c : Ctl) (cell : BitVec 8) (ra : BitVec 6)
  /-- R247 -/
  | tqput (c : Ctl) (die : BitVec 4) (tq : BitVec 5) (rb : BitVec 6)
  /-- R247 -/
  | tqget (c : Ctl) (die : BitVec 4) (tq : BitVec 5) (rd : BitVec 6)
  /-- R247 -/
  | tqrel (c : Ctl) (die : BitVec 4) (tq : BitVec 5)
  /-- R250 -/
  | fence (c : Ctl) (cls : BitVec 4)
  /-- R261, R265 -/
  | post (c : Ctl) (sp : BitVec 4) (pri : BitVec 3)
  /-- R255, R265 -/
  | launch (c : Ctl) (sp : BitVec 4) (pri : BitVec 3)
  /-- R267 -/
  | spat (c : Ctl) (rd : BitVec 6) (lv : BitVec 3) (k : Bool)
  /-- R268 -/
  | sqid (c : Ctl) (rd : BitVec 6)
  /-- R270 -/
  | tend (c : Ctl)
  /-- R283 -/
  | chk (c : Ctl) (off : BitVec 20)
  /-- R298 -/
  | cmt (c : Ctl)
  /-- R291 -/
  | abt (c : Ctl) (code : BitVec 8)
  /-- R290 -/
  | gclr (c : Ctl)
  /-- R291 -/
  | asrt (c : Ctl) (code : BitVec 8)
  /-- R295 -/
  | rgst (c : Ctl) (rd : BitVec 6)
  /-- R306 -/
  | txb (c : Ctl) (off : BitVec 20)
  /-- R308 -/
  | txc (c : Ctl) (rd : BitVec 6)
  /-- R302 -/
  | snap (c : Ctl)
  /-- R302 -/
  | snape (c : Ctl)
  /-- R317 -/
  | ctxnew (c : Ctl) (rd : BitVec 6) (ra : BitVec 6)
  /-- R318 -/
  | ctxdel (c : Ctl) (rd : BitVec 6) (ra : BitVec 6)
  /-- R320 -/
  | ctxcore (c : Ctl) (sp : BitVec 4) (rd : BitVec 6) (ra : BitVec 6)
  /-- R321 -/
  | ctxmem (c : Ctl) (sp : BitVec 4) (rd : BitVec 6) (ra : BitVec 6)
  /-- R322 -/
  | ctxq (c : Ctl) (sp : BitVec 4) (rd : BitVec 6) (ra : BitVec 6)
  /-- R328 -/
  | ctxbud (c : Ctl) (sp : BitVec 4) (rd : BitVec 6) (ra : BitVec 6)
  /-- R336, R342 -/
  | ctxrunRun (c : Ctl) (rd : BitVec 6) (ra : BitVec 6) (rb : BitVec 6)
  /-- R336 -/
  | ctxrunRetry (c : Ctl) (rd : BitVec 6) (ra : BitVec 6) (rb : BitVec 6)
  /-- R336 -/
  | ctxrunRefuse (c : Ctl) (rd : BitVec 6) (ra : BitVec 6) (rb : BitVec 6)
  /-- R336 -/
  | ctxrunSkip (c : Ctl) (rd : BitVec 6) (ra : BitVec 6) (rb : BitVec 6)
  /-- R338, R339 -/
  | ctxstop (c : Ctl) (sp : BitVec 4) (rd : BitVec 6) (ra : BitVec 6)
  /-- R337 -/
  | ctxrev (c : Ctl) (rd : BitVec 6) (ra : BitVec 6)
  /-- R331 -/
  | ctxdlg (c : Ctl) (rd : BitVec 6) (ra : BitVec 6) (rb : BitVec 6)
  /-- R346 -/
  | ctxrd (c : Ctl) (rd : BitVec 6) (ra : BitVec 6) (rb : BitVec 6)
  /-- R343 -/
  | ctxsaveSave (c : Ctl) (sp : BitVec 4) (rd : BitVec 6) (ra : BitVec 6)
  /-- R343 -/
  | ctxsaveRestore (c : Ctl) (sp : BitVec 4) (rd : BitVec 6) (ra : BitVec 6)
  /-- R326 -/
  | shoot (c : Ctl) (rd : BitVec 6) (ra : BitVec 6) (rb : BitVec 6)
  /-- R357 -/
  | trap (c : Ctl) (n : BitVec 5)
  /-- R357 -/
  | eret (c : Ctl)
  /-- R351 -/
  | sysrd (c : Ctl) (rd : BitVec 6) (num : BitVec 14)
  /-- R351 -/
  | syswr (c : Ctl) (rb : BitVec 6) (num : BitVec 14)
  /-- R370 -/
  | pwracq (c : Ctl) (ra : BitVec 6)
  /-- R372 -/
  | pwrrel (c : Ctl)
  /-- R358 -/
  | feat (c : Ctl) (rd : BitVec 6) (w : BitVec 2)
  /-- R366 -/
  | cyc (c : Ctl) (rd : BitVec 6) (k : Bool)
  /-- R355 -/
  | tbase (c : Ctl) (ra : BitVec 6)
  /-- R357 -/
  | halt (c : Ctl)
  /-- R357 -/
  | brk (c : Ctl) (code : BitVec 8)
  /-- R359 -/
  | mcld (c : Ctl) (rd : BitVec 6) (ra : BitVec 6)
  /-- R67, R359: an S-slot syllable of the microcode range; store entry `ent` -/
  | microcodeS (c : Ctl) (ent : BitVec 4) (arg : BitVec 20)
  /-- R129 -/
  | ld (c : Ctl) (rs : BitVec 6) (ar : BitVec 5) (fmt : BitVec 3) (ofs : BitVec 8)
  /-- R129 -/
  | st (c : Ctl) (rs : BitVec 6) (ar : BitVec 5) (sz : BitVec 2) (ofs : BitVec 8)
  /-- R130 -/
  | ldv (c : Ctl) (vc : Bool) (vr : BitVec 11) (ar : BitVec 5) (ofs : BitVec 5)
  /-- R130 -/
  | stv (c : Ctl) (vc : Bool) (vr : BitVec 11) (ar : BitVec 5) (ofs : BitVec 5)
  /-- R131 -/
  | gath (c : Ctl) (vc : Bool) (vr : BitVec 11) (ar : BitVec 5) (ew : BitVec 2) (sg : Bool)
  /-- R131 -/
  | scat (c : Ctl) (vc : Bool) (vr : BitVec 11) (ar : BitVec 5) (ew : BitVec 2)
  /-- R133 -/
  | spld (c : Ctl) (rs : BitVec 6) (off : BitVec 11)
  /-- R133 -/
  | spst (c : Ctl) (rs : BitVec 6) (off : BitVec 11)
  /-- R135 -/
  | fld (c : Ctl) (rs : BitVec 6) (ar : BitVec 5) (fmt : BitVec 3) (arr : BitVec 8)
  /-- R135 -/
  | fldv (c : Ctl) (vc : Bool) (vr : BitVec 11) (ar : BitVec 5) (arr : BitVec 5)
  /-- R140 -/
  | cbrdVector (c : Ctl) (vc : Bool) (vr : BitVec 11) (cb : BitVec 3) (off : BitVec 6)
  /-- R140 -/
  | cbrdAddress (c : Ctl) (ar : BitVec 5) (tl : Bool) (cb : BitVec 3)
  /-- R141 -/
  | cbrel (c : Ctl) (cb : BitVec 3)
  /-- R132 -/
  | adrsetImm (c : Ctl) (ar : BitVec 5) (imm : BitVec 16)
  /-- R132 -/
  | adrsetReg (c : Ctl) (ar : BitVec 5) (rs : BitVec 6)
  /-- R132 -/
  | adraddImm (c : Ctl) (ar : BitVec 5) (imm : BitVec 16)
  /-- R132 -/
  | adraddReg (c : Ctl) (ar : BitVec 5) (rs : BitVec 6)
  /-- R143 -/
  | scld (c : Ctl) (xs : BitVec 3) (ar : BitVec 5) (all : Bool) (ofs : BitVec 8)
  /-- R281, R288 -/
  | ldgScalar (c : Ctl) (rs : BitVec 6) (ar : BitVec 5) (fmt : BitVec 3) (d : BitVec 7)
  /-- R281, R288 -/
  | ldgVector (c : Ctl) (vc : Bool) (vr : BitVec 11) (ar : BitVec 5) (d : BitVec 4)
  /-- R212 -/
  | cpyIn (c : Ctl) (q : BitVec 2) (sp : BitVec 4) (ce : Bool) (co : BitVec 4)
  /-- R212 -/
  | cpyOut (c : Ctl) (q : BitVec 2) (sp : BitVec 4) (ce : Bool) (co : BitVec 4)
  /-- R212 -/
  | cpyg (c : Ctl) (q : BitVec 2) (sp : BitVec 4) (ce : Bool) (co : BitVec 4)
  /-- R212 -/
  | cpyb (c : Ctl) (q : BitVec 2) (sp : BitVec 4) (ce : Bool) (co : BitVec 4) (cb : BitVec 3)
  /-- R212 -/
  | fill (c : Ctl) (q : BitVec 2) (sp : BitVec 4) (ce : Bool) (co : BitVec 4)
  /-- R216 -/
  | cred (c : Ctl) (q : BitVec 2) (sp : BitVec 4) (ce : Bool) (co : BitVec 4) (rop : BitVec 3) (fmt : BitVec 4)
  /-- R217 -/
  | gld (c : Ctl) (q : BitVec 2) (rd : BitVec 6) (ra : BitVec 6) (sz : BitVec 2) (aq : Bool) (arr : BitVec 4)
  /-- R218 -/
  | gst (c : Ctl) (q : BitVec 2) (rb : BitVec 6) (ra : BitVec 6) (sz : BitVec 2) (rl : Bool)
  /-- R219 -/
  | aadd (c : Ctl) (q : BitVec 2) (sp : BitVec 4) (rd : BitVec 6) (sz : Bool) (ord : BitVec 2) (arr : BitVec 4)
  /-- R219 -/
  | amin (c : Ctl) (q : BitVec 2) (sp : BitVec 4) (rd : BitVec 6) (sz : Bool) (sg : Bool) (ord : BitVec 2) (arr : BitVec 4)
  /-- R219 -/
  | amax (c : Ctl) (q : BitVec 2) (sp : BitVec 4) (rd : BitVec 6) (sz : Bool) (sg : Bool) (ord : BitVec 2) (arr : BitVec 4)
  /-- R219 -/
  | aand (c : Ctl) (q : BitVec 2) (sp : BitVec 4) (rd : BitVec 6) (sz : Bool) (ord : BitVec 2) (arr : BitVec 4)
  /-- R219 -/
  | aor (c : Ctl) (q : BitVec 2) (sp : BitVec 4) (rd : BitVec 6) (sz : Bool) (ord : BitVec 2) (arr : BitVec 4)
  /-- R219 -/
  | axor (c : Ctl) (q : BitVec 2) (sp : BitVec 4) (rd : BitVec 6) (sz : Bool) (ord : BitVec 2) (arr : BitVec 4)
  /-- R219 -/
  | axch (c : Ctl) (q : BitVec 2) (sp : BitVec 4) (rd : BitVec 6) (sz : Bool) (ord : BitVec 2) (arr : BitVec 4)
  /-- R219 -/
  | acas (c : Ctl) (q : BitVec 2) (sp : BitVec 4) (rd : BitVec 6) (sz : Bool) (ord : BitVec 2) (arr : BitVec 4)
  /-- R220 -/
  | csigCounter (c : Ctl) (q : BitVec 2) (co : BitVec 4) (ra : BitVec 6)
  /-- R220 -/
  | csigAddress (c : Ctl) (q : BitVec 2) (ra : BitVec 6)
  /-- R221 -/
  | cwaitReg (c : Ctl) (co : BitVec 4) (sb : Bool) (ra : BitVec 6)
  /-- R221 -/
  | cwaitImm (c : Ctl) (co : BitVec 4) (sb : Bool) (imm : BitVec 10)
  /-- R222 -/
  | drain (c : Ctl) (sc : BitVec 3)
  /-- R174, R176 -/
  | qadd (c : Ctl) (ql : BitVec 2) (cls : BitVec 2) (lm : Bool)
  /-- R174, R176 -/
  | qmax (c : Ctl) (ql : BitVec 2) (cls : BitVec 2) (lm : Bool)
  /-- R174, R176 -/
  | qmin (c : Ctl) (ql : BitVec 2) (cls : BitVec 2) (lm : Bool)
  /-- R178 -/
  | qdrn (c : Ctl) (ql : BitVec 2) (rd : BitVec 6) (cl : Bool)
  /-- R179 -/
  | qclr (c : Ctl) (ql : BitVec 2) (iv : BitVec 2) (lm : Bool)
  /-- R194 -/
  | mma (c : Ctl) (t : BitVec 11) (qd : Bool) (aa : BitVec 5) (ab : BitVec 5) (fa : BitVec 3) (fb : BitVec 3) (ncm : BitVec 7) (z : Bool) (ps : Bool)
  /-- R195 -/
  | mmas (c : Ctl) (t : BitVec 11) (qd : Bool) (sp : BitVec 5) (ab : BitVec 5) (fa : BitVec 3) (fb : BitVec 3) (ncm : BitVec 7) (z : Bool)
  /-- R199 -/
  | tzero (c : Ctl) (t : BitVec 11) (qd : Bool)
  /-- R200 -/
  | tld (c : Ctl) (t : BitVec 11) (qd : Bool) (ar : BitVec 5) (fmt : BitVec 5) (ps : Bool)
  /-- R201 -/
  | tst (c : Ctl) (t : BitVec 11) (qd : Bool) (ar : BitVec 5) (fmt : BitVec 5) (xs : BitVec 3) (sat : Bool) (ps : Bool)
  /-- R202 -/
  | tadd (c : Ctl) (t : BitVec 11) (qd : Bool) (ta : BitVec 11) (src : BitVec 14)
  /-- R202 -/
  | tmov (c : Ctl) (t : BitVec 11) (qd : Bool) (ta : BitVec 11)
  /-- R198 -/
  | trow (c : Ctl) (rd : BitVec 6) (cl : Bool)
  /-- R155 -/
  | vadd (e : Vcw)
  /-- R155 -/
  | vsub (e : Vcw)
  /-- R155 -/
  | vmul (e : Vcw)
  /-- R155 -/
  | vfma (e : Vcw)
  /-- R155 -/
  | vfms (e : Vcw)
  /-- R156 -/
  | vmin (e : Vcw)
  /-- R156 -/
  | vmax (e : Vcw)
  /-- R156 -/
  | vabs (e : Vcw)
  /-- R156 -/
  | vneg (e : Vcw)
  /-- R155 -/
  | vand (e : Vcw)
  /-- R155 -/
  | vor (e : Vcw)
  /-- R155 -/
  | vxor (e : Vcw)
  /-- R155 -/
  | vshl (e : Vcw)
  /-- R155 -/
  | vshr (e : Vcw)
  /-- R155 -/
  | vsra (e : Vcw)
  /-- R157 -/
  | vcmp (e : Vcw)
  /-- R158 -/
  | vsel (e : Vcw)
  /-- R159 -/
  | vcvt (e : Vcw)
  /-- R160 -/
  | vqbfp (e : Vcw)
  /-- R161 -/
  | vxbfp (e : Vcw)
  /-- R162 -/
  | vrcp (e : Vcw)
  /-- R162 -/
  | vrsq (e : Vcw)
  /-- R162 -/
  | vexp2 (e : Vcw)
  /-- R162 -/
  | vlog2 (e : Vcw)
  /-- R162 -/
  | vtanh (e : Vcw)
  /-- R163 -/
  | vperm (e : Vcw)
  /-- R168 -/
  | vxc (e : Vcw)
  /-- R164 -/
  | vbc (e : Vcw)
  /-- R165 -/
  | vext (e : Vcw)
  /-- R166 -/
  | viota (e : Vcw)
  /-- R167 -/
  | vscan (e : Vcw)
  /-- R169 -/
  | vflg (e : Vcw)
  /-- R67, R359: a VCW entry of the microcode range; store entry `ent` -/
  | microcodeVcw (e : Vcw) (ent : BitVec 4)
  /-- R233 -/
  | cwaitTimeout (bank : Nat)
  /-- R402 -/
  | tdispRequest (vf : Nat) (req : TdiReq)
  /-- R401 -/
  | vfEnable (vf ctx : Nat)
  /-- R413 -/
  | sdrWrite (val : BitVec 64)
  /-- R337, R342 -/
  | savedBankBind (idx : Nat) (place : Place)
  /-- R334: the oldest pending record whose ring has room is written -/
  | trapRecordWrite
  /-- R305 -/
  | versionCollect
  /-- R245: the oldest update sent and not yet performed -/
  | ticketUpdatePerform
  /-- R266: the first launch whose tasks have all ended -/
  | launchComplete
  /-- R316: the command processor performs the oldest waiting form -/
  | contextFormComplete
  /-- R414 -/
  | shootdownProcess
  /-- R411: the first object whose unload can finish -/
  | unloadComplete
  /-- R401 -/
  | getVersion
  /-- R401 -/
  | getCapabilities
  /-- R401 -/
  | negotiateAlgorithms
  /-- R401 -/
  | getDigests
  /-- R401 -/
  | getCertificate
  /-- R401 -/
  | challenge
  /-- R420 -/
  | getMeasurements
  /-- R401 -/
  | keyExchange
  /-- R401 -/
  | finish
  /-- R419 -/
  | coldStart
  /-- R419 -/
  | warmStart
  /-- R374 -/
  | powerLoss
  /-- R329 -/
  | bucketRefill
  deriving DecidableEq, Repr

/-- A syllable as it stands in a bundle's slot: an operation, or a vector syllable that names a table entry (R44). -/
inductive Syl where
  | op  (i : Instr)
  | vec (h : Bool) (idx : BitVec 9) (slide : BitVec 6)
  deriving DecidableEq, Repr

end Sys2Proof
end

