-- ==== Sys2Proof/Config.lean ====
section
/-! DEFINITION. What the spec leaves open (R6) and what an implementation fixes. Each opaque constant has no body: no
proof can find a value of it, so a claim about it holds for every value (assumption log, entry 1). -/

namespace Sys2Proof

/-- The kind of a hardware loop level in a kernel's loop table (R258). -/
inductive LoopKind where
  | temporal | cores | dies
  deriving DecidableEq, Repr

/-- One entry of a kernel's loop table: its kind, the spread of a spatial level and the largest declared count, 0 when
none is declared (R258). -/
structure LoopEnt where
  kind   : LoopKind
  spread : Nat
  most   : Nat
  deriving DecidableEq, Repr

/-- The partition modes (R11). -/
inductive Mode where
  | whole | half | quarter
  deriving DecidableEq, Repr

/-- The items that a live list can name (R37). -/
inductive LiveItem where
  | s (n : Nat) | a (n : Nat) | f (n : Nat) | v (n : Nat) | q (n col : Nat) | xs (n col : Nat) | t (n : Nat)
  deriving DecidableEq, Repr

/-- The claims of a kernel (R408): what Okra reads from a kernel record. Addresses are virtual, in the context that
loaded the object. -/
structure Kern where
  mode    : Mode
  partw   : BitVec 32
  tickets : Nat
  vcw     : List VcwBits
  live    : List (Nat × List LiveItem)
  loops   : List LoopEnt
  power   : Nat
  /-- The code segments: offset in the code section and length in bytes. -/
  segs    : List (Nat × Nat)
  scratch : List Byte
  entry   : BitVec 56
  /-- The X-column constraint: the quarter in quarter mode, h in half mode (R188). -/
  xcol    : Option Nat
  feat    : BitVec 256
  deriving DecidableEq, Repr

/-- A global symbol that an object defines (R33, R410): its name, its index in the symbol table, its strength and its value. -/
structure Symbol where
  name  : Nat
  index : Nat
  weak  : Bool
  value : DWord
  deriving DecidableEq, Repr

namespace Config

/-- FREE VALUE (R6 "undefined"). The argument says where the value is drawn: the model's counter `fresh` and the place
read. A `w`-bit value is taken from its low `w` bits. -/
opaque undef : List Nat → Nat

/-- FREE CHOICE (R6 "unspecified"). A choice among `n` outcomes is `pick place % n`. -/
opaque pick : List Nat → Nat

/-- FREE: the verdict of an RSA-4096 check with SHA-512 (R25, R359, R409) on the bytes of an image under some public moduli:
the spec does not give the encoding of the digest. -/
opaque signatureOk : List (BitVec 4096) → List Byte → Bool

/-- FREE: SHA-512 (R418, R420): a standard outside the spec. -/
opaque sha512 : List Byte → BitVec 512

/-- DEVICE VALUE: the hash of the configuration key that the boot ROM holds (R418). -/
opaque romHash : BitVec 512

/-- DEVICE VALUE: the energy table (R369), by entry number 16p + c, in 1/16 A. -/
opaque energy : Nat → BitVec 16

/-- FREE: the register writes of a microcode entry (R67, R359): firmware supplies the bodies. The arguments are the
entry's body and the syllable's fields; each result is a destination kind, an index and a value. -/
opaque microcode : List Byte → Nat → List (Nat × Nat × Nat)

/-- FREE: the symbols that an object exports, by its bytes and the virtual address it was loaded at, on which a code
address depends (R35, R410): the layout of the symbol table is not given. -/
opaque defs : List Byte → BitVec 56 → List Symbol

/-- FREE: the names that an object's value lists use and that it does not define, in order, each with its index in the symbol
table (R35, R410). -/
opaque refs : List Byte → List (Nat × Nat)

/-- FREE: the values of the value lists that name such symbols, once the symbols have the values given (R34, R35): offsets in
the object, and bytes. -/
opaque patches : List Byte → List DWord → List (Nat × List Byte)

/-- FREE: the virtual address at which an object's global data stands, by its bytes and the virtual address it was loaded at
(R33). -/
opaque dataBase : List Byte → BitVec 56 → Nat

/-- FREE: where Okra maps the code section of an object, in units of 64 KiB (R58), by the object's bytes and the virtual
address it was loaded at. -/
opaque codeBase : List Byte → BitVec 56 → Nat

/-- FREE: the kernel records of a Joset object (R408), whose layout inside the kernel table the spec does not give, with the
entry point as an offset of the code section. The arguments are the object's bytes and the virtual address it was loaded
at. -/
opaque kernels : List Byte → BitVec 56 → List Kern

/-- FREE: the indirect-target table of a kernel (R271), by the object and the kernel's index, as offsets of the code section:
the layout of the tables is not given. -/
opaque targets : List Byte → Nat → List Nat

/-- FREE: a package is reached through another one's ports (R417): the fabric's topology is not given. -/
opaque routes : Nat → Nat → Bool

/-- FREE: the payload of an SPDM answer (R401), by the request's number and the package's identity: the standard that
lays the bytes out is outside the spec. -/
opaque spdm : Nat → BitVec 64 → List Byte

/-- FREE: the bytes of a part of a save record whose layout the spec does not give (a packet, a blocked form, a stream
record, R343), by what it holds. -/
opaque recordPart : List Nat → Nat

/-- FREE: what a restore reads from such bytes. -/
opaque recordContent : Nat → List Nat

end Config

end Sys2Proof
end

