-- ==== Sys2Proof/Decode.lean ====
section
/-! DEFINITION. The encodings (R40 to R47, R60 to R67 and each family's table of operand fields): fields packed from the
most significant bit down, as the tables print them; an encoder and a decoder written from those tables; the values of
fields that a form's entry states to be illegal. -/

namespace Sys2Proof

/-- The total width of a list of fields. -/
def widthOf (ws : List Nat) : Nat := ws.foldr (· + ·) 0

/-- Fields given as (width, value), the first the most significant. -/
def pack : List (Nat × Nat) → Nat
  | [] => 0
  | (_, v) :: fs => v * 2 ^ widthOf (fs.map Prod.fst) + pack fs

/-- The values of fields of the given widths, the first the most significant; bits above the fields are ignored. -/
def unpack : List Nat → Nat → List Nat
  | [], _ => []
  | w :: ws, n => n / 2 ^ widthOf ws % 2 ^ w :: unpack ws n

/-- A one-bit field. -/
def bit (n : Nat) : Bool := n != 0

/-- The width in bits of a slot's syllable (R43 to R45). -/
def Slot.width : Slot → Nat
  | .s | .l | .w | .c | .q => 32
  | .va | .vb => 16
  | .x => 48
  | .vcw => 256

/-- H, OP, PF, PI and the operand field of an S syllable (R43). -/
def packS (c : Ctl) (op : Nat) (fs : List (Nat × Nat)) : Nat :=
  pack ([(1, c.h.toNat), (7, op), (3, c.pf.toNat), (1, c.pi.toNat)] ++ fs)

/-- The same of an L or W syllable. -/
def packL (c : Ctl) (op : Nat) (fs : List (Nat × Nat)) : Nat :=
  pack ([(1, c.h.toNat), (5, op), (3, c.pf.toNat), (1, c.pi.toNat)] ++ fs)

/-- The same of a C syllable. -/
def packC (c : Ctl) (op : Nat) (fs : List (Nat × Nat)) : Nat :=
  pack ([(1, c.h.toNat), (6, op), (3, c.pf.toNat), (1, c.pi.toNat)] ++ fs)

/-- The same of a Q syllable. -/
def packQ (c : Ctl) (op : Nat) (fs : List (Nat × Nat)) : Nat :=
  pack ([(1, c.h.toNat), (4, op), (3, c.pf.toNat), (1, c.pi.toNat)] ++ fs)

/-- The same of an X syllable, of 48 bits. -/
def packX (c : Ctl) (op : Nat) (fs : List (Nat × Nat)) : Nat :=
  pack ([(1, c.h.toNat), (6, op), (3, c.pf.toNat), (1, c.pi.toNat)] ++ fs)

/-- A VCW (R45). -/
def packVcw (op : Nat) (e : Vcw) : Nat :=
  pack [(8, op), (5, e.fmt.toNat), (5, e.fmt2.toNat), (11, e.rd.toNat), (11, e.ra.toNat), (11, e.rb.toNat),
    (11, e.rc.toNat), (8, e.std.toNat), (8, e.sta.toNat), (8, e.stb.toNat), (8, e.stc.toNat), (3, e.pf.toNat),
    (1, e.pi.toNat), (1, e.lp.toNat), (2, e.rm.toNat), (1, e.sat.toNat), (1, e.nf.toNat), (1, e.tq.toNat),
    (1, e.sbe.toNat), (6, e.sbs.toNat), (16, e.imm.toNat), (129, 0)]

/-- The fields of a VCW (R45). -/
def unpackVcw (w : Nat) : Option (Nat × Vcw) :=
  match unpack [8, 5, 5, 11, 11, 11, 11, 8, 8, 8, 8, 3, 1, 1, 2, 1, 1, 1, 1, 6, 16, 129] w with
  | [op, fmt, fmt2, rd, ra, rb, rc, std, sta, stb, stc, pf, pi, lp, rm, sat, nf, tq, sbe, sbs, imm, _] =>
    some (op, ⟨.ofNat _ fmt, .ofNat _ fmt2, .ofNat _ rd, .ofNat _ ra, .ofNat _ rb, .ofNat _ rc, .ofNat _ std,
      .ofNat _ sta, .ofNat _ stb, .ofNat _ stc, .ofNat _ pf, bit pi, bit lp, .ofNat _ rm, bit sat, bit nf, bit tq,
      bit sbe, .ofNat _ sbs, .ofNat _ imm⟩)
  | _ => none

/-! ### Illegal field values (R47) -/

/-- The integer formats of vector operations, INT (R46, R151). -/
def isInt (f : Nat) : Bool := f == 0 || f == 1 || f == 2 || f == 4 || f == 5 || f == 6

/-- The floating-point formats, FLT (R46, R151). -/
def isFlt (f : Nat) : Bool := 8 <= f && f <= 12

/-- The block formats .b2 to .b8 and .b16 (R46). -/
def isBfp (f : Nat) : Bool := 0x10 <= f && f <= 0x17

/-- The mantissa width of a block format (R46, R88). -/
def bfpWidth (f : Nat) : Nat := if f == 0x17 then 16 else f - 0x0E

/-- The width in bits of an element of a format (R46). -/
def fmtWidth (f : Nat) : Nat :=
  match f with
  | 0 | 4 | 11 | 12 => 8
  | 1 | 5 | 9 | 10 => 16
  | 3 | 7 => 64
  | _ => 32

/-- The operations and formats that CRED accepts (R216). -/
def credOk (rop fmt : Nat) : Bool :=
  if rop <= 2 then fmt == 2 || fmt == 3 || fmt == 6 || fmt == 7 || fmt == 8 || fmt == 9 || fmt == 10
  else rop <= 5 && (fmt == 6 || fmt == 7)

/-- The formats and the saturate bit that TST accepts (R201). -/
def tstOk (fmt : Nat) (sat : Bool) : Bool := isFlt fmt || ((isInt fmt || isBfp fmt) && !sat)

/-- The source field of TADD: M at [13] and, by M, TB or AR and PS, with the other bits 0 (R185). -/
def taddOk (src : Nat) : Bool := if src.testBit 13 then src % 128 == 0 else src % 4 == 0

/-- Which fields the operation of a VCW uses, and the values its entry allows (R150, R151 and the entry's own rule). -/
def vcwLegal (op : Nat) (e : Vcw) : Bool :=
  let f := e.fmt.toNat
  let g := e.fmt2.toNat
  let n := e.imm.toNat
  let noRa := e.ra == 0 && e.sta == 0
  let noRb := e.rb == 0 && e.stb == 0
  let noRc := e.rc == 0 && e.stc == 0
  let noRd := e.rd == 0 && e.std == 0
  let noB := noRb && !e.sbe
  let noRnd := e.rm == 0
  let noSat := !e.sat
  let num := isInt f || isFlt f
  (e.sbe || e.sbs == 0) &&
  match op with
  | 0 | 1 | 2 => num && g == 0 && noRc && n == 0 && (!e.sbe || noRb) && (isFlt f || noRnd)
  | 3 | 4 => num && g == 0 && n == 0 && (!e.sbe || noRb) && (isFlt f || noRnd)
  | 5 | 6 => num && g == 0 && noRc && n == 0 && (!e.sbe || noRb) && noRnd && noSat
  | 7 | 8 => num && g == 0 && noRc && n == 0 && noB && noRnd && (isInt f || noSat)
  | 9 | 10 | 11 => f == 6 && g == 0 && noRc && n == 0 && (!e.sbe || noRb) && noRnd && noSat
  | 12 | 13 | 14 => isInt f && g == 0 && noRc && n == 0 && (!e.sbe || noRb) && noRnd && noSat
  | 15 => num && g == 0 && noRc && n <= (if isInt f then 5 else 7) && (!e.sbe || noRb) && noRnd && noSat &&
      (isInt f || !e.tq)
  | 16 => num && g == 0 && n == 0 && (!e.sbe || noRb) && noRnd && noSat
  | 17 =>
    num && (isInt g || isFlt g) && noB && noRc && (isFlt f || isFlt g || noRnd) && (!(isFlt f && isInt g) || noSat) &&
      n < (if fmtWidth f >= fmtWidth g then fmtWidth f / fmtWidth g else fmtWidth g / fmtWidth f)
  | 18 => f == 8 && isBfp g && noB && noRnd && noSat && !e.lp && !e.tq && n < 32 / bfpWidth g
  | 19 => f == 8 && isBfp g && noRc && !e.sbe && !e.lp && !e.tq && n < 32 / bfpWidth g
  | 20 | 21 | 22 | 23 | 24 => (f == 8 || f == 9 || f == 10) && g == 0 && noB && noRc && n == 0
  | 25 => f == 6 && g == 0 && !e.sbe && noRnd && noSat && n == 0
  | 26 => f == 6 && g == 0 && noB && noRc && noRnd && noSat && !e.nf && !e.tq && n <= 7
  | 27 => num && g == 0 && noRb && noRc && noRnd && noSat && (if e.sbe then noRa && n == 0 else n < 512 / fmtWidth f)
  | 28 => num && g == 0 && noRc && (!e.sbe || noRb) && noRnd && noSat && n < 512 / fmtWidth f
  | 29 => isInt f && g == 0 && noRa && noRb && noRc && noRnd && noSat && (!e.sbe || n == 0)
  | 30 => num && g == 0 && noB && noRc && n <= 2 && ((n == 0 && isFlt f) || noRnd) && (n == 0 || noSat)
  | 31 =>
    f == 0 && g == 0 && noB && noRc && noRnd && noSat && !e.nf && !e.tq &&
      (match n % 4 with
      | 0 => n / 4 == 0 && noRa
      | 1 => n / 128 == 0 && noRa && noRd
      | 2 => n / 4 == 0 && noRd
      | _ => false)
  | _ => true

/-- No field of the instruction holds a value that its entry states to be illegal (R47, R97, R150, R173, R207, R235,
R264, R282, R313; H of a control-flow or region form). -/
def Instr.fieldsOk : Instr → Bool
  | .bundleIssue _ => true
  | .asyncAbort _ => true
  | .waitSyllableExecute _ _ _ => true
  | .resultLand _ => true
  | .latchUpdate _ => true
  | .segmentExpand _ => true
  | .fairnessExpiry _ => true
  | .barrierArrival _ => true
  | .barrierComplete _ => true
  | .farRead _ _ => true
  | .farDataArrival _ _ => true
  | .farLoadLand _ => true
  | .gldFault _ => true
  | .xOpStart _ _ => true
  | .tileRelease _ _ => true
  | .mmasRow _ _ => true
  | .packetStart _ _ _ => true
  | .packetGranule _ _ _ => true
  | .packetComplete _ _ _ => true
  | .atomicPerform _ _ _ => true
  | .cmtCommit _ => true
  | .txcCommit _ => true
  | .tkwaitRetire _ => true
  | .tqputComplete _ => true
  | .tqgetComplete _ => true
  | .tqrelComplete _ => true
  | .fenceRetire _ => true
  | .cwaitRetire _ => true
  | .drainRetire _ => true
  | .postEnqueue _ => true
  | .launchEnqueue _ => true
  | .launchBind _ _ => true
  | .taskDispatch _ _ _ => true
  | .bankSwitch _ => true
  | .shareWindowSwitch _ _ => true
  | .watchdogExpiry _ _ => true
  | .handlerForcedEntry _ => true
  | .settleComplete _ => true
  | .droopDetect _ => true
  | .powerGrant _ => true
  | .thermalTrip _ _ => true
  | .mcldLoad _ => true
  | .softError _ => true
  | .sramUncorrectable _ _ => true
  | .cbcWrite _ _ _ _ => true
  | .s1rWrite _ _ => true
  | .tqcWrite _ _ => true
  | .trrWrite _ _ => true
  | .vpoolWrite _ => true
  | .registerWrite _ _ _ => true
  | .uqnNotify _ _ => true
  | .uqdWrite _ _ _ => true
  | .launchPacket _ => true
  | .loadPacket _ => true
  | .unloadPacket _ => true
  | .graphPacket _ => true
  | .replyPacket _ => true
  | .hostMemoryAccess _ => true
  | .fetchadd _ _ => true
  | .swap _ _ => true
  | .cas _ _ _ => true
  | .functionLevelReset _ => true
  | .flitArrival _ _ _ _ => true
  | .add _ _ _ _ _ => true
  | .sub _ _ _ _ _ => true
  | .mul _ _ _ _ _ => true
  | .mulh _ _ _ _ _ _ => true
  | .div _ _ _ _ _ _ => true
  | .rem _ _ _ _ _ _ => true
  | .and _ _ _ _ _ => true
  | .or _ _ _ _ _ => true
  | .xor _ _ _ _ _ => true
  | .andn _ _ _ _ _ => true
  | .shl _ _ _ _ _ => true
  | .shr _ _ _ _ _ => true
  | .sra _ _ _ _ _ => true
  | .min _ _ _ _ _ _ => true
  | .max _ _ _ _ _ _ => true
  | .sel _ _ _ _ _ => true
  | .clz _ _ _ => true
  | .popc _ _ _ => true
  | .movi _ _ _ => true
  | .movhi _ _ _ => true
  | .cmp _ _ _ _ _ _ => true
  | .ext _ _ _ wc _ bo => wc.toNat != 3 && bo.toNat + 2 ^ wc.toNat <= 8
  | .br c _ _ _ => !c.h
  | .jmp c _ => !c.h
  | .jmpi c _ _ => !c.h
  | .call c _ => !c.h
  | .ret c _ => !c.h
  | .loopImm c _ _ => !c.h
  | .loopReg c _ _ => !c.h
  | .loopbrk c n => !c.h && n.toNat <= 5
  | .lidx _ _ _ lv => lv.toNat <= 5
  | .seghint _ _ => true
  | .fset _ _ => true
  | .fclr _ _ => true
  | .fop _ _ _ _ _ => true
  | .vcwld _ idx _ cnt => idx.toNat + cnt.toNat <= 511
  | .gmset _ gn _ => gn != 0
  | .tkwait _ _ _ => true
  | .tkadv _ _ inc => inc != 0
  | .tkset _ _ _ => true
  | .tqput _ die _ _ => die.toNat <= 9
  | .tqget _ die _ _ => die.toNat <= 9
  | .tqrel _ die _ => die.toNat <= 9
  | .fence _ cls => cls != 0
  | .post _ sp _ => sp != 0
  | .launch _ sp _ => sp != 0
  | .spat _ _ lv _ => lv.toNat <= 5
  | .sqid _ _ => true
  | .tend c => !c.h
  | .chk c _ => !c.h
  | .cmt c => !c.h
  | .abt _ _ => true
  | .gclr _ => true
  | .asrt _ _ => true
  | .rgst _ _ => true
  | .txb c _ => !c.h
  | .txc c _ => !c.h
  | .snap c => !c.h
  | .snape c => !c.h
  | .ctxnew _ _ _ => true
  | .ctxdel _ _ _ => true
  | .ctxcore _ sp _ _ => sp != 0
  | .ctxmem _ sp _ _ => sp != 0
  | .ctxq _ sp _ _ => sp != 0
  | .ctxbud _ sp _ _ => sp != 0
  | .ctxrunRun _ _ _ _ => true
  | .ctxrunRetry _ _ _ _ => true
  | .ctxrunRefuse _ _ _ _ => true
  | .ctxrunSkip _ _ _ _ => true
  | .ctxstop _ sp _ _ => sp != 0
  | .ctxrev _ _ _ => true
  | .ctxdlg _ _ _ _ => true
  | .ctxrd _ _ _ _ => true
  | .ctxsaveSave _ sp _ _ => sp != 0
  | .ctxsaveRestore _ sp _ _ => sp != 0
  | .shoot _ _ _ _ => true
  | .trap c _ => !c.h
  | .eret c => !c.h
  | .sysrd _ _ _ => true
  | .syswr _ _ _ => true
  | .pwracq _ _ => true
  | .pwrrel _ => true
  | .feat _ _ _ => true
  | .cyc _ _ _ => true
  | .tbase _ _ => true
  | .halt c => !c.h
  | .brk c _ => !c.h
  | .mcld _ _ _ => true
  | .microcodeS _ _ _ => true
  | .ld _ _ _ fmt _ => fmt != 7
  | .st _ _ _ _ _ => true
  | .ldv _ _ _ _ _ => true
  | .stv _ _ _ _ _ => true
  | .gath _ _ _ _ ew _ => ew != 3
  | .scat _ _ _ _ ew => ew != 3
  | .spld _ _ _ => true
  | .spst _ _ _ => true
  | .fld _ _ _ fmt arr => fmt != 7 && arr.toNat >= 8
  | .fldv _ _ _ _ _ => true
  | .cbrdVector _ _ _ _ _ => true
  | .cbrdAddress _ _ _ _ => true
  | .cbrel _ _ => true
  | .adrsetImm _ _ _ => true
  | .adrsetReg _ _ _ => true
  | .adraddImm _ _ _ => true
  | .adraddReg _ _ _ => true
  | .scld _ xs _ all _ => !all || xs == 0
  | .ldgScalar _ _ _ fmt _ => fmt != 7
  | .ldgVector _ _ _ _ _ => true
  | .cpyIn _ _ sp ce co => sp != 0 && (ce || co == 0)
  | .cpyOut _ _ sp ce co => sp != 0 && (ce || co == 0)
  | .cpyg _ _ sp ce co => sp != 0 && (ce || co == 0)
  | .cpyb _ _ sp ce co _ => sp != 0 && (ce || co == 0)
  | .fill _ _ sp ce co => sp != 0 && (ce || co == 0)
  | .cred _ _ sp ce co rop fmt => sp != 0 && (ce || co == 0) && credOk rop.toNat fmt.toNat
  | .gld _ _ _ _ _ _ _ => true
  | .gst _ _ _ _ _ _ => true
  | .aadd _ _ sp rd _ _ arr => sp != 0 && (rd != 0 || arr == 0)
  | .amin _ _ sp rd _ _ _ arr => sp != 0 && (rd != 0 || arr == 0)
  | .amax _ _ sp rd _ _ _ arr => sp != 0 && (rd != 0 || arr == 0)
  | .aand _ _ sp rd _ _ arr => sp != 0 && (rd != 0 || arr == 0)
  | .aor _ _ sp rd _ _ arr => sp != 0 && (rd != 0 || arr == 0)
  | .axor _ _ sp rd _ _ arr => sp != 0 && (rd != 0 || arr == 0)
  | .axch _ _ sp rd _ _ arr => sp != 0 && (rd != 0 || arr == 0)
  | .acas _ _ sp rd _ _ arr => sp != 0 && (rd != 0 || arr == 0)
  | .csigCounter _ _ _ _ => true
  | .csigAddress _ _ _ => true
  | .cwaitReg _ _ _ _ => true
  | .cwaitImm _ _ _ _ => true
  | .drain _ sc => sc.toNat <= 4
  | .qadd _ _ cls _ => cls != 3
  | .qmax _ _ cls _ => cls != 3
  | .qmin _ _ cls _ => cls != 3
  | .qdrn _ _ _ _ => true
  | .qclr _ _ iv lm => iv != 3 && (iv != 0 || !lm)
  | .mma _ t qd _ _ _ _ _ _ _ => (!qd || t.toNat % 4 == 0)
  | .mmas _ t qd sp _ _ _ _ _ => sp != 0 && (!qd || t.toNat % 4 == 0)
  | .tzero _ t qd => (!qd || t.toNat % 4 == 0)
  | .tld _ t qd _ fmt _ => (!qd || t.toNat % 4 == 0) && fmt.toNat >= 8 && fmt.toNat <= 10
  | .tst _ t qd _ fmt _ sat _ => (!qd || t.toNat % 4 == 0) && tstOk fmt.toNat sat
  | .tadd _ t qd _ src => (!qd || t.toNat % 4 == 0) && taddOk src.toNat
  | .tmov _ t qd _ => (!qd || t.toNat % 4 == 0)
  | .trow _ _ _ => true
  | .vadd e => vcwLegal 0x00 e
  | .vsub e => vcwLegal 0x01 e
  | .vmul e => vcwLegal 0x02 e
  | .vfma e => vcwLegal 0x03 e
  | .vfms e => vcwLegal 0x04 e
  | .vmin e => vcwLegal 0x05 e
  | .vmax e => vcwLegal 0x06 e
  | .vabs e => vcwLegal 0x07 e
  | .vneg e => vcwLegal 0x08 e
  | .vand e => vcwLegal 0x09 e
  | .vor e => vcwLegal 0x0A e
  | .vxor e => vcwLegal 0x0B e
  | .vshl e => vcwLegal 0x0C e
  | .vshr e => vcwLegal 0x0D e
  | .vsra e => vcwLegal 0x0E e
  | .vcmp e => vcwLegal 0x0F e
  | .vsel e => vcwLegal 0x10 e
  | .vcvt e => vcwLegal 0x11 e
  | .vqbfp e => vcwLegal 0x12 e
  | .vxbfp e => vcwLegal 0x13 e
  | .vrcp e => vcwLegal 0x14 e
  | .vrsq e => vcwLegal 0x15 e
  | .vexp2 e => vcwLegal 0x16 e
  | .vlog2 e => vcwLegal 0x17 e
  | .vtanh e => vcwLegal 0x18 e
  | .vperm e => vcwLegal 0x19 e
  | .vxc e => vcwLegal 0x1A e
  | .vbc e => vcwLegal 0x1B e
  | .vext e => vcwLegal 0x1C e
  | .viota e => vcwLegal 0x1D e
  | .vscan e => vcwLegal 0x1E e
  | .vflg e => vcwLegal 0x1F e
  | .microcodeVcw _ _ => true
  | .cwaitTimeout _ => true
  | .tdispRequest _ _ => true
  | .vfEnable _ _ => true
  | .sdrWrite _ => true
  | .savedBankBind _ _ => true
  | .trapRecordWrite => true
  | .versionCollect => true
  | .ticketUpdatePerform => true
  | .launchComplete => true
  | .contextFormComplete => true
  | .shootdownProcess => true
  | .unloadComplete => true
  | .getVersion => true
  | .getCapabilities => true
  | .negotiateAlgorithms => true
  | .getDigests => true
  | .getCertificate => true
  | .challenge => true
  | .getMeasurements => true
  | .keyExchange => true
  | .finish => true
  | .coldStart => true
  | .warmStart => true
  | .powerLoss => true
  | .bucketRefill => true

/-- The slots in which a form may stand (R60 to R66); none for a move that has no encoding. -/
def Instr.slots : Instr → List Slot
  | .bundleIssue _ => []
  | .asyncAbort _ => []
  | .waitSyllableExecute _ _ _ => []
  | .resultLand _ => []
  | .latchUpdate _ => []
  | .segmentExpand _ => []
  | .fairnessExpiry _ => []
  | .barrierArrival _ => []
  | .barrierComplete _ => []
  | .farRead _ _ => []
  | .farDataArrival _ _ => []
  | .farLoadLand _ => []
  | .gldFault _ => []
  | .xOpStart _ _ => []
  | .tileRelease _ _ => []
  | .mmasRow _ _ => []
  | .packetStart _ _ _ => []
  | .packetGranule _ _ _ => []
  | .packetComplete _ _ _ => []
  | .atomicPerform _ _ _ => []
  | .cmtCommit _ => []
  | .txcCommit _ => []
  | .tkwaitRetire _ => []
  | .tqputComplete _ => []
  | .tqgetComplete _ => []
  | .tqrelComplete _ => []
  | .fenceRetire _ => []
  | .cwaitRetire _ => []
  | .drainRetire _ => []
  | .postEnqueue _ => []
  | .launchEnqueue _ => []
  | .launchBind _ _ => []
  | .taskDispatch _ _ _ => []
  | .bankSwitch _ => []
  | .shareWindowSwitch _ _ => []
  | .watchdogExpiry _ _ => []
  | .handlerForcedEntry _ => []
  | .settleComplete _ => []
  | .droopDetect _ => []
  | .powerGrant _ => []
  | .thermalTrip _ _ => []
  | .mcldLoad _ => []
  | .softError _ => []
  | .sramUncorrectable _ _ => []
  | .cbcWrite _ _ _ _ => []
  | .s1rWrite _ _ => []
  | .tqcWrite _ _ => []
  | .trrWrite _ _ => []
  | .vpoolWrite _ => []
  | .registerWrite _ _ _ => []
  | .uqnNotify _ _ => []
  | .uqdWrite _ _ _ => []
  | .launchPacket _ => []
  | .loadPacket _ => []
  | .unloadPacket _ => []
  | .graphPacket _ => []
  | .replyPacket _ => []
  | .hostMemoryAccess _ => []
  | .fetchadd _ _ => []
  | .swap _ _ => []
  | .cas _ _ _ => []
  | .functionLevelReset _ => []
  | .flitArrival _ _ _ _ => []
  | .add _ _ _ _ _ => [.s]
  | .sub _ _ _ _ _ => [.s]
  | .mul _ _ _ _ _ => [.s]
  | .mulh _ _ _ _ _ _ => [.s]
  | .div _ _ _ _ _ _ => [.s]
  | .rem _ _ _ _ _ _ => [.s]
  | .and _ _ _ _ _ => [.s]
  | .or _ _ _ _ _ => [.s]
  | .xor _ _ _ _ _ => [.s]
  | .andn _ _ _ _ _ => [.s]
  | .shl _ _ _ _ _ => [.s]
  | .shr _ _ _ _ _ => [.s]
  | .sra _ _ _ _ _ => [.s]
  | .min _ _ _ _ _ _ => [.s]
  | .max _ _ _ _ _ _ => [.s]
  | .sel _ _ _ _ _ => [.s]
  | .clz _ _ _ => [.s]
  | .popc _ _ _ => [.s]
  | .movi _ _ _ => [.s]
  | .movhi _ _ _ => [.s]
  | .cmp _ _ _ _ _ _ => [.s]
  | .ext _ _ _ _ _ _ => [.s]
  | .br _ _ _ _ => [.s]
  | .jmp _ _ => [.s]
  | .jmpi _ _ _ => [.s]
  | .call _ _ => [.s]
  | .ret _ _ => [.s]
  | .loopImm _ _ _ => [.s]
  | .loopReg _ _ _ => [.s]
  | .loopbrk _ _ => [.s]
  | .lidx _ _ _ _ => [.s]
  | .seghint _ _ => [.s]
  | .fset _ _ => [.s]
  | .fclr _ _ => [.s]
  | .fop _ _ _ _ _ => [.s]
  | .vcwld _ _ _ _ => [.s]
  | .gmset _ _ _ => [.s]
  | .tkwait _ _ _ => [.s]
  | .tkadv _ _ _ => [.s]
  | .tkset _ _ _ => [.s]
  | .tqput _ _ _ _ => [.s]
  | .tqget _ _ _ _ => [.s]
  | .tqrel _ _ _ => [.s]
  | .fence _ _ => [.s]
  | .post _ _ _ => [.s]
  | .launch _ _ _ => [.s]
  | .spat _ _ _ _ => [.s]
  | .sqid _ _ => [.s]
  | .tend _ => [.s]
  | .chk _ _ => [.s]
  | .cmt _ => [.s]
  | .abt _ _ => [.s]
  | .gclr _ => [.s]
  | .asrt _ _ => [.s]
  | .rgst _ _ => [.s]
  | .txb _ _ => [.s]
  | .txc _ _ => [.s]
  | .snap _ => [.s]
  | .snape _ => [.s]
  | .ctxnew _ _ _ => [.s]
  | .ctxdel _ _ _ => [.s]
  | .ctxcore _ _ _ _ => [.s]
  | .ctxmem _ _ _ _ => [.s]
  | .ctxq _ _ _ _ => [.s]
  | .ctxbud _ _ _ _ => [.s]
  | .ctxrunRun _ _ _ _ => [.s]
  | .ctxrunRetry _ _ _ _ => [.s]
  | .ctxrunRefuse _ _ _ _ => [.s]
  | .ctxrunSkip _ _ _ _ => [.s]
  | .ctxstop _ _ _ _ => [.s]
  | .ctxrev _ _ _ => [.s]
  | .ctxdlg _ _ _ _ => [.s]
  | .ctxrd _ _ _ _ => [.s]
  | .ctxsaveSave _ _ _ _ => [.s]
  | .ctxsaveRestore _ _ _ _ => [.s]
  | .shoot _ _ _ _ => [.s]
  | .trap _ _ => [.s]
  | .eret _ => [.s]
  | .sysrd _ _ _ => [.s]
  | .syswr _ _ _ => [.s]
  | .pwracq _ _ => [.s]
  | .pwrrel _ => [.s]
  | .feat _ _ _ => [.s]
  | .cyc _ _ _ => [.s]
  | .tbase _ _ => [.s]
  | .halt _ => [.s]
  | .brk _ _ => [.s]
  | .mcld _ _ _ => [.s]
  | .microcodeS _ _ _ => [.s]
  | .ld _ _ _ _ _ => [.l]
  | .st _ _ _ _ _ => [.w]
  | .ldv _ _ _ _ _ => [.l]
  | .stv _ _ _ _ _ => [.w]
  | .gath _ _ _ _ _ _ => [.l]
  | .scat _ _ _ _ _ => [.w]
  | .spld _ _ _ => [.l]
  | .spst _ _ _ => [.w]
  | .fld _ _ _ _ _ => [.l]
  | .fldv _ _ _ _ _ => [.l]
  | .cbrdVector _ _ _ _ _ => [.l]
  | .cbrdAddress _ _ _ _ => [.l]
  | .cbrel _ _ => [.l, .w]
  | .adrsetImm _ _ _ => [.l, .w]
  | .adrsetReg _ _ _ => [.l, .w]
  | .adraddImm _ _ _ => [.l, .w]
  | .adraddReg _ _ _ => [.l, .w]
  | .scld _ _ _ _ _ => [.l]
  | .ldgScalar _ _ _ _ _ => [.l]
  | .ldgVector _ _ _ _ _ => [.l]
  | .cpyIn _ _ _ _ _ => [.c]
  | .cpyOut _ _ _ _ _ => [.c]
  | .cpyg _ _ _ _ _ => [.c]
  | .cpyb _ _ _ _ _ _ => [.c]
  | .fill _ _ _ _ _ => [.c]
  | .cred _ _ _ _ _ _ _ => [.c]
  | .gld _ _ _ _ _ _ _ => [.c]
  | .gst _ _ _ _ _ _ => [.c]
  | .aadd _ _ _ _ _ _ _ => [.c]
  | .amin _ _ _ _ _ _ _ _ => [.c]
  | .amax _ _ _ _ _ _ _ _ => [.c]
  | .aand _ _ _ _ _ _ _ => [.c]
  | .aor _ _ _ _ _ _ _ => [.c]
  | .axor _ _ _ _ _ _ _ => [.c]
  | .axch _ _ _ _ _ _ _ => [.c]
  | .acas _ _ _ _ _ _ _ => [.c]
  | .csigCounter _ _ _ _ => [.c]
  | .csigAddress _ _ _ => [.c]
  | .cwaitReg _ _ _ _ => [.c]
  | .cwaitImm _ _ _ _ => [.c]
  | .drain _ _ => [.c]
  | .qadd _ _ _ _ => [.q]
  | .qmax _ _ _ _ => [.q]
  | .qmin _ _ _ _ => [.q]
  | .qdrn _ _ _ _ => [.q]
  | .qclr _ _ _ _ => [.q]
  | .mma _ _ _ _ _ _ _ _ _ _ => [.x]
  | .mmas _ _ _ _ _ _ _ _ _ => [.x]
  | .tzero _ _ _ => [.x]
  | .tld _ _ _ _ _ _ => [.x]
  | .tst _ _ _ _ _ _ _ _ => [.x]
  | .tadd _ _ _ _ _ => [.x]
  | .tmov _ _ _ _ => [.x]
  | .trow _ _ _ => [.x]
  | .vadd _ => [.vcw]
  | .vsub _ => [.vcw]
  | .vmul _ => [.vcw]
  | .vfma _ => [.vcw]
  | .vfms _ => [.vcw]
  | .vmin _ => [.vcw]
  | .vmax _ => [.vcw]
  | .vabs _ => [.vcw]
  | .vneg _ => [.vcw]
  | .vand _ => [.vcw]
  | .vor _ => [.vcw]
  | .vxor _ => [.vcw]
  | .vshl _ => [.vcw]
  | .vshr _ => [.vcw]
  | .vsra _ => [.vcw]
  | .vcmp _ => [.vcw]
  | .vsel _ => [.vcw]
  | .vcvt _ => [.vcw]
  | .vqbfp _ => [.vcw]
  | .vxbfp _ => [.vcw]
  | .vrcp _ => [.vcw]
  | .vrsq _ => [.vcw]
  | .vexp2 _ => [.vcw]
  | .vlog2 _ => [.vcw]
  | .vtanh _ => [.vcw]
  | .vperm _ => [.vcw]
  | .vxc _ => [.vcw]
  | .vbc _ => [.vcw]
  | .vext _ => [.vcw]
  | .viota _ => [.vcw]
  | .vscan _ => [.vcw]
  | .vflg _ => [.vcw]
  | .microcodeVcw _ _ => [.vcw]
  | .cwaitTimeout _ => []
  | .tdispRequest _ _ => []
  | .vfEnable _ _ => []
  | .sdrWrite _ => []
  | .savedBankBind _ _ => []
  | .trapRecordWrite => []
  | .versionCollect => []
  | .ticketUpdatePerform => []
  | .launchComplete => []
  | .contextFormComplete => []
  | .shootdownProcess => []
  | .unloadComplete => []
  | .getVersion => []
  | .getCapabilities => []
  | .negotiateAlgorithms => []
  | .getDigests => []
  | .getCertificate => []
  | .challenge => []
  | .getMeasurements => []
  | .keyExchange => []
  | .finish => []
  | .coldStart => []
  | .warmStart => []
  | .powerLoss => []
  | .bucketRefill => []

/-- The hold bit and the predicate of a syllable; those of a vector operation stand in its VCW (R44). -/
def Instr.ctl : Instr → Option Ctl
  | .bundleIssue _ => none
  | .asyncAbort _ => none
  | .waitSyllableExecute _ _ _ => none
  | .resultLand _ => none
  | .latchUpdate _ => none
  | .segmentExpand _ => none
  | .fairnessExpiry _ => none
  | .barrierArrival _ => none
  | .barrierComplete _ => none
  | .farRead _ _ => none
  | .farDataArrival _ _ => none
  | .farLoadLand _ => none
  | .gldFault _ => none
  | .xOpStart _ _ => none
  | .tileRelease _ _ => none
  | .mmasRow _ _ => none
  | .packetStart _ _ _ => none
  | .packetGranule _ _ _ => none
  | .packetComplete _ _ _ => none
  | .atomicPerform _ _ _ => none
  | .cmtCommit _ => none
  | .txcCommit _ => none
  | .tkwaitRetire _ => none
  | .tqputComplete _ => none
  | .tqgetComplete _ => none
  | .tqrelComplete _ => none
  | .fenceRetire _ => none
  | .cwaitRetire _ => none
  | .drainRetire _ => none
  | .postEnqueue _ => none
  | .launchEnqueue _ => none
  | .launchBind _ _ => none
  | .taskDispatch _ _ _ => none
  | .bankSwitch _ => none
  | .shareWindowSwitch _ _ => none
  | .watchdogExpiry _ _ => none
  | .handlerForcedEntry _ => none
  | .settleComplete _ => none
  | .droopDetect _ => none
  | .powerGrant _ => none
  | .thermalTrip _ _ => none
  | .mcldLoad _ => none
  | .softError _ => none
  | .sramUncorrectable _ _ => none
  | .cbcWrite _ _ _ _ => none
  | .s1rWrite _ _ => none
  | .tqcWrite _ _ => none
  | .trrWrite _ _ => none
  | .vpoolWrite _ => none
  | .registerWrite _ _ _ => none
  | .uqnNotify _ _ => none
  | .uqdWrite _ _ _ => none
  | .launchPacket _ => none
  | .loadPacket _ => none
  | .unloadPacket _ => none
  | .graphPacket _ => none
  | .replyPacket _ => none
  | .hostMemoryAccess _ => none
  | .fetchadd _ _ => none
  | .swap _ _ => none
  | .cas _ _ _ => none
  | .functionLevelReset _ => none
  | .flitArrival _ _ _ _ => none
  | .add c _ _ _ _ => some c
  | .sub c _ _ _ _ => some c
  | .mul c _ _ _ _ => some c
  | .mulh c _ _ _ _ _ => some c
  | .div c _ _ _ _ _ => some c
  | .rem c _ _ _ _ _ => some c
  | .and c _ _ _ _ => some c
  | .or c _ _ _ _ => some c
  | .xor c _ _ _ _ => some c
  | .andn c _ _ _ _ => some c
  | .shl c _ _ _ _ => some c
  | .shr c _ _ _ _ => some c
  | .sra c _ _ _ _ => some c
  | .min c _ _ _ _ _ => some c
  | .max c _ _ _ _ _ => some c
  | .sel c _ _ _ _ => some c
  | .clz c _ _ => some c
  | .popc c _ _ => some c
  | .movi c _ _ => some c
  | .movhi c _ _ => some c
  | .cmp c _ _ _ _ _ => some c
  | .ext c _ _ _ _ _ => some c
  | .br c _ _ _ => some c
  | .jmp c _ => some c
  | .jmpi c _ _ => some c
  | .call c _ => some c
  | .ret c _ => some c
  | .loopImm c _ _ => some c
  | .loopReg c _ _ => some c
  | .loopbrk c _ => some c
  | .lidx c _ _ _ => some c
  | .seghint c _ => some c
  | .fset c _ => some c
  | .fclr c _ => some c
  | .fop c _ _ _ _ => some c
  | .vcwld c _ _ _ => some c
  | .gmset c _ _ => some c
  | .tkwait c _ _ => some c
  | .tkadv c _ _ => some c
  | .tkset c _ _ => some c
  | .tqput c _ _ _ => some c
  | .tqget c _ _ _ => some c
  | .tqrel c _ _ => some c
  | .fence c _ => some c
  | .post c _ _ => some c
  | .launch c _ _ => some c
  | .spat c _ _ _ => some c
  | .sqid c _ => some c
  | .tend c => some c
  | .chk c _ => some c
  | .cmt c => some c
  | .abt c _ => some c
  | .gclr c => some c
  | .asrt c _ => some c
  | .rgst c _ => some c
  | .txb c _ => some c
  | .txc c _ => some c
  | .snap c => some c
  | .snape c => some c
  | .ctxnew c _ _ => some c
  | .ctxdel c _ _ => some c
  | .ctxcore c _ _ _ => some c
  | .ctxmem c _ _ _ => some c
  | .ctxq c _ _ _ => some c
  | .ctxbud c _ _ _ => some c
  | .ctxrunRun c _ _ _ => some c
  | .ctxrunRetry c _ _ _ => some c
  | .ctxrunRefuse c _ _ _ => some c
  | .ctxrunSkip c _ _ _ => some c
  | .ctxstop c _ _ _ => some c
  | .ctxrev c _ _ => some c
  | .ctxdlg c _ _ _ => some c
  | .ctxrd c _ _ _ => some c
  | .ctxsaveSave c _ _ _ => some c
  | .ctxsaveRestore c _ _ _ => some c
  | .shoot c _ _ _ => some c
  | .trap c _ => some c
  | .eret c => some c
  | .sysrd c _ _ => some c
  | .syswr c _ _ => some c
  | .pwracq c _ => some c
  | .pwrrel c => some c
  | .feat c _ _ => some c
  | .cyc c _ _ => some c
  | .tbase c _ => some c
  | .halt c => some c
  | .brk c _ => some c
  | .mcld c _ _ => some c
  | .microcodeS c _ _ => some c
  | .ld c _ _ _ _ => some c
  | .st c _ _ _ _ => some c
  | .ldv c _ _ _ _ => some c
  | .stv c _ _ _ _ => some c
  | .gath c _ _ _ _ _ => some c
  | .scat c _ _ _ _ => some c
  | .spld c _ _ => some c
  | .spst c _ _ => some c
  | .fld c _ _ _ _ => some c
  | .fldv c _ _ _ _ => some c
  | .cbrdVector c _ _ _ _ => some c
  | .cbrdAddress c _ _ _ => some c
  | .cbrel c _ => some c
  | .adrsetImm c _ _ => some c
  | .adrsetReg c _ _ => some c
  | .adraddImm c _ _ => some c
  | .adraddReg c _ _ => some c
  | .scld c _ _ _ _ => some c
  | .ldgScalar c _ _ _ _ => some c
  | .ldgVector c _ _ _ _ => some c
  | .cpyIn c _ _ _ _ => some c
  | .cpyOut c _ _ _ _ => some c
  | .cpyg c _ _ _ _ => some c
  | .cpyb c _ _ _ _ _ => some c
  | .fill c _ _ _ _ => some c
  | .cred c _ _ _ _ _ _ => some c
  | .gld c _ _ _ _ _ _ => some c
  | .gst c _ _ _ _ _ => some c
  | .aadd c _ _ _ _ _ _ => some c
  | .amin c _ _ _ _ _ _ _ => some c
  | .amax c _ _ _ _ _ _ _ => some c
  | .aand c _ _ _ _ _ _ => some c
  | .aor c _ _ _ _ _ _ => some c
  | .axor c _ _ _ _ _ _ => some c
  | .axch c _ _ _ _ _ _ => some c
  | .acas c _ _ _ _ _ _ => some c
  | .csigCounter c _ _ _ => some c
  | .csigAddress c _ _ => some c
  | .cwaitReg c _ _ _ => some c
  | .cwaitImm c _ _ _ => some c
  | .drain c _ => some c
  | .qadd c _ _ _ => some c
  | .qmax c _ _ _ => some c
  | .qmin c _ _ _ => some c
  | .qdrn c _ _ _ => some c
  | .qclr c _ _ _ => some c
  | .mma c _ _ _ _ _ _ _ _ _ => some c
  | .mmas c _ _ _ _ _ _ _ _ => some c
  | .tzero c _ _ => some c
  | .tld c _ _ _ _ _ => some c
  | .tst c _ _ _ _ _ _ _ => some c
  | .tadd c _ _ _ _ => some c
  | .tmov c _ _ _ => some c
  | .trow c _ _ => some c
  | .vadd e => some ⟨false, e.pf, e.pi⟩
  | .vsub e => some ⟨false, e.pf, e.pi⟩
  | .vmul e => some ⟨false, e.pf, e.pi⟩
  | .vfma e => some ⟨false, e.pf, e.pi⟩
  | .vfms e => some ⟨false, e.pf, e.pi⟩
  | .vmin e => some ⟨false, e.pf, e.pi⟩
  | .vmax e => some ⟨false, e.pf, e.pi⟩
  | .vabs e => some ⟨false, e.pf, e.pi⟩
  | .vneg e => some ⟨false, e.pf, e.pi⟩
  | .vand e => some ⟨false, e.pf, e.pi⟩
  | .vor e => some ⟨false, e.pf, e.pi⟩
  | .vxor e => some ⟨false, e.pf, e.pi⟩
  | .vshl e => some ⟨false, e.pf, e.pi⟩
  | .vshr e => some ⟨false, e.pf, e.pi⟩
  | .vsra e => some ⟨false, e.pf, e.pi⟩
  | .vcmp e => some ⟨false, e.pf, e.pi⟩
  | .vsel e => some ⟨false, e.pf, e.pi⟩
  | .vcvt e => some ⟨false, e.pf, e.pi⟩
  | .vqbfp e => some ⟨false, e.pf, e.pi⟩
  | .vxbfp e => some ⟨false, e.pf, e.pi⟩
  | .vrcp e => some ⟨false, e.pf, e.pi⟩
  | .vrsq e => some ⟨false, e.pf, e.pi⟩
  | .vexp2 e => some ⟨false, e.pf, e.pi⟩
  | .vlog2 e => some ⟨false, e.pf, e.pi⟩
  | .vtanh e => some ⟨false, e.pf, e.pi⟩
  | .vperm e => some ⟨false, e.pf, e.pi⟩
  | .vxc e => some ⟨false, e.pf, e.pi⟩
  | .vbc e => some ⟨false, e.pf, e.pi⟩
  | .vext e => some ⟨false, e.pf, e.pi⟩
  | .viota e => some ⟨false, e.pf, e.pi⟩
  | .vscan e => some ⟨false, e.pf, e.pi⟩
  | .vflg e => some ⟨false, e.pf, e.pi⟩
  | .microcodeVcw e _ => some ⟨false, e.pf, e.pi⟩
  | .cwaitTimeout _ => none
  | .tdispRequest _ _ => none
  | .vfEnable _ _ => none
  | .sdrWrite _ => none
  | .savedBankBind _ _ => none
  | .trapRecordWrite => none
  | .versionCollect => none
  | .ticketUpdatePerform => none
  | .launchComplete => none
  | .contextFormComplete => none
  | .shootdownProcess => none
  | .unloadComplete => none
  | .getVersion => none
  | .getCapabilities => none
  | .negotiateAlgorithms => none
  | .getDigests => none
  | .getCertificate => none
  | .challenge => none
  | .getMeasurements => none
  | .keyExchange => none
  | .finish => none
  | .coldStart => none
  | .warmStart => none
  | .powerLoss => none
  | .bucketRefill => none

/-! ### The encoder -/

/-- The slot and the value of an instruction as the layouts of R43 and R45 number its bits; none for a move. -/
def encodeIn : Instr → Option (Slot × Nat)
  | .bundleIssue _ => none
  | .asyncAbort _ => none
  | .waitSyllableExecute _ _ _ => none
  | .resultLand _ => none
  | .latchUpdate _ => none
  | .segmentExpand _ => none
  | .fairnessExpiry _ => none
  | .barrierArrival _ => none
  | .barrierComplete _ => none
  | .farRead _ _ => none
  | .farDataArrival _ _ => none
  | .farLoadLand _ => none
  | .gldFault _ => none
  | .xOpStart _ _ => none
  | .tileRelease _ _ => none
  | .mmasRow _ _ => none
  | .packetStart _ _ _ => none
  | .packetGranule _ _ _ => none
  | .packetComplete _ _ _ => none
  | .atomicPerform _ _ _ => none
  | .cmtCommit _ => none
  | .txcCommit _ => none
  | .tkwaitRetire _ => none
  | .tqputComplete _ => none
  | .tqgetComplete _ => none
  | .tqrelComplete _ => none
  | .fenceRetire _ => none
  | .cwaitRetire _ => none
  | .drainRetire _ => none
  | .postEnqueue _ => none
  | .launchEnqueue _ => none
  | .launchBind _ _ => none
  | .taskDispatch _ _ _ => none
  | .bankSwitch _ => none
  | .shareWindowSwitch _ _ => none
  | .watchdogExpiry _ _ => none
  | .handlerForcedEntry _ => none
  | .settleComplete _ => none
  | .droopDetect _ => none
  | .powerGrant _ => none
  | .thermalTrip _ _ => none
  | .mcldLoad _ => none
  | .softError _ => none
  | .sramUncorrectable _ _ => none
  | .cbcWrite _ _ _ _ => none
  | .s1rWrite _ _ => none
  | .tqcWrite _ _ => none
  | .trrWrite _ _ => none
  | .vpoolWrite _ => none
  | .registerWrite _ _ _ => none
  | .uqnNotify _ _ => none
  | .uqdWrite _ _ _ => none
  | .launchPacket _ => none
  | .loadPacket _ => none
  | .unloadPacket _ => none
  | .graphPacket _ => none
  | .replyPacket _ => none
  | .hostMemoryAccess _ => none
  | .fetchadd _ _ => none
  | .swap _ _ => none
  | .cas _ _ _ => none
  | .functionLevelReset _ => none
  | .flitArrival _ _ _ _ => none
  | .add c rd ra i b => some (.s, packS c 0x00 [(6, rd.toNat), (6, ra.toNat), (1, i.toNat), (1, 0), (6, b.toNat)])
  | .sub c rd ra i b => some (.s, packS c 0x01 [(6, rd.toNat), (6, ra.toNat), (1, i.toNat), (1, 0), (6, b.toNat)])
  | .mul c rd ra i b => some (.s, packS c 0x02 [(6, rd.toNat), (6, ra.toNat), (1, i.toNat), (1, 0), (6, b.toNat)])
  | .mulh c rd ra i m b => some (.s, packS c 0x03 [(6, rd.toNat), (6, ra.toNat), (1, i.toNat), (1, m.toNat), (6, b.toNat)])
  | .div c rd ra i m b => some (.s, packS c 0x04 [(6, rd.toNat), (6, ra.toNat), (1, i.toNat), (1, m.toNat), (6, b.toNat)])
  | .rem c rd ra i m b => some (.s, packS c 0x05 [(6, rd.toNat), (6, ra.toNat), (1, i.toNat), (1, m.toNat), (6, b.toNat)])
  | .and c rd ra i b => some (.s, packS c 0x06 [(6, rd.toNat), (6, ra.toNat), (1, i.toNat), (1, 0), (6, b.toNat)])
  | .or c rd ra i b => some (.s, packS c 0x07 [(6, rd.toNat), (6, ra.toNat), (1, i.toNat), (1, 0), (6, b.toNat)])
  | .xor c rd ra i b => some (.s, packS c 0x08 [(6, rd.toNat), (6, ra.toNat), (1, i.toNat), (1, 0), (6, b.toNat)])
  | .andn c rd ra i b => some (.s, packS c 0x09 [(6, rd.toNat), (6, ra.toNat), (1, i.toNat), (1, 0), (6, b.toNat)])
  | .shl c rd ra i b => some (.s, packS c 0x0A [(6, rd.toNat), (6, ra.toNat), (1, i.toNat), (1, 0), (6, b.toNat)])
  | .shr c rd ra i b => some (.s, packS c 0x0B [(6, rd.toNat), (6, ra.toNat), (1, i.toNat), (1, 0), (6, b.toNat)])
  | .sra c rd ra i b => some (.s, packS c 0x0C [(6, rd.toNat), (6, ra.toNat), (1, i.toNat), (1, 0), (6, b.toNat)])
  | .min c rd ra i m b => some (.s, packS c 0x0D [(6, rd.toNat), (6, ra.toNat), (1, i.toNat), (1, m.toNat), (6, b.toNat)])
  | .max c rd ra i m b => some (.s, packS c 0x0E [(6, rd.toNat), (6, ra.toNat), (1, i.toNat), (1, m.toNat), (6, b.toNat)])
  | .sel c rd ra rb fs => some (.s, packS c 0x0F [(6, rd.toNat), (6, ra.toNat), (6, rb.toNat), (2, fs.toNat)])
  | .clz c rd ra => some (.s, packS c 0x10 [(6, rd.toNat), (6, ra.toNat), (8, 0)])
  | .popc c rd ra => some (.s, packS c 0x11 [(6, rd.toNat), (6, ra.toNat), (8, 0)])
  | .movi c rd imm => some (.s, packS c 0x12 [(6, rd.toNat), (14, imm.toNat)])
  | .movhi c rd imm => some (.s, packS c 0x13 [(6, rd.toNat), (14, imm.toNat)])
  | .cmp c fd cc ra i b => some (.s, packS c 0x14 [(4, fd.toNat), (3, cc.toNat), (6, ra.toNat), (1, i.toNat), (6, b.toNat)])
  | .ext c rd ra wc sg bo => some (.s, packS c 0x15 [(6, rd.toNat), (6, ra.toNat), (2, wc.toNat), (1, sg.toNat), (3, bo.toNat), (2, 0)])
  | .br c bi bf off => some (.s, packS c 0x18 [(1, bi.toNat), (4, bf.toNat), (15, off.toNat)])
  | .jmp c off => some (.s, packS c 0x19 [(20, off.toNat)])
  | .jmpi c ra disp => some (.s, packS c 0x1A [(6, ra.toNat), (14, disp.toNat)])
  | .call c off => some (.s, packS c 0x1B [(20, off.toNat)])
  | .ret c ra => some (.s, packS c 0x1C [(6, ra.toNat), (14, 0)])
  | .loopImm c cnt fin => some (.s, packS c 0x1D [(1, 1), (8, cnt.toNat), (11, fin.toNat)])
  | .loopReg c ra fin => some (.s, packS c 0x1D [(1, 0), (6, ra.toNat), (2, 0), (11, fin.toNat)])
  | .loopbrk c n => some (.s, packS c 0x1E [(17, 0), (3, n.toNat)])
  | .lidx c rd cnt lv => some (.s, packS c 0x1F [(6, rd.toNat), (1, cnt.toNat), (3, lv.toNat), (10, 0)])
  | .seghint c off => some (.s, packS c 0x20 [(20, off.toNat)])
  | .fset c mask => some (.s, packS c 0x24 [(4, 0), (15, mask.toNat), (1, 0)])
  | .fclr c mask => some (.s, packS c 0x25 [(4, 0), (15, mask.toNat), (1, 0)])
  | .fop c fd fa fb tt => some (.s, packS c 0x26 [(4, fd.toNat), (4, fa.toNat), (4, fb.toNat), (4, tt.toNat), (4, 0)])
  | .vcwld c idx ra cnt => some (.s, packS c 0x27 [(9, idx.toNat), (6, ra.toNat), (4, cnt.toNat), (1, 0)])
  | .gmset c gn ra => some (.s, packS c 0x28 [(4, gn.toNat), (6, ra.toNat), (10, 0)])
  | .tkwait c cell ra => some (.s, packS c 0x29 [(8, cell.toNat), (6, ra.toNat), (6, 0)])
  | .tkadv c cell inc => some (.s, packS c 0x2A [(8, cell.toNat), (12, inc.toNat)])
  | .tkset c cell ra => some (.s, packS c 0x2B [(8, cell.toNat), (6, ra.toNat), (6, 0)])
  | .tqput c die tq rb => some (.s, packS c 0x2C [(4, die.toNat), (5, tq.toNat), (6, rb.toNat), (5, 0)])
  | .tqget c die tq rd => some (.s, packS c 0x2D [(4, die.toNat), (5, tq.toNat), (6, rd.toNat), (5, 0)])
  | .tqrel c die tq => some (.s, packS c 0x2E [(4, die.toNat), (5, tq.toNat), (11, 0)])
  | .fence c cls => some (.s, packS c 0x2F [(4, cls.toNat), (16, 0)])
  | .post c sp pri => some (.s, packS c 0x30 [(4, sp.toNat), (3, pri.toNat), (13, 0)])
  | .launch c sp pri => some (.s, packS c 0x31 [(4, sp.toNat), (3, pri.toNat), (13, 0)])
  | .spat c rd lv k => some (.s, packS c 0x32 [(6, rd.toNat), (3, lv.toNat), (1, k.toNat), (10, 0)])
  | .sqid c rd => some (.s, packS c 0x33 [(6, rd.toNat), (14, 0)])
  | .tend c => some (.s, packS c 0x34 [(20, 0)])
  | .chk c off => some (.s, packS c 0x38 [(20, off.toNat)])
  | .cmt c => some (.s, packS c 0x39 [(20, 0)])
  | .abt c code => some (.s, packS c 0x3A [(12, 0), (8, code.toNat)])
  | .gclr c => some (.s, packS c 0x3B [(20, 0)])
  | .asrt c code => some (.s, packS c 0x3C [(12, 0), (8, code.toNat)])
  | .rgst c rd => some (.s, packS c 0x3D [(6, rd.toNat), (14, 0)])
  | .txb c off => some (.s, packS c 0x3E [(20, off.toNat)])
  | .txc c rd => some (.s, packS c 0x3F [(6, rd.toNat), (14, 0)])
  | .snap c => some (.s, packS c 0x40 [(20, 0)])
  | .snape c => some (.s, packS c 0x41 [(20, 0)])
  | .ctxnew c rd ra => some (.s, packS c 0x48 [(6, rd.toNat), (6, ra.toNat), (8, 0)])
  | .ctxdel c rd ra => some (.s, packS c 0x49 [(6, rd.toNat), (6, ra.toNat), (8, 0)])
  | .ctxcore c sp rd ra => some (.s, packS c 0x4A [(4, sp.toNat), (6, rd.toNat), (6, ra.toNat), (4, 0)])
  | .ctxmem c sp rd ra => some (.s, packS c 0x4B [(4, sp.toNat), (6, rd.toNat), (6, ra.toNat), (4, 0)])
  | .ctxq c sp rd ra => some (.s, packS c 0x4C [(4, sp.toNat), (6, rd.toNat), (6, ra.toNat), (4, 0)])
  | .ctxbud c sp rd ra => some (.s, packS c 0x4D [(4, sp.toNat), (6, rd.toNat), (6, ra.toNat), (4, 0)])
  | .ctxrunRun c rd ra rb => some (.s, packS c 0x4E [(6, rd.toNat), (6, ra.toNat), (6, rb.toNat), (2, 0)])
  | .ctxrunRetry c rd ra rb => some (.s, packS c 0x4E [(6, rd.toNat), (6, ra.toNat), (6, rb.toNat), (2, 0)])
  | .ctxrunRefuse c rd ra rb => some (.s, packS c 0x4E [(6, rd.toNat), (6, ra.toNat), (6, rb.toNat), (2, 0)])
  | .ctxrunSkip c rd ra rb => some (.s, packS c 0x4E [(6, rd.toNat), (6, ra.toNat), (6, rb.toNat), (2, 0)])
  | .ctxstop c sp rd ra => some (.s, packS c 0x4F [(4, sp.toNat), (6, rd.toNat), (6, ra.toNat), (4, 0)])
  | .ctxrev c rd ra => some (.s, packS c 0x50 [(6, rd.toNat), (6, ra.toNat), (8, 0)])
  | .ctxdlg c rd ra rb => some (.s, packS c 0x51 [(6, rd.toNat), (6, ra.toNat), (6, rb.toNat), (2, 0)])
  | .ctxrd c rd ra rb => some (.s, packS c 0x52 [(6, rd.toNat), (6, ra.toNat), (6, rb.toNat), (2, 0)])
  | .ctxsaveSave c sp rd ra => some (.s, packS c 0x53 [(4, sp.toNat), (6, rd.toNat), (6, ra.toNat), (4, 0)])
  | .ctxsaveRestore c sp rd ra => some (.s, packS c 0x53 [(4, sp.toNat), (6, rd.toNat), (6, ra.toNat), (4, 0)])
  | .shoot c rd ra rb => some (.s, packS c 0x54 [(6, rd.toNat), (6, ra.toNat), (6, rb.toNat), (2, 0)])
  | .trap c n => some (.s, packS c 0x58 [(15, 0), (5, n.toNat)])
  | .eret c => some (.s, packS c 0x59 [(20, 0)])
  | .sysrd c rd num => some (.s, packS c 0x5A [(6, rd.toNat), (14, num.toNat)])
  | .syswr c rb num => some (.s, packS c 0x5B [(6, rb.toNat), (14, num.toNat)])
  | .pwracq c ra => some (.s, packS c 0x5C [(6, ra.toNat), (14, 0)])
  | .pwrrel c => some (.s, packS c 0x5D [(20, 0)])
  | .feat c rd w => some (.s, packS c 0x5E [(6, rd.toNat), (2, w.toNat), (12, 0)])
  | .cyc c rd k => some (.s, packS c 0x5F [(6, rd.toNat), (1, k.toNat), (13, 0)])
  | .tbase c ra => some (.s, packS c 0x60 [(6, ra.toNat), (14, 0)])
  | .halt c => some (.s, packS c 0x61 [(20, 0)])
  | .brk c code => some (.s, packS c 0x62 [(12, 0), (8, code.toNat)])
  | .mcld c rd ra => some (.s, packS c 0x63 [(6, rd.toNat), (6, ra.toNat), (8, 0)])
  | .microcodeS c ent arg => some (.s, packS c (0x70 + ent.toNat) [(20, arg.toNat)])
  | .ld c rs ar fmt ofs => some (.l, packL c 0x00 [(6, rs.toNat), (5, ar.toNat), (3, fmt.toNat), (8, ofs.toNat)])
  | .st c rs ar sz ofs => some (.w, packL c 0x01 [(6, rs.toNat), (5, ar.toNat), (2, sz.toNat), (1, 0), (8, ofs.toNat)])
  | .ldv c vc vr ar ofs => some (.l, packL c 0x02 [(1, vc.toNat), (11, vr.toNat), (5, ar.toNat), (5, ofs.toNat)])
  | .stv c vc vr ar ofs => some (.w, packL c 0x03 [(1, vc.toNat), (11, vr.toNat), (5, ar.toNat), (5, ofs.toNat)])
  | .gath c vc vr ar ew sg => some (.l, packL c 0x04 [(1, vc.toNat), (11, vr.toNat), (5, ar.toNat), (2, ew.toNat), (1, sg.toNat), (2, 0)])
  | .scat c vc vr ar ew => some (.w, packL c 0x05 [(1, vc.toNat), (11, vr.toNat), (5, ar.toNat), (2, ew.toNat), (3, 0)])
  | .spld c rs off => some (.l, packL c 0x06 [(6, rs.toNat), (11, off.toNat), (5, 0)])
  | .spst c rs off => some (.w, packL c 0x07 [(6, rs.toNat), (11, off.toNat), (5, 0)])
  | .fld c rs ar fmt arr => some (.l, packL c 0x08 [(6, rs.toNat), (5, ar.toNat), (3, fmt.toNat), (8, arr.toNat)])
  | .fldv c vc vr ar arr => some (.l, packL c 0x09 [(1, vc.toNat), (11, vr.toNat), (5, ar.toNat), (5, arr.toNat)])
  | .cbrdVector c vc vr cb off => some (.l, packL c 0x0A [(1, vc.toNat), (11, vr.toNat), (3, cb.toNat), (1, 0), (6, off.toNat)])
  | .cbrdAddress c ar tl cb => some (.l, packL c 0x0A [(5, ar.toNat), (1, tl.toNat), (6, 0), (3, cb.toNat), (1, 1), (6, 0)])
  | .cbrel c cb => some (.l, packL c 0x0B [(12, 0), (3, cb.toNat), (7, 0)])
  | .adrsetImm c ar imm => some (.l, packL c 0x0C [(5, ar.toNat), (1, 1), (16, imm.toNat)])
  | .adrsetReg c ar rs => some (.l, packL c 0x0C [(5, ar.toNat), (1, 0), (6, rs.toNat), (10, 0)])
  | .adraddImm c ar imm => some (.l, packL c 0x0D [(5, ar.toNat), (1, 1), (16, imm.toNat)])
  | .adraddReg c ar rs => some (.l, packL c 0x0D [(5, ar.toNat), (1, 0), (6, rs.toNat), (10, 0)])
  | .scld c xs ar all ofs => some (.l, packL c 0x0E [(3, xs.toNat), (5, ar.toNat), (1, all.toNat), (5, 0), (8, ofs.toNat)])
  | .ldgScalar c rs ar fmt d => some (.l, packL c 0x0F [(1, 0), (6, rs.toNat), (5, ar.toNat), (3, fmt.toNat), (7, d.toNat)])
  | .ldgVector c vc vr ar d => some (.l, packL c 0x0F [(1, 1), (1, vc.toNat), (11, vr.toNat), (5, ar.toNat), (4, d.toNat)])
  | .cpyIn c q sp ce co => some (.c, packC c 0x00 [(2, q.toNat), (4, sp.toNat), (1, ce.toNat), (4, co.toNat), (1, 0), (9, 0)])
  | .cpyOut c q sp ce co => some (.c, packC c 0x00 [(2, q.toNat), (4, sp.toNat), (1, ce.toNat), (4, co.toNat), (1, 1), (9, 0)])
  | .cpyg c q sp ce co => some (.c, packC c 0x01 [(2, q.toNat), (4, sp.toNat), (1, ce.toNat), (4, co.toNat), (10, 0)])
  | .cpyb c q sp ce co cb => some (.c, packC c 0x02 [(2, q.toNat), (4, sp.toNat), (1, ce.toNat), (4, co.toNat), (1, 0), (3, cb.toNat), (6, 0)])
  | .fill c q sp ce co => some (.c, packC c 0x03 [(2, q.toNat), (4, sp.toNat), (1, ce.toNat), (4, co.toNat), (10, 0)])
  | .cred c q sp ce co rop fmt => some (.c, packC c 0x04 [(2, q.toNat), (4, sp.toNat), (1, ce.toNat), (4, co.toNat), (1, 0), (3, rop.toNat), (4, fmt.toNat), (2, 0)])
  | .gld c q rd ra sz aq arr => some (.c, packC c 0x05 [(2, q.toNat), (6, rd.toNat), (6, ra.toNat), (2, sz.toNat), (1, aq.toNat), (4, arr.toNat)])
  | .gst c q rb ra sz rl => some (.c, packC c 0x06 [(2, q.toNat), (6, rb.toNat), (6, ra.toNat), (2, sz.toNat), (1, rl.toNat), (4, 0)])
  | .aadd c q sp rd sz ord arr => some (.c, packC c 0x08 [(2, q.toNat), (4, sp.toNat), (6, rd.toNat), (1, sz.toNat), (1, 0), (2, ord.toNat), (4, arr.toNat), (1, 0)])
  | .amin c q sp rd sz sg ord arr => some (.c, packC c 0x09 [(2, q.toNat), (4, sp.toNat), (6, rd.toNat), (1, sz.toNat), (1, sg.toNat), (2, ord.toNat), (4, arr.toNat), (1, 0)])
  | .amax c q sp rd sz sg ord arr => some (.c, packC c 0x0A [(2, q.toNat), (4, sp.toNat), (6, rd.toNat), (1, sz.toNat), (1, sg.toNat), (2, ord.toNat), (4, arr.toNat), (1, 0)])
  | .aand c q sp rd sz ord arr => some (.c, packC c 0x0B [(2, q.toNat), (4, sp.toNat), (6, rd.toNat), (1, sz.toNat), (1, 0), (2, ord.toNat), (4, arr.toNat), (1, 0)])
  | .aor c q sp rd sz ord arr => some (.c, packC c 0x0C [(2, q.toNat), (4, sp.toNat), (6, rd.toNat), (1, sz.toNat), (1, 0), (2, ord.toNat), (4, arr.toNat), (1, 0)])
  | .axor c q sp rd sz ord arr => some (.c, packC c 0x0D [(2, q.toNat), (4, sp.toNat), (6, rd.toNat), (1, sz.toNat), (1, 0), (2, ord.toNat), (4, arr.toNat), (1, 0)])
  | .axch c q sp rd sz ord arr => some (.c, packC c 0x0E [(2, q.toNat), (4, sp.toNat), (6, rd.toNat), (1, sz.toNat), (1, 0), (2, ord.toNat), (4, arr.toNat), (1, 0)])
  | .acas c q sp rd sz ord arr => some (.c, packC c 0x0F [(2, q.toNat), (4, sp.toNat), (6, rd.toNat), (1, sz.toNat), (1, 0), (2, ord.toNat), (4, arr.toNat), (1, 0)])
  | .csigCounter c q co ra => some (.c, packC c 0x10 [(2, q.toNat), (1, 0), (4, co.toNat), (6, ra.toNat), (8, 0)])
  | .csigAddress c q ra => some (.c, packC c 0x10 [(2, q.toNat), (1, 1), (4, 0), (6, ra.toNat), (8, 0)])
  | .cwaitReg c co sb ra => some (.c, packC c 0x11 [(4, co.toNat), (1, sb.toNat), (1, 0), (6, ra.toNat), (9, 0)])
  | .cwaitImm c co sb imm => some (.c, packC c 0x11 [(4, co.toNat), (1, sb.toNat), (1, 1), (10, imm.toNat), (5, 0)])
  | .drain c sc => some (.c, packC c 0x12 [(3, sc.toNat), (18, 0)])
  | .qadd c ql cls lm => some (.q, packQ c 0x00 [(2, ql.toNat), (2, cls.toNat), (1, lm.toNat), (18, 0)])
  | .qmax c ql cls lm => some (.q, packQ c 0x01 [(2, ql.toNat), (2, cls.toNat), (1, lm.toNat), (18, 0)])
  | .qmin c ql cls lm => some (.q, packQ c 0x02 [(2, ql.toNat), (2, cls.toNat), (1, lm.toNat), (18, 0)])
  | .qdrn c ql rd cl => some (.q, packQ c 0x03 [(2, ql.toNat), (6, rd.toNat), (1, cl.toNat), (14, 0)])
  | .qclr c ql iv lm => some (.q, packQ c 0x04 [(2, ql.toNat), (2, iv.toNat), (1, lm.toNat), (18, 0)])
  | .mma c t qd aa ab fa fb ncm z ps => some (.x, packX c 0x00 [(11, t.toNat), (1, qd.toNat), (5, aa.toNat), (5, ab.toNat), (3, fa.toNat), (3, fb.toNat), (7, ncm.toNat), (1, z.toNat), (1, ps.toNat)])
  | .mmas c t qd sp ab fa fb ncm z => some (.x, packX c 0x01 [(11, t.toNat), (1, qd.toNat), (5, sp.toNat), (5, ab.toNat), (3, fa.toNat), (3, fb.toNat), (7, ncm.toNat), (1, z.toNat), (1, 0)])
  | .tzero c t qd => some (.x, packX c 0x02 [(11, t.toNat), (1, qd.toNat), (25, 0)])
  | .tld c t qd ar fmt ps => some (.x, packX c 0x03 [(11, t.toNat), (1, qd.toNat), (5, ar.toNat), (5, fmt.toNat), (1, ps.toNat), (14, 0)])
  | .tst c t qd ar fmt xs sat ps => some (.x, packX c 0x04 [(11, t.toNat), (1, qd.toNat), (5, ar.toNat), (5, fmt.toNat), (3, xs.toNat), (1, sat.toNat), (1, ps.toNat), (10, 0)])
  | .tadd c t qd ta src => some (.x, packX c 0x05 [(11, t.toNat), (1, qd.toNat), (11, ta.toNat), (14, src.toNat)])
  | .tmov c t qd ta => some (.x, packX c 0x06 [(11, t.toNat), (1, qd.toNat), (11, ta.toNat), (14, 0)])
  | .trow c rd cl => some (.x, packX c 0x07 [(6, rd.toNat), (1, cl.toNat), (30, 0)])
  | .vadd e => some (.vcw, packVcw 0x00 e)
  | .vsub e => some (.vcw, packVcw 0x01 e)
  | .vmul e => some (.vcw, packVcw 0x02 e)
  | .vfma e => some (.vcw, packVcw 0x03 e)
  | .vfms e => some (.vcw, packVcw 0x04 e)
  | .vmin e => some (.vcw, packVcw 0x05 e)
  | .vmax e => some (.vcw, packVcw 0x06 e)
  | .vabs e => some (.vcw, packVcw 0x07 e)
  | .vneg e => some (.vcw, packVcw 0x08 e)
  | .vand e => some (.vcw, packVcw 0x09 e)
  | .vor e => some (.vcw, packVcw 0x0A e)
  | .vxor e => some (.vcw, packVcw 0x0B e)
  | .vshl e => some (.vcw, packVcw 0x0C e)
  | .vshr e => some (.vcw, packVcw 0x0D e)
  | .vsra e => some (.vcw, packVcw 0x0E e)
  | .vcmp e => some (.vcw, packVcw 0x0F e)
  | .vsel e => some (.vcw, packVcw 0x10 e)
  | .vcvt e => some (.vcw, packVcw 0x11 e)
  | .vqbfp e => some (.vcw, packVcw 0x12 e)
  | .vxbfp e => some (.vcw, packVcw 0x13 e)
  | .vrcp e => some (.vcw, packVcw 0x14 e)
  | .vrsq e => some (.vcw, packVcw 0x15 e)
  | .vexp2 e => some (.vcw, packVcw 0x16 e)
  | .vlog2 e => some (.vcw, packVcw 0x17 e)
  | .vtanh e => some (.vcw, packVcw 0x18 e)
  | .vperm e => some (.vcw, packVcw 0x19 e)
  | .vxc e => some (.vcw, packVcw 0x1A e)
  | .vbc e => some (.vcw, packVcw 0x1B e)
  | .vext e => some (.vcw, packVcw 0x1C e)
  | .viota e => some (.vcw, packVcw 0x1D e)
  | .vscan e => some (.vcw, packVcw 0x1E e)
  | .vflg e => some (.vcw, packVcw 0x1F e)
  | .microcodeVcw e ent => some (.vcw, packVcw (0xF0 + ent.toNat) e)
  | .cwaitTimeout _ => none
  | .tdispRequest _ _ => none
  | .vfEnable _ _ => none
  | .sdrWrite _ => none
  | .savedBankBind _ _ => none
  | .trapRecordWrite => none
  | .versionCollect => none
  | .ticketUpdatePerform => none
  | .launchComplete => none
  | .contextFormComplete => none
  | .shootdownProcess => none
  | .unloadComplete => none
  | .getVersion => none
  | .getCapabilities => none
  | .negotiateAlgorithms => none
  | .getDigests => none
  | .getCertificate => none
  | .challenge => none
  | .getMeasurements => none
  | .keyExchange => none
  | .finish => none
  | .coldStart => none
  | .warmStart => none
  | .powerLoss => none
  | .bucketRefill => none

/-- The word of a syllable or VCW; 0 for a move, which has none. -/
def encode (i : Instr) : Nat := ((encodeIn i).map Prod.snd).getD 0

/-! ### The decoder -/

/-- The operand field of an S syllable, read by its opcode (the map and the layouts of R60, R96). -/
def rawS (c : Ctl) (op w : Nat) : Option Instr :=
  match op with
  | 0x00 => match unpack [6, 6, 1, 1, 6] w with
    | [rd, ra, i, _, b] => some (.add c (.ofNat _ rd) (.ofNat _ ra) (bit i) (.ofNat _ b))
    | _ => none
  | 0x01 => match unpack [6, 6, 1, 1, 6] w with
    | [rd, ra, i, _, b] => some (.sub c (.ofNat _ rd) (.ofNat _ ra) (bit i) (.ofNat _ b))
    | _ => none
  | 0x02 => match unpack [6, 6, 1, 1, 6] w with
    | [rd, ra, i, _, b] => some (.mul c (.ofNat _ rd) (.ofNat _ ra) (bit i) (.ofNat _ b))
    | _ => none
  | 0x03 => match unpack [6, 6, 1, 1, 6] w with
    | [rd, ra, i, m, b] => some (.mulh c (.ofNat _ rd) (.ofNat _ ra) (bit i) (bit m) (.ofNat _ b))
    | _ => none
  | 0x04 => match unpack [6, 6, 1, 1, 6] w with
    | [rd, ra, i, m, b] => some (.div c (.ofNat _ rd) (.ofNat _ ra) (bit i) (bit m) (.ofNat _ b))
    | _ => none
  | 0x05 => match unpack [6, 6, 1, 1, 6] w with
    | [rd, ra, i, m, b] => some (.rem c (.ofNat _ rd) (.ofNat _ ra) (bit i) (bit m) (.ofNat _ b))
    | _ => none
  | 0x06 => match unpack [6, 6, 1, 1, 6] w with
    | [rd, ra, i, _, b] => some (.and c (.ofNat _ rd) (.ofNat _ ra) (bit i) (.ofNat _ b))
    | _ => none
  | 0x07 => match unpack [6, 6, 1, 1, 6] w with
    | [rd, ra, i, _, b] => some (.or c (.ofNat _ rd) (.ofNat _ ra) (bit i) (.ofNat _ b))
    | _ => none
  | 0x08 => match unpack [6, 6, 1, 1, 6] w with
    | [rd, ra, i, _, b] => some (.xor c (.ofNat _ rd) (.ofNat _ ra) (bit i) (.ofNat _ b))
    | _ => none
  | 0x09 => match unpack [6, 6, 1, 1, 6] w with
    | [rd, ra, i, _, b] => some (.andn c (.ofNat _ rd) (.ofNat _ ra) (bit i) (.ofNat _ b))
    | _ => none
  | 0x0A => match unpack [6, 6, 1, 1, 6] w with
    | [rd, ra, i, _, b] => some (.shl c (.ofNat _ rd) (.ofNat _ ra) (bit i) (.ofNat _ b))
    | _ => none
  | 0x0B => match unpack [6, 6, 1, 1, 6] w with
    | [rd, ra, i, _, b] => some (.shr c (.ofNat _ rd) (.ofNat _ ra) (bit i) (.ofNat _ b))
    | _ => none
  | 0x0C => match unpack [6, 6, 1, 1, 6] w with
    | [rd, ra, i, _, b] => some (.sra c (.ofNat _ rd) (.ofNat _ ra) (bit i) (.ofNat _ b))
    | _ => none
  | 0x0D => match unpack [6, 6, 1, 1, 6] w with
    | [rd, ra, i, m, b] => some (.min c (.ofNat _ rd) (.ofNat _ ra) (bit i) (bit m) (.ofNat _ b))
    | _ => none
  | 0x0E => match unpack [6, 6, 1, 1, 6] w with
    | [rd, ra, i, m, b] => some (.max c (.ofNat _ rd) (.ofNat _ ra) (bit i) (bit m) (.ofNat _ b))
    | _ => none
  | 0x0F => match unpack [6, 6, 6, 2] w with
    | [rd, ra, rb, fs] => some (.sel c (.ofNat _ rd) (.ofNat _ ra) (.ofNat _ rb) (.ofNat _ fs))
    | _ => none
  | 0x10 => match unpack [6, 6, 8] w with
    | [rd, ra, _] => some (.clz c (.ofNat _ rd) (.ofNat _ ra))
    | _ => none
  | 0x11 => match unpack [6, 6, 8] w with
    | [rd, ra, _] => some (.popc c (.ofNat _ rd) (.ofNat _ ra))
    | _ => none
  | 0x12 => match unpack [6, 14] w with
    | [rd, imm] => some (.movi c (.ofNat _ rd) (.ofNat _ imm))
    | _ => none
  | 0x13 => match unpack [6, 14] w with
    | [rd, imm] => some (.movhi c (.ofNat _ rd) (.ofNat _ imm))
    | _ => none
  | 0x14 => match unpack [4, 3, 6, 1, 6] w with
    | [fd, cc, ra, i, b] => some (.cmp c (.ofNat _ fd) (.ofNat _ cc) (.ofNat _ ra) (bit i) (.ofNat _ b))
    | _ => none
  | 0x15 => match unpack [6, 6, 2, 1, 3, 2] w with
    | [rd, ra, wc, sg, bo, _] => some (.ext c (.ofNat _ rd) (.ofNat _ ra) (.ofNat _ wc) (bit sg) (.ofNat _ bo))
    | _ => none
  | 0x18 => match unpack [1, 4, 15] w with
    | [bi, bf, off] => some (.br c (bit bi) (.ofNat _ bf) (.ofNat _ off))
    | _ => none
  | 0x19 => match unpack [20] w with
    | [off] => some (.jmp c (.ofNat _ off))
    | _ => none
  | 0x1A => match unpack [6, 14] w with
    | [ra, disp] => some (.jmpi c (.ofNat _ ra) (.ofNat _ disp))
    | _ => none
  | 0x1B => match unpack [20] w with
    | [off] => some (.call c (.ofNat _ off))
    | _ => none
  | 0x1C => match unpack [6, 14] w with
    | [ra, _] => some (.ret c (.ofNat _ ra))
    | _ => none
  | 0x1D =>
    if w.testBit 19 then match unpack [1, 8, 11] w with
      | [_, cnt, fin] => some (.loopImm c (.ofNat _ cnt) (.ofNat _ fin))
      | _ => none
    else match unpack [1, 6, 2, 11] w with
      | [_, ra, _, fin] => some (.loopReg c (.ofNat _ ra) (.ofNat _ fin))
      | _ => none
  | 0x1E => match unpack [17, 3] w with
    | [_, n] => some (.loopbrk c (.ofNat _ n))
    | _ => none
  | 0x1F => match unpack [6, 1, 3, 10] w with
    | [rd, cnt, lv, _] => some (.lidx c (.ofNat _ rd) (bit cnt) (.ofNat _ lv))
    | _ => none
  | 0x20 => match unpack [20] w with
    | [off] => some (.seghint c (.ofNat _ off))
    | _ => none
  | 0x24 => match unpack [4, 15, 1] w with
    | [_, mask, _] => some (.fset c (.ofNat _ mask))
    | _ => none
  | 0x25 => match unpack [4, 15, 1] w with
    | [_, mask, _] => some (.fclr c (.ofNat _ mask))
    | _ => none
  | 0x26 => match unpack [4, 4, 4, 4, 4] w with
    | [fd, fa, fb, tt, _] => some (.fop c (.ofNat _ fd) (.ofNat _ fa) (.ofNat _ fb) (.ofNat _ tt))
    | _ => none
  | 0x27 => match unpack [9, 6, 4, 1] w with
    | [idx, ra, cnt, _] => some (.vcwld c (.ofNat _ idx) (.ofNat _ ra) (.ofNat _ cnt))
    | _ => none
  | 0x28 => match unpack [4, 6, 10] w with
    | [gn, ra, _] => some (.gmset c (.ofNat _ gn) (.ofNat _ ra))
    | _ => none
  | 0x29 => match unpack [8, 6, 6] w with
    | [cell, ra, _] => some (.tkwait c (.ofNat _ cell) (.ofNat _ ra))
    | _ => none
  | 0x2A => match unpack [8, 12] w with
    | [cell, inc] => some (.tkadv c (.ofNat _ cell) (.ofNat _ inc))
    | _ => none
  | 0x2B => match unpack [8, 6, 6] w with
    | [cell, ra, _] => some (.tkset c (.ofNat _ cell) (.ofNat _ ra))
    | _ => none
  | 0x2C => match unpack [4, 5, 6, 5] w with
    | [die, tq, rb, _] => some (.tqput c (.ofNat _ die) (.ofNat _ tq) (.ofNat _ rb))
    | _ => none
  | 0x2D => match unpack [4, 5, 6, 5] w with
    | [die, tq, rd, _] => some (.tqget c (.ofNat _ die) (.ofNat _ tq) (.ofNat _ rd))
    | _ => none
  | 0x2E => match unpack [4, 5, 11] w with
    | [die, tq, _] => some (.tqrel c (.ofNat _ die) (.ofNat _ tq))
    | _ => none
  | 0x2F => match unpack [4, 16] w with
    | [cls, _] => some (.fence c (.ofNat _ cls))
    | _ => none
  | 0x30 => match unpack [4, 3, 13] w with
    | [sp, pri, _] => some (.post c (.ofNat _ sp) (.ofNat _ pri))
    | _ => none
  | 0x31 => match unpack [4, 3, 13] w with
    | [sp, pri, _] => some (.launch c (.ofNat _ sp) (.ofNat _ pri))
    | _ => none
  | 0x32 => match unpack [6, 3, 1, 10] w with
    | [rd, lv, k, _] => some (.spat c (.ofNat _ rd) (.ofNat _ lv) (bit k))
    | _ => none
  | 0x33 => match unpack [6, 14] w with
    | [rd, _] => some (.sqid c (.ofNat _ rd))
    | _ => none
  | 0x34 => match unpack [20] w with
    | [_] => some (.tend c)
    | _ => none
  | 0x38 => match unpack [20] w with
    | [off] => some (.chk c (.ofNat _ off))
    | _ => none
  | 0x39 => match unpack [20] w with
    | [_] => some (.cmt c)
    | _ => none
  | 0x3A => match unpack [12, 8] w with
    | [_, code] => some (.abt c (.ofNat _ code))
    | _ => none
  | 0x3B => match unpack [20] w with
    | [_] => some (.gclr c)
    | _ => none
  | 0x3C => match unpack [12, 8] w with
    | [_, code] => some (.asrt c (.ofNat _ code))
    | _ => none
  | 0x3D => match unpack [6, 14] w with
    | [rd, _] => some (.rgst c (.ofNat _ rd))
    | _ => none
  | 0x3E => match unpack [20] w with
    | [off] => some (.txb c (.ofNat _ off))
    | _ => none
  | 0x3F => match unpack [6, 14] w with
    | [rd, _] => some (.txc c (.ofNat _ rd))
    | _ => none
  | 0x40 => match unpack [20] w with
    | [_] => some (.snap c)
    | _ => none
  | 0x41 => match unpack [20] w with
    | [_] => some (.snape c)
    | _ => none
  | 0x48 => match unpack [6, 6, 8] w with
    | [rd, ra, _] => some (.ctxnew c (.ofNat _ rd) (.ofNat _ ra))
    | _ => none
  | 0x49 => match unpack [6, 6, 8] w with
    | [rd, ra, _] => some (.ctxdel c (.ofNat _ rd) (.ofNat _ ra))
    | _ => none
  | 0x4A => match unpack [4, 6, 6, 4] w with
    | [sp, rd, ra, _] => some (.ctxcore c (.ofNat _ sp) (.ofNat _ rd) (.ofNat _ ra))
    | _ => none
  | 0x4B => match unpack [4, 6, 6, 4] w with
    | [sp, rd, ra, _] => some (.ctxmem c (.ofNat _ sp) (.ofNat _ rd) (.ofNat _ ra))
    | _ => none
  | 0x4C => match unpack [4, 6, 6, 4] w with
    | [sp, rd, ra, _] => some (.ctxq c (.ofNat _ sp) (.ofNat _ rd) (.ofNat _ ra))
    | _ => none
  | 0x4D => match unpack [4, 6, 6, 4] w with
    | [sp, rd, ra, _] => some (.ctxbud c (.ofNat _ sp) (.ofNat _ rd) (.ofNat _ ra))
    | _ => none
  | 0x4E => match unpack [6, 6, 6, 2] w with
    | [rd, ra, rb, _] => some (.ctxrunRun c (.ofNat _ rd) (.ofNat _ ra) (.ofNat _ rb))
    | _ => none
  | 0x4F => match unpack [4, 6, 6, 4] w with
    | [sp, rd, ra, _] => some (.ctxstop c (.ofNat _ sp) (.ofNat _ rd) (.ofNat _ ra))
    | _ => none
  | 0x50 => match unpack [6, 6, 8] w with
    | [rd, ra, _] => some (.ctxrev c (.ofNat _ rd) (.ofNat _ ra))
    | _ => none
  | 0x51 => match unpack [6, 6, 6, 2] w with
    | [rd, ra, rb, _] => some (.ctxdlg c (.ofNat _ rd) (.ofNat _ ra) (.ofNat _ rb))
    | _ => none
  | 0x52 => match unpack [6, 6, 6, 2] w with
    | [rd, ra, rb, _] => some (.ctxrd c (.ofNat _ rd) (.ofNat _ ra) (.ofNat _ rb))
    | _ => none
  | 0x53 => match unpack [4, 6, 6, 4] w with
    | [sp, rd, ra, _] => some (.ctxsaveSave c (.ofNat _ sp) (.ofNat _ rd) (.ofNat _ ra))
    | _ => none
  | 0x54 => match unpack [6, 6, 6, 2] w with
    | [rd, ra, rb, _] => some (.shoot c (.ofNat _ rd) (.ofNat _ ra) (.ofNat _ rb))
    | _ => none
  | 0x58 => match unpack [15, 5] w with
    | [_, n] => some (.trap c (.ofNat _ n))
    | _ => none
  | 0x59 => match unpack [20] w with
    | [_] => some (.eret c)
    | _ => none
  | 0x5A => match unpack [6, 14] w with
    | [rd, num] => some (.sysrd c (.ofNat _ rd) (.ofNat _ num))
    | _ => none
  | 0x5B => match unpack [6, 14] w with
    | [rb, num] => some (.syswr c (.ofNat _ rb) (.ofNat _ num))
    | _ => none
  | 0x5C => match unpack [6, 14] w with
    | [ra, _] => some (.pwracq c (.ofNat _ ra))
    | _ => none
  | 0x5D => match unpack [20] w with
    | [_] => some (.pwrrel c)
    | _ => none
  | 0x5E => match unpack [6, 2, 12] w with
    | [rd, w, _] => some (.feat c (.ofNat _ rd) (.ofNat _ w))
    | _ => none
  | 0x5F => match unpack [6, 1, 13] w with
    | [rd, k, _] => some (.cyc c (.ofNat _ rd) (bit k))
    | _ => none
  | 0x60 => match unpack [6, 14] w with
    | [ra, _] => some (.tbase c (.ofNat _ ra))
    | _ => none
  | 0x61 => match unpack [20] w with
    | [_] => some (.halt c)
    | _ => none
  | 0x62 => match unpack [12, 8] w with
    | [_, code] => some (.brk c (.ofNat _ code))
    | _ => none
  | 0x63 => match unpack [6, 6, 8] w with
    | [rd, ra, _] => some (.mcld c (.ofNat _ rd) (.ofNat _ ra))
    | _ => none
  | n => if n / 16 = 7 then some (.microcodeS c (.ofNat _ (n % 16)) (.ofNat _ w)) else none

/-- The operand field of an L syllable, read by its opcode (the map and the layouts of R62, R127). -/
def rawL (c : Ctl) (op w : Nat) : Option Instr :=
  match op with
  | 0x00 => match unpack [6, 5, 3, 8] w with
    | [rs, ar, fmt, ofs] => some (.ld c (.ofNat _ rs) (.ofNat _ ar) (.ofNat _ fmt) (.ofNat _ ofs))
    | _ => none
  | 0x01 => match unpack [6, 5, 2, 1, 8] w with
    | [rs, ar, sz, _, ofs] => some (.st c (.ofNat _ rs) (.ofNat _ ar) (.ofNat _ sz) (.ofNat _ ofs))
    | _ => none
  | 0x02 => match unpack [1, 11, 5, 5] w with
    | [vc, vr, ar, ofs] => some (.ldv c (bit vc) (.ofNat _ vr) (.ofNat _ ar) (.ofNat _ ofs))
    | _ => none
  | 0x03 => match unpack [1, 11, 5, 5] w with
    | [vc, vr, ar, ofs] => some (.stv c (bit vc) (.ofNat _ vr) (.ofNat _ ar) (.ofNat _ ofs))
    | _ => none
  | 0x04 => match unpack [1, 11, 5, 2, 1, 2] w with
    | [vc, vr, ar, ew, sg, _] => some (.gath c (bit vc) (.ofNat _ vr) (.ofNat _ ar) (.ofNat _ ew) (bit sg))
    | _ => none
  | 0x05 => match unpack [1, 11, 5, 2, 3] w with
    | [vc, vr, ar, ew, _] => some (.scat c (bit vc) (.ofNat _ vr) (.ofNat _ ar) (.ofNat _ ew))
    | _ => none
  | 0x06 => match unpack [6, 11, 5] w with
    | [rs, off, _] => some (.spld c (.ofNat _ rs) (.ofNat _ off))
    | _ => none
  | 0x07 => match unpack [6, 11, 5] w with
    | [rs, off, _] => some (.spst c (.ofNat _ rs) (.ofNat _ off))
    | _ => none
  | 0x08 => match unpack [6, 5, 3, 8] w with
    | [rs, ar, fmt, arr] => some (.fld c (.ofNat _ rs) (.ofNat _ ar) (.ofNat _ fmt) (.ofNat _ arr))
    | _ => none
  | 0x09 => match unpack [1, 11, 5, 5] w with
    | [vc, vr, ar, arr] => some (.fldv c (bit vc) (.ofNat _ vr) (.ofNat _ ar) (.ofNat _ arr))
    | _ => none
  | 0x0A =>
    if w.testBit 6 then match unpack [5, 1, 6, 3, 1, 6] w with
      | [ar, tl, _, cb, _, _] => some (.cbrdAddress c (.ofNat _ ar) (bit tl) (.ofNat _ cb))
      | _ => none
    else match unpack [1, 11, 3, 1, 6] w with
      | [vc, vr, cb, _, off] => some (.cbrdVector c (bit vc) (.ofNat _ vr) (.ofNat _ cb) (.ofNat _ off))
      | _ => none
  | 0x0B => match unpack [12, 3, 7] w with
    | [_, cb, _] => some (.cbrel c (.ofNat _ cb))
    | _ => none
  | 0x0C =>
    if w.testBit 16 then match unpack [5, 1, 16] w with
      | [ar, _, imm] => some (.adrsetImm c (.ofNat _ ar) (.ofNat _ imm))
      | _ => none
    else match unpack [5, 1, 6, 10] w with
      | [ar, _, rs, _] => some (.adrsetReg c (.ofNat _ ar) (.ofNat _ rs))
      | _ => none
  | 0x0D =>
    if w.testBit 16 then match unpack [5, 1, 16] w with
      | [ar, _, imm] => some (.adraddImm c (.ofNat _ ar) (.ofNat _ imm))
      | _ => none
    else match unpack [5, 1, 6, 10] w with
      | [ar, _, rs, _] => some (.adraddReg c (.ofNat _ ar) (.ofNat _ rs))
      | _ => none
  | 0x0E => match unpack [3, 5, 1, 5, 8] w with
    | [xs, ar, all, _, ofs] => some (.scld c (.ofNat _ xs) (.ofNat _ ar) (bit all) (.ofNat _ ofs))
    | _ => none
  | 0x0F =>
    if w.testBit 21 then match unpack [1, 1, 11, 5, 4] w with
      | [_, vc, vr, ar, d] => some (.ldgVector c (bit vc) (.ofNat _ vr) (.ofNat _ ar) (.ofNat _ d))
      | _ => none
    else match unpack [1, 6, 5, 3, 7] w with
      | [_, rs, ar, fmt, d] => some (.ldgScalar c (.ofNat _ rs) (.ofNat _ ar) (.ofNat _ fmt) (.ofNat _ d))
      | _ => none
  | _ => none

/-- The operand field of a C syllable, read by its opcode (the map and the layouts of R63, R211). -/
def rawC (c : Ctl) (op w : Nat) : Option Instr :=
  match op with
  | 0x00 =>
    if w.testBit 9 then match unpack [2, 4, 1, 4, 1, 9] w with
      | [q, sp, ce, co, _, _] => some (.cpyOut c (.ofNat _ q) (.ofNat _ sp) (bit ce) (.ofNat _ co))
      | _ => none
    else match unpack [2, 4, 1, 4, 1, 9] w with
      | [q, sp, ce, co, _, _] => some (.cpyIn c (.ofNat _ q) (.ofNat _ sp) (bit ce) (.ofNat _ co))
      | _ => none
  | 0x01 => match unpack [2, 4, 1, 4, 10] w with
    | [q, sp, ce, co, _] => some (.cpyg c (.ofNat _ q) (.ofNat _ sp) (bit ce) (.ofNat _ co))
    | _ => none
  | 0x02 => match unpack [2, 4, 1, 4, 1, 3, 6] w with
    | [q, sp, ce, co, _, cb, _] => some (.cpyb c (.ofNat _ q) (.ofNat _ sp) (bit ce) (.ofNat _ co) (.ofNat _ cb))
    | _ => none
  | 0x03 => match unpack [2, 4, 1, 4, 10] w with
    | [q, sp, ce, co, _] => some (.fill c (.ofNat _ q) (.ofNat _ sp) (bit ce) (.ofNat _ co))
    | _ => none
  | 0x04 => match unpack [2, 4, 1, 4, 1, 3, 4, 2] w with
    | [q, sp, ce, co, _, rop, fmt, _] => some (.cred c (.ofNat _ q) (.ofNat _ sp) (bit ce) (.ofNat _ co) (.ofNat _ rop) (.ofNat _ fmt))
    | _ => none
  | 0x05 => match unpack [2, 6, 6, 2, 1, 4] w with
    | [q, rd, ra, sz, aq, arr] => some (.gld c (.ofNat _ q) (.ofNat _ rd) (.ofNat _ ra) (.ofNat _ sz) (bit aq) (.ofNat _ arr))
    | _ => none
  | 0x06 => match unpack [2, 6, 6, 2, 1, 4] w with
    | [q, rb, ra, sz, rl, _] => some (.gst c (.ofNat _ q) (.ofNat _ rb) (.ofNat _ ra) (.ofNat _ sz) (bit rl))
    | _ => none
  | 0x08 => match unpack [2, 4, 6, 1, 1, 2, 4, 1] w with
    | [q, sp, rd, sz, _, ord, arr, _] => some (.aadd c (.ofNat _ q) (.ofNat _ sp) (.ofNat _ rd) (bit sz) (.ofNat _ ord) (.ofNat _ arr))
    | _ => none
  | 0x09 => match unpack [2, 4, 6, 1, 1, 2, 4, 1] w with
    | [q, sp, rd, sz, sg, ord, arr, _] => some (.amin c (.ofNat _ q) (.ofNat _ sp) (.ofNat _ rd) (bit sz) (bit sg) (.ofNat _ ord) (.ofNat _ arr))
    | _ => none
  | 0x0A => match unpack [2, 4, 6, 1, 1, 2, 4, 1] w with
    | [q, sp, rd, sz, sg, ord, arr, _] => some (.amax c (.ofNat _ q) (.ofNat _ sp) (.ofNat _ rd) (bit sz) (bit sg) (.ofNat _ ord) (.ofNat _ arr))
    | _ => none
  | 0x0B => match unpack [2, 4, 6, 1, 1, 2, 4, 1] w with
    | [q, sp, rd, sz, _, ord, arr, _] => some (.aand c (.ofNat _ q) (.ofNat _ sp) (.ofNat _ rd) (bit sz) (.ofNat _ ord) (.ofNat _ arr))
    | _ => none
  | 0x0C => match unpack [2, 4, 6, 1, 1, 2, 4, 1] w with
    | [q, sp, rd, sz, _, ord, arr, _] => some (.aor c (.ofNat _ q) (.ofNat _ sp) (.ofNat _ rd) (bit sz) (.ofNat _ ord) (.ofNat _ arr))
    | _ => none
  | 0x0D => match unpack [2, 4, 6, 1, 1, 2, 4, 1] w with
    | [q, sp, rd, sz, _, ord, arr, _] => some (.axor c (.ofNat _ q) (.ofNat _ sp) (.ofNat _ rd) (bit sz) (.ofNat _ ord) (.ofNat _ arr))
    | _ => none
  | 0x0E => match unpack [2, 4, 6, 1, 1, 2, 4, 1] w with
    | [q, sp, rd, sz, _, ord, arr, _] => some (.axch c (.ofNat _ q) (.ofNat _ sp) (.ofNat _ rd) (bit sz) (.ofNat _ ord) (.ofNat _ arr))
    | _ => none
  | 0x0F => match unpack [2, 4, 6, 1, 1, 2, 4, 1] w with
    | [q, sp, rd, sz, _, ord, arr, _] => some (.acas c (.ofNat _ q) (.ofNat _ sp) (.ofNat _ rd) (bit sz) (.ofNat _ ord) (.ofNat _ arr))
    | _ => none
  | 0x10 =>
    if w.testBit 18 then match unpack [2, 1, 4, 6, 8] w with
      | [q, _, _, ra, _] => some (.csigAddress c (.ofNat _ q) (.ofNat _ ra))
      | _ => none
    else match unpack [2, 1, 4, 6, 8] w with
      | [q, _, co, ra, _] => some (.csigCounter c (.ofNat _ q) (.ofNat _ co) (.ofNat _ ra))
      | _ => none
  | 0x11 =>
    if w.testBit 15 then match unpack [4, 1, 1, 10, 5] w with
      | [co, sb, _, imm, _] => some (.cwaitImm c (.ofNat _ co) (bit sb) (.ofNat _ imm))
      | _ => none
    else match unpack [4, 1, 1, 6, 9] w with
      | [co, sb, _, ra, _] => some (.cwaitReg c (.ofNat _ co) (bit sb) (.ofNat _ ra))
      | _ => none
  | 0x12 => match unpack [3, 18] w with
    | [sc, _] => some (.drain c (.ofNat _ sc))
    | _ => none
  | _ => none

/-- The operand field of a Q syllable, read by its opcode (the map and the layouts of R65, R173). -/
def rawQ (c : Ctl) (op w : Nat) : Option Instr :=
  match op with
  | 0x00 => match unpack [2, 2, 1, 18] w with
    | [ql, cls, lm, _] => some (.qadd c (.ofNat _ ql) (.ofNat _ cls) (bit lm))
    | _ => none
  | 0x01 => match unpack [2, 2, 1, 18] w with
    | [ql, cls, lm, _] => some (.qmax c (.ofNat _ ql) (.ofNat _ cls) (bit lm))
    | _ => none
  | 0x02 => match unpack [2, 2, 1, 18] w with
    | [ql, cls, lm, _] => some (.qmin c (.ofNat _ ql) (.ofNat _ cls) (bit lm))
    | _ => none
  | 0x03 => match unpack [2, 6, 1, 14] w with
    | [ql, rd, cl, _] => some (.qdrn c (.ofNat _ ql) (.ofNat _ rd) (bit cl))
    | _ => none
  | 0x04 => match unpack [2, 2, 1, 18] w with
    | [ql, iv, lm, _] => some (.qclr c (.ofNat _ ql) (.ofNat _ iv) (bit lm))
    | _ => none
  | _ => none

/-- The operand field of an X syllable, read by its opcode (the map and the layouts of R64, R185). -/
def rawX (c : Ctl) (op w : Nat) : Option Instr :=
  match op with
  | 0x00 => match unpack [11, 1, 5, 5, 3, 3, 7, 1, 1] w with
    | [t, qd, aa, ab, fa, fb, ncm, z, ps] => some (.mma c (.ofNat _ t) (bit qd) (.ofNat _ aa) (.ofNat _ ab) (.ofNat _ fa) (.ofNat _ fb) (.ofNat _ ncm) (bit z) (bit ps))
    | _ => none
  | 0x01 => match unpack [11, 1, 5, 5, 3, 3, 7, 1, 1] w with
    | [t, qd, sp, ab, fa, fb, ncm, z, _] => some (.mmas c (.ofNat _ t) (bit qd) (.ofNat _ sp) (.ofNat _ ab) (.ofNat _ fa) (.ofNat _ fb) (.ofNat _ ncm) (bit z))
    | _ => none
  | 0x02 => match unpack [11, 1, 25] w with
    | [t, qd, _] => some (.tzero c (.ofNat _ t) (bit qd))
    | _ => none
  | 0x03 => match unpack [11, 1, 5, 5, 1, 14] w with
    | [t, qd, ar, fmt, ps, _] => some (.tld c (.ofNat _ t) (bit qd) (.ofNat _ ar) (.ofNat _ fmt) (bit ps))
    | _ => none
  | 0x04 => match unpack [11, 1, 5, 5, 3, 1, 1, 10] w with
    | [t, qd, ar, fmt, xs, sat, ps, _] => some (.tst c (.ofNat _ t) (bit qd) (.ofNat _ ar) (.ofNat _ fmt) (.ofNat _ xs) (bit sat) (bit ps))
    | _ => none
  | 0x05 => match unpack [11, 1, 11, 14] w with
    | [t, qd, ta, src] => some (.tadd c (.ofNat _ t) (bit qd) (.ofNat _ ta) (.ofNat _ src))
    | _ => none
  | 0x06 => match unpack [11, 1, 11, 14] w with
    | [t, qd, ta, _] => some (.tmov c (.ofNat _ t) (bit qd) (.ofNat _ ta))
    | _ => none
  | 0x07 => match unpack [6, 1, 30] w with
    | [rd, cl, _] => some (.trow c (.ofNat _ rd) (bit cl))
    | _ => none
  | _ => none

/-- A VCW by its opcode (R66). -/
def rawVcw (e : Vcw) (op : Nat) : Option Instr :=
  match op with
  | 0x00 => some (.vadd e)
  | 0x01 => some (.vsub e)
  | 0x02 => some (.vmul e)
  | 0x03 => some (.vfma e)
  | 0x04 => some (.vfms e)
  | 0x05 => some (.vmin e)
  | 0x06 => some (.vmax e)
  | 0x07 => some (.vabs e)
  | 0x08 => some (.vneg e)
  | 0x09 => some (.vand e)
  | 0x0A => some (.vor e)
  | 0x0B => some (.vxor e)
  | 0x0C => some (.vshl e)
  | 0x0D => some (.vshr e)
  | 0x0E => some (.vsra e)
  | 0x0F => some (.vcmp e)
  | 0x10 => some (.vsel e)
  | 0x11 => some (.vcvt e)
  | 0x12 => some (.vqbfp e)
  | 0x13 => some (.vxbfp e)
  | 0x14 => some (.vrcp e)
  | 0x15 => some (.vrsq e)
  | 0x16 => some (.vexp2 e)
  | 0x17 => some (.vlog2 e)
  | 0x18 => some (.vtanh e)
  | 0x19 => some (.vperm e)
  | 0x1A => some (.vxc e)
  | 0x1B => some (.vbc e)
  | 0x1C => some (.vext e)
  | 0x1D => some (.viota e)
  | 0x1E => some (.vscan e)
  | 0x1F => some (.vflg e)
  | n => if n / 16 = 15 then some (.microcodeVcw e (.ofNat _ (n % 16))) else none

/-- Why a word is no instruction of its slot (R47). -/
inductive Reject where
  /-- The opcode is unassigned in the slot's map, or not legal in this slot. -/
  | unassigned
  /-- A reserved bit of the word is not zero. -/
  | reserved
  /-- A field holds a value that the form's entry states to be illegal. -/
  | illegalField
  deriving DecidableEq, Repr

/-- The instruction that the opcode and the layout of a slot's word name, before any check. -/
def decodeRaw (sl : Slot) (w : Nat) : Option Instr :=
  match sl with
  | .s => match unpack [1, 7, 3, 1, 20] w with
    | [h, op, pf, pi, r] => rawS ⟨bit h, .ofNat _ pf, bit pi⟩ op r
    | _ => none
  | .l | .w => match unpack [1, 5, 3, 1, 22] w with
    | [h, op, pf, pi, r] => rawL ⟨bit h, .ofNat _ pf, bit pi⟩ op r
    | _ => none
  | .c => match unpack [1, 6, 3, 1, 21] w with
    | [h, op, pf, pi, r] => rawC ⟨bit h, .ofNat _ pf, bit pi⟩ op r
    | _ => none
  | .q => match unpack [1, 4, 3, 1, 23] w with
    | [h, op, pf, pi, r] => rawQ ⟨bit h, .ofNat _ pf, bit pi⟩ op r
    | _ => none
  | .x => match unpack [1, 6, 3, 1, 37] w with
    | [h, op, pf, pi, r] => rawX ⟨bit h, .ofNat _ pf, bit pi⟩ op r
    | _ => none
  | .vcw => match unpackVcw w with
    | some (op, e) => rawVcw e op
    | none => none
  | .va | .vb => none

/-- The instruction that a word stands for in a slot, or why it stands for none (R47). -/
def decodeSyl (sl : Slot) (w : Nat) : Except Reject Instr :=
  match decodeRaw sl w with
  | none => .error .unassigned
  | some i =>
    if !i.slots.contains sl then .error .unassigned
    else if encode i != w % 2 ^ sl.width then .error .reserved
    else if !i.fieldsOk then .error .illegalField
    else .ok i

/-- A syllable of any slot, the vector syllables with the layout of R44. -/
def decodeSlot (sl : Slot) (w : Nat) : Except Reject Syl :=
  match sl with
  | .va | .vb => match unpack [1, 9, 6] w with
    | [h, idx, slide] => .ok (.vec (bit h) (.ofNat _ idx) (.ofNat _ slide))
    | _ => .error .unassigned
  | _ => match decodeSyl sl w with
    | .ok i => .ok (.op i)
    | .error r => .error r

/-- The decoder's answer as an option. -/
def decode? (sl : Slot) (w : Nat) : Option Instr :=
  match decodeSyl sl w with
  | .ok i => some i
  | .error _ => none

/-- The parcels of a syllable as they stand in memory, the most significant first, each little-endian (R40). -/
def sylBytes : Nat → Nat → List Byte
  | 0, _ => []
  | k + 1, w => BitVec.ofNat 8 (w / 2 ^ (16 * k)) :: BitVec.ofNat 8 (w / 2 ^ (16 * k + 8)) :: sylBytes k w

/-- A little-endian number (R4). -/
def leNat : List Byte → Nat
  | [] => 0
  | b :: bs => b.toNat + 256 * leNat bs

/-- A syllable's value from its bytes in memory (R40). -/
def sylNat : List Byte → Nat
  | lo :: hi :: bs => (lo.toNat + 256 * hi.toNat) * 2 ^ (8 * bs.length) + sylNat bs
  | _ => 0

/-- The instruction of a table row's bits, laid out in memory and read back in the slots of that width: a bare word
does not say in which slot it stands, so the slots are tried in the order of R43 (assumption log, entry 4). -/
def decodeTableWord (nbits w : Nat) : Option Instr :=
  if nbits == 256 then decode? .vcw w
  else if nbits == 48 then decode? .x (sylNat (sylBytes 3 w))
  else if nbits == 32 then
    let v := sylNat (sylBytes 2 w)
    (decode? .s v).or ((decode? .l v).or ((decode? .w v).or ((decode? .c v).or (decode? .q v))))
  else none

end Sys2Proof
end

