-- ==== Sys2Proof/Machine/Sparse.lean ====
section
/-! DEFINITION. Sparse data by key, in one canonical form: keys strictly rising. Register files list only the registers
that differ from their default; memory lists only the bytes that differ from what an unlisted address reads as. -/

namespace Sys2Proof.Machine

/-- A finite map as a list of keys and values. -/
abbrev Smap (α : Type) := List (Nat × α)

/-- The value at a key, if one is listed. -/
def Smap.find {α : Type} : Smap α → Nat → Option α
  | [], _ => none
  | (k, v) :: m, i => if i = k then some v else Smap.find m i

/-- The value at a key, or the default. -/
def Smap.get {α : Type} (d : α) (m : Smap α) (i : Nat) : α := (m.find i).getD d

/-- Lists a value at a key. -/
def Smap.put {α : Type} : Smap α → Nat → α → Smap α
  | [], i, v => [(i, v)]
  | (k, w) :: m, i, v =>
    if i < k then (i, v) :: (k, w) :: m
    else if i = k then (i, v) :: m
    else (k, w) :: Smap.put m i v

/-- Removes a key, wherever it is listed. -/
def Smap.del {α : Type} : Smap α → Nat → Smap α
  | [], _ => []
  | (k, w) :: m, i => if i = k then Smap.del m i else (k, w) :: Smap.del m i

/-- Writes a value at a key, listing nothing that equals the default. -/
def Smap.set {α : Type} [DecidableEq α] (d : α) (m : Smap α) (i : Nat) (v : α) : Smap α :=
  if v = d then m.del i else m.put i v

/-- Changes the value at a key. -/
def Smap.upd {α : Type} [DecidableEq α] (d : α) (m : Smap α) (i : Nat) (f : α → α) : Smap α :=
  m.set d i (f (m.get d i))

/-- Changes every listed value. -/
def Smap.mapVals {α β : Type} (f : α → β) (m : Smap α) : Smap β := List.map (fun e => (e.1, f e.2)) m

/-- Keys strictly rise. -/
def Smap.sorted {α : Type} : Smap α → Bool
  | (k, _) :: (k', v) :: m => decide (k < k') && Smap.sorted ((k', v) :: m)
  | _ => true

/-- Byte-addressed memory as the host's cells. -/
abbrev Memory := List Host.Cell

/-- What an unlisted address reads as: DESIGN CHOICE, unsafe (assumption log, entry 2): the spec gives no contents of
memory after a cold start (R419), and SRAM is left zero. -/
def Memory.unlisted : Byte := 0

/-- One byte. -/
def Memory.read (m : Memory) (a : Nat) : Byte := Smap.get Memory.unlisted m a

/-- Writes one byte. -/
def Memory.write (m : Memory) (a : Nat) (v : Byte) : Memory := Smap.set Memory.unlisted m a v

/-- `n` bytes from an address upward. -/
def Memory.readN (m : Memory) (a : Nat) : Nat → List Byte
  | 0 => []
  | n + 1 => m.read a :: Memory.readN m (a + 1) n

/-- Writes bytes from an address upward. -/
def Memory.writeN (m : Memory) (a : Nat) : List Byte → Memory
  | [] => m
  | b :: bs => Memory.writeN (m.write a b) (a + 1) bs

/-- The canonical form: addresses strictly rising, and no entry equal to what an unlisted address reads as. -/
def Memory.wf (m : Memory) : Bool := Smap.sorted m && m.all (fun c => c.2 != Memory.unlisted)

end Sys2Proof.Machine
end

