-- ==== Sys2Proof/Machine/Bits.lean ====
section
/-! DEFINITION. Bit fields, sign extension, byte order and lanes (R4, R85, R147). -/

namespace Sys2Proof.Machine

/-- Bits `[hi:lo]` of a number. -/
def fld (n hi lo : Nat) : Nat := n / 2 ^ lo % 2 ^ (hi + 1 - lo)

/-- Bits `[hi:lo]` of a 64-bit register. -/
def rfld (r : DWord) (hi lo : Nat) : Nat := fld r.toNat hi lo

/-- A register with bits `[hi:lo]` replaced. -/
def setFld (r : DWord) (hi lo v : Nat) : DWord :=
  .ofNat 64 (r.toNat / 2 ^ (hi + 1) * 2 ^ (hi + 1) + v % 2 ^ (hi + 1 - lo) * 2 ^ lo + r.toNat % 2 ^ lo)

/-- The signed value of a `w`-bit pattern. -/
def sval (w n : Nat) : Int := if n % 2 ^ w < 2 ^ (w - 1) then (n % 2 ^ w : Nat) else (n % 2 ^ w : Nat) - (2 ^ w : Nat)

/-- The `w`-bit pattern of an integer, modulo 2^w. -/
def ofInt (w : Nat) (i : Int) : Nat := (i % ((2 ^ w : Nat) : Int)).toNat

/-- A small signed field extended to an integer. -/
def sext {w : Nat} (b : BitVec w) : Int := b.toInt

/-- `n` little-endian bytes of a number (R4). -/
def toBytes : Nat → Nat → List Byte
  | 0, _ => []
  | n + 1, v => BitVec.ofNat 8 v :: toBytes n (v / 256)

/-- Element `j` of width `w` of a register's bits (R85, R147). -/
def elem (r w j : Nat) : Nat := r / 2 ^ (w * j) % 2 ^ w

/-- A register's bits from its elements of width `w`, element 0 first. -/
def ofElems (w : Nat) : List Nat → Nat
  | [] => 0
  | e :: es => e % 2 ^ w + 2 ^ w * ofElems w es

/-- The elements of width `w` of a register of 512 bits. -/
def elems (w r : Nat) : List Nat := (List.range (512 / w)).map (elem r w)

/-- Bits that a lane mask of 16 bits selects in a 512-bit register. -/
def laneBits (lanes : Nat) : Nat := ofElems 32 ((List.range 16).map fun l => if lanes.testBit l then 2 ^ 32 - 1 else 0)

/-- The lanes of `x` where the mask is 1 and of `y` elsewhere. -/
def mergeLanes (lanes x y : Nat) : Nat :=
  if lanes = 0xFFFF then x
  else ofElems 32 ((List.range 16).map fun l => if lanes.testBit l then elem x 32 l else elem y 32 l)

/-- An address of 56 bits. -/
def va56 (n : Nat) : BitVec 56 := .ofNat 56 n

/-- The number of a slot in template order (R42, R295). -/
def slotNo : Slot → Nat
  | .s => 0 | .l => 1 | .w => 2 | .va => 3 | .vb => 4 | .x => 5 | .c => 6 | .q => 7 | .vcw => 3

/-- The slots in template order. -/
def slotOf : Nat → Slot
  | 0 => .s | 1 => .l | 2 => .w | 3 => .va | 4 => .vb | 5 => .x | 6 => .c | _ => .q

/-- The columns of a sequencer in a mode (R11). -/
def modeCols : Mode → Nat
  | .whole => 4 | .half => 2 | .quarter => 1

/-- The code of a mode (R268). -/
def modeCode : Mode → Nat
  | .whole => 0 | .half => 1 | .quarter => 2

end Sys2Proof.Machine
end

