-- ==== Sys2Proof/Machine/Flags.lean ====
section
/-! DEFINITION. Number formats, rounding and the sticky flags (R76 to R95): every operation forms its exact value, rounds
or clamps it once, and says which of NV, DZ, OF, UF, NX it raises (R82, as bits 4 to 0). -/

namespace Sys2Proof.Machine

/-! ### Sticky flags (R82) -/

/-- Invalid operation. -/
def NV : Nat := 16
/-- Division by zero. -/
def DZ : Nat := 8
/-- Overflow. -/
def OF : Nat := 4
/-- Underflow. -/
def UF : Nat := 2
/-- Inexact. -/
def NX : Nat := 1

/-! ### Integers (R77) -/

/-- A format code names a signed format. -/
def isSigned (f : Nat) : Bool := f < 4

/-- The integer that a pattern holds in an integer format. -/
def intVal (f n : Nat) : Int := if isSigned f then sval (fmtWidth f) n else ((n % 2 ^ fmtWidth f : Nat) : Int)

/-- The least value of an integer format (R76). -/
def intMin (f : Nat) : Int := if isSigned f then -((2 ^ (fmtWidth f - 1) : Nat) : Int) else 0

/-- The greatest value of an integer format (R76). -/
def intMax (f : Nat) : Int := if isSigned f then ((2 ^ (fmtWidth f - 1) : Nat) : Int) - 1 else ((2 ^ fmtWidth f : Nat) : Int) - 1

/-- An exact integer result wrapped or clamped into the format; OF when it lies outside (R77). -/
def intDeliver (f : Nat) (sat : Bool) (i : Int) : Nat × Nat :=
  let w := fmtWidth f
  if intMin f ≤ i ∧ i ≤ intMax f then (ofInt w i, 0)
  else (ofInt w (if sat then (if i < intMin f then intMin f else intMax f) else i), OF)

/-! ### Floating point (R78 to R81) -/

/-- The parameters of a floating-point format: exponent bits, fraction bits, bias, whether it has an infinity (R78). -/
structure FFmt where
  eb   : Nat
  fb   : Nat
  bias : Nat
  inf  : Bool

/-- The format of a code of R46; any code that is no FLT format is taken as .f32. -/
def ffmt : Nat → FFmt
  | 9 => ⟨5, 10, 15, true⟩ | 10 => ⟨8, 7, 127, true⟩ | 11 => ⟨4, 3, 7, false⟩ | 12 => ⟨5, 2, 15, true⟩
  | _ => ⟨8, 23, 127, true⟩

/-- A value: a NaN, an infinity, or (−1)^neg × m × 2^e. -/
inductive FVal where
  | nan (signalling : Bool)
  | inf (neg : Bool)
  | fin (neg : Bool) (m : Nat) (e : Int)
  deriving DecidableEq, Repr

/-- The value of a pattern (R78, R79). -/
def fval (f n : Nat) : FVal :=
  let p := ffmt f
  let w := fmtWidth f
  let s := n.testBit (w - 1)
  let e := fld n (w - 2) p.fb
  let m := n % 2 ^ p.fb
  if p.inf ∧ e = 2 ^ p.eb - 1 then (if m = 0 then .inf s else .nan (!m.testBit (p.fb - 1)))
  else if !p.inf ∧ e = 15 ∧ m = 7 then .nan false
  else if e = 0 then .fin s m (1 - (p.bias : Int) - p.fb)
  else .fin s (2 ^ p.fb + m) ((e : Int) - p.bias - p.fb)

/-- The canonical NaN of a format (R79). -/
def canonNan (f : Nat) : Nat :=
  match f with
  | 9 => 0x7E00 | 10 => 0x7FC0 | 11 => 0x7F | 12 => 0x7E | _ => 0x7FC00000

/-- The pattern of an infinity, for a format that has one. -/
def infBits (f : Nat) (neg : Bool) : Nat :=
  let p := ffmt f
  (if neg then 2 ^ (fmtWidth f - 1) else 0) + (2 ^ p.eb - 1) * 2 ^ p.fb

/-- The largest finite magnitude as m × 2^e, and its pattern (R78). -/
def maxFin (f : Nat) (neg : Bool) : Nat :=
  let p := ffmt f
  (if neg then 2 ^ (fmtWidth f - 1) else 0) + (if p.inf then (2 ^ p.eb - 1) * 2 ^ p.fb - 1 else 0x7E)

/-- `m` scaled by 2^−d and rounded to an integer: RNE, RTZ, RUP, RDN by sign; and whether anything was lost (R81). -/
def roundInt (rm : Nat) (neg : Bool) (m : Nat) (d : Int) : Nat × Bool :=
  if d ≤ 0 then (m * 2 ^ (-d).toNat, false)
  else
    let k := 2 ^ d.toNat
    let n := m / k
    let r := m % k
    let up := match rm with
      | 0 => 2 * r > k || (2 * r == k && n % 2 == 1)
      | 1 => false
      | 2 => r != 0 && !neg
      | _ => r != 0 && neg
    (if up then n + 1 else n, r != 0)

/-- Rounds a finite value once into a format, with overflow by the table of R81 and the flags of R83. `sticky` says that
the exact magnitude lies strictly between m and m + 1 units. -/
def roundTo (f rm : Nat) (sat neg : Bool) (m : Nat) (e : Int) (sticky : Bool) : Nat × Nat :=
  let p := ffmt f
  let sgn := if neg then 2 ^ (fmtWidth f - 1) else 0
  let m := if sticky then 2 * m + 1 else m
  let e := if sticky then e - 1 else e
  if m = 0 then (sgn, 0)
  else
    let emax : Int := if p.inf then p.bias else 8
    let emin : Int := 1 - (p.bias : Int)
    let top : Int := (m.log2 : Int) + e
    let ovr : Nat × Nat :=
      (if sat then maxFin f neg
       else if !p.inf then canonNan f
       else match rm with
        | 0 => infBits f neg
        | 1 => maxFin f neg
        | 2 => if neg then maxFin f neg else infBits f neg
        | _ => if neg then infBits f neg else maxFin f neg, OF + NX)
    if top > emax then ovr
    else
      let qu := top - p.fb
      let qmin := emin - p.fb
      let (nu, _) := roundInt rm neg m (qu - e)
      -- the rounded magnitude exceeds the largest finite value
      let lim := if p.inf then 2 ^ (p.fb + 1) - 1 else 14
      if top = emax ∧ nu > lim then ovr
      else
        let tiny := top < emin - 1 || (top == emin - 1 && nu < 2 ^ (p.fb + 1))
        let q := max qu qmin
        let (n, lost) := roundInt rm neg m (q - e)
        (sgn + n + (q - qmin).toNat * 2 ^ p.fb, (if lost then NX else 0) + (if tiny && lost then UF else 0))

/-- Delivers a value into a format: NaNs become canonical, an infinity stays one, or into .e4m3 gives NaN or the largest
value with NV and no NX (R79, R81; assumption log, entry 113). -/
def deliver (f rm : Nat) (sat : Bool) (v : FVal) : Nat × Nat :=
  match v with
  | .nan _ => (canonNan f, 0)
  | .inf s => if (ffmt f).inf then (infBits f s, 0) else if sat then (maxFin f s, NV) else (canonNan f, NV)
  | .fin s m e => roundTo f rm sat s m e false

/-- The value is a signalling NaN. -/
def FVal.isSnan : FVal → Bool
  | .nan s => s
  | _ => false

/-- The value is a NaN. -/
def FVal.isNan : FVal → Bool
  | .nan _ => true
  | _ => false

/-- The value is a zero. -/
def FVal.isZero : FVal → Bool
  | .fin _ m _ => m == 0
  | _ => false

/-- The sign of a value. -/
def FVal.isNeg : FVal → Bool
  | .nan _ => false
  | .inf s => s
  | .fin s _ _ => s

/-- A value with its sign flipped. -/
def FVal.neg : FVal → FVal
  | .nan s => .nan s
  | .inf s => .inf !s
  | .fin s m e => .fin (!s) m e

/-- NV for a signalling NaN among the inputs (R83). -/
def snanFlag (vs : List FVal) : Nat := if vs.any (·.isSnan) then NV else 0

/-- The exact sum; an exact zero of opposite signs is +0, or −0 under RDN (R80). -/
def addV (rm : Nat) (x y : FVal) : FVal × Nat :=
  match x, y with
  | .nan _, _ | _, .nan _ => (.nan false, 0)
  | .inf s, .inf t => if s = t then (.inf s, 0) else (.nan false, NV)
  | .inf s, _ => (.inf s, 0)
  | _, .inf t => (.inf t, 0)
  | .fin s m e, .fin t n g =>
    let h := min e g
    let a : Int := (m * 2 ^ (e - h).toNat : Nat)
    let b : Int := (n * 2 ^ (g - h).toNat : Nat)
    let i := (if s then -a else a) + (if t then -b else b)
    if i = 0 then
      if m = 0 ∧ n = 0 ∧ s = t then (.fin s 0 0, 0) else (.fin (rm == 3) 0 0, 0)
    else (.fin (i < 0) i.natAbs h, 0)

/-- The exact product. -/
def mulV (x y : FVal) : FVal × Nat :=
  match x, y with
  | .nan _, _ | _, .nan _ => (.nan false, 0)
  | .inf s, y => if y.isZero then (.nan false, NV) else (.inf (s != y.isNeg), 0)
  | x, .inf t => if x.isZero then (.nan false, NV) else (.inf (t != x.isNeg), 0)
  | .fin s m e, .fin t n g => (.fin (s != t) (m * n) (e + g), 0)

/-- a × b + c, exact (R81, R83). A quiet NaN addend raises nothing of its own. -/
def fmaV (rm : Nat) (a b c : FVal) : FVal × Nat :=
  let (p, f1) := mulV a b
  let (r, f2) := addV rm p c
  (r, f1 ||| f2)

/-- Ordered comparison of two numbers that are no NaN; −0 equals +0. -/
def cmpV (x y : FVal) : Ordering :=
  match x, y with
  | .inf s, .inf t => if s = t then .eq else if s then .lt else .gt
  | .inf s, _ => if s then .lt else .gt
  | _, .inf t => if t then .gt else .lt
  | .fin s m e, .fin t n g =>
    let h := min e g
    let a : Int := (m * 2 ^ (e - h).toNat : Nat)
    let b : Int := (n * 2 ^ (g - h).toNat : Nat)
    compare (if s then -a else a) (if t then -b else b)
  | _, _ => .eq

/-- The order of minimum and maximum: −0 is below +0 (R156). -/
def below (x y : FVal) : Bool :=
  match cmpV x y with
  | .lt => true
  | .gt => false
  | .eq => x.isNeg && !y.isNeg

/-! ### Rounding to integers (R87, R95) -/

/-- A value rounded to an integer of a format and clamped; NaN gives 0 (R87). -/
def toIntFmt (g rm : Nat) (v : FVal) : Nat × Nat :=
  let w := fmtWidth g
  match v with
  | .nan _ => (0, NV)
  | .inf s => (ofInt w (if s then intMin g else intMax g), NV)
  | .fin s m e =>
    if e > 80 ∧ m ≠ 0 then (ofInt w (if s then intMin g else intMax g), NV)
    else
      let (n, lost) := roundInt rm s m (-e)
      let i : Int := if s then -(n : Int) else n
      if intMin g ≤ i ∧ i ≤ intMax g then (ofInt w i, if lost then NX else 0)
      else (ofInt w (if s then intMin g else intMax g), NV)

/-- The value of a pattern in any INT or FLT format. -/
def anyVal (f n : Nat) : FVal :=
  if isFlt f then fval f n else let i := intVal f n; .fin (i < 0) i.natAbs 0

/-- One conversion of R87. -/
def cvt (f g rm : Nat) (sat : Bool) (n : Nat) : Nat × Nat :=
  if isFlt f then
    let v := fval f n
    if isFlt g then let (r, fl) := deliver g rm sat v; (r, fl ||| snanFlag [v])
    else toIntFmt g rm v
  else if isFlt g then deliver g rm sat (anyVal f n)
  else intDeliver g sat (intVal f n)

/-! ### Block floating point (R88 to R91) -/

/-- The value of an element of a block: mantissa `m`, exponent byte `e`, width `w`; a zero block is +0 (R88). -/
def bfpVal (w e m : Nat) : FVal :=
  if e = 0 then .fin false 0 0
  else let i := sval w m; .fin (i < 0) i.natAbs ((e : Int) - 127 - ((w : Int) - 2))

/-- Floor(log2 |v|) of a finite non-zero value. -/
def flog2 : FVal → Int
  | .fin _ m e => (m.log2 : Int) + e
  | _ => 0

/-- The mantissas of finite inputs at exponent byte `e`: signed values, and whether each is inexact. -/
def bfpMants (w : Nat) (e : Nat) (ys : List FVal) : List (Int × Bool) :=
  ys.map fun y => match y with
    | .fin s m x =>
      let (n, lost) := roundInt 0 s m (-(x + ((w : Int) - 2) + (127 - (e : Int))))
      (if s then -(n : Int) else n, lost)
    | _ => (0, false)

/-- Quantises the 16 inputs of a block (R90): exponent byte, mantissas as patterns, flags by element. -/
def quantise (w : Nat) (xs : List FVal) : Nat × List Nat × List Nat :=
  let bad (v : FVal) : Bool := match v with | .fin .. => false | _ => true
  let ys := xs.map fun v => if bad v then .fin false 0 0 else v
  let mags := (ys.filter fun y => !y.isZero).map flog2
  match mags with
  | [] => (0, ys.map fun _ => 0, xs.map fun v => if bad v then NV else 0)
  | h :: t =>
    let e0 : Int := max 1 (t.foldl max h + 127)
    let lim : Int := (2 ^ (w - 1) : Nat) - 1
    let big (ms : List (Int × Bool)) : Bool := ms.any fun m => m.1 > lim
    let e1 : Int := if e0 ≤ 255 && big (bfpMants w e0.toNat ys) then e0 + 1 else e0
    let e := (min e1 255).toNat
    let ms := bfpMants w e ys
    let clamp (i : Int) : Int := max (-(lim + 1)) (min lim i)
    (e, ms.map fun m => ofInt w (clamp m.1),
      (ms.zip (ys.zip xs)).map fun (m, y, x) =>
        (if bad x then NV else 0) ||| (if m.1 ≠ clamp m.1 then OF + NX else if m.2 then NX else 0) |||
        (if m.1 = 0 ∧ !y.isZero then UF else 0))

/-! ### Matrix arithmetic (R92, R93, R95) -/

/-- A chunk of two blocks: exponent bytes, widths and mantissa patterns (R92). -/
def chunk (ea ma eb mb : Nat) (as bs : List Nat) : FVal :=
  if ea = 0 ∨ eb = 0 then .fin false 0 0
  else
    let i : Int := (as.zip bs).foldl (fun acc p => acc + sval ma p.1 * sval mb p.2) 0
    .fin (i < 0) i.natAbs ((ea : Int) + eb - 254 - ((ma : Int) - 2) - ((mb : Int) - 2))

/-- One accumulation step in .f32 with RNE; NaNs become canonical and no flag is kept (R93, R94). -/
def accStep (acc : Word) (v : FVal) : Word := .ofNat 32 (deliver 8 0 false (addV 0 (fval 8 acc.toNat) v).1).1

/-- One element of a scaled store into an INT or FLT format (R95, R201). -/
def scaleStore (fmt : Nat) (sat : Bool) (acc xs : Word) : Nat :=
  let v := (mulV (fval 8 acc.toNat) (fval 8 xs.toNat)).1
  if isFlt fmt then (deliver fmt 0 sat v).1 else (toIntFmt fmt 0 v).1

/-! ### Special functions (R162) -/

/-- The integer square root, bit by bit from bit `k` down. -/
def isqrtFrom (n : Nat) : Nat → Nat → Nat
  | 0, r => if (r + 1) * (r + 1) ≤ n then r + 1 else r
  | k + 1, r => isqrtFrom n k (if (r + 2 ^ (k + 1)) * (r + 2 ^ (k + 1)) ≤ n then r + 2 ^ (k + 1) else r)

/-- The integer square root. -/
def isqrt (n : Nat) : Nat := isqrtFrom n (n.log2 / 2 + 1) 0

/-- Bits of the fixed-point evaluations. -/
def prec : Nat := 320

/-- ln 2 in fixed point, from Σ 1/(k·2^k), low by less than 400 units. -/
def ln2Fix : Nat := (List.range 330).foldl (fun acc k => acc + 2 ^ prec / ((k + 1) * 2 ^ (k + 1))) 0

/-- e^x in fixed point for 0 ≤ x < 1 by its series; low by less than 2^20 units. -/
def expFix (x : Nat) : Nat :=
  ((List.range 80).foldl (fun (st : Nat × Nat) k => (st.1 + st.2, st.2 * x / 2 ^ prec / (k + 1))) (0, 2 ^ prec)).1

/-- ln y in fixed point for 1 ≤ y < 2, y in fixed point, as 2·atanh((y − 1)/(y + 1)). -/
def lnFix (y : Nat) : Nat :=
  let t := (y - 2 ^ prec) * 2 ^ prec / (y + 2 ^ prec)
  let t2 := t * t / 2 ^ prec
  2 * ((List.range 110).foldl (fun (st : Nat × Nat) k => (st.1 + st.2 / (2 * k + 1), st.2 * t2 / 2 ^ prec)) (0, t)).1

/-- Rounds a value known to lie between `lo` and `lo + err` units of 2^e: the result where both ends agree, and
otherwise nothing. Neither end is a result that is exact. -/
def roundBetween (f rm : Nat) (sat neg : Bool) (lo err : Nat) (e : Int) : Option (Nat × Nat) :=
  let a := roundTo f rm sat neg lo e true
  let b := roundTo f rm sat neg (lo + err) e true
  if a = b then some a else none

/-- The five special functions: 0 1/a, 1 1/√a, 2 2^a, 3 log2 a, 4 tanh a (R162). The answer is none only where the
fixed-point evaluation cannot separate two results. -/
def special (fn f rm : Nat) (sat : Bool) (n : Nat) : Option (Nat × Nat) :=
  let v := fval f n
  let d (x : FVal) (fl : Nat) : Option (Nat × Nat) := let (r, g) := deliver f rm sat x; some (r, g ||| fl)
  let one : FVal := .fin false 1 0
  match fn, v with
  | _, .nan s => some (canonNan f, if s then NV else 0)
  | 0, .inf s => d (.fin s 0 0) 0
  | 0, .fin s 0 _ => d (.inf s) DZ
  | 0, .fin s m e =>
    let k := m.log2 + 80
    let q := 2 ^ k / m
    some (roundTo f rm sat s q (-(k : Int) - e) (q * m != 2 ^ k))
  | 1, .fin s 0 _ => d (.inf s) DZ
  | 1, .inf false => d (.fin false 0 0) 0
  | 1, .inf true => d (.nan false) NV
  | 1, .fin true _ _ => d (.nan false) NV
  | 1, .fin false m e =>
    let m' := if e % 2 = 0 then m else 2 * m
    let e' := if e % 2 = 0 then e else e - 1
    let k := 100 + m'.log2
    let r := isqrt (2 ^ (2 * k) / m')
    some (roundTo f rm sat false r (-(k : Int) - e' / 2) (r * r * m' != 2 ^ (2 * k)))
  | 2, .inf s => if s then d (.fin false 0 0) 0 else d (.inf false) 0
  | 2, .fin s m e =>
    if m = 0 then d one 0
    else if (m.log2 : Int) + e ≥ 12 then some (roundTo f rm sat false 1 (if s then -5000 else 5000) false)
    else if (m.log2 : Int) + e < -200 then
      if s then some (roundTo f rm sat false (2 ^ 100 - 1) (-100) true) else some (roundTo f rm sat false (2 ^ 100) (-100) true)
    else
      let x : Int := if e ≥ 0 then (m * 2 ^ e.toNat * 2 ^ prec : Nat) else (m * 2 ^ prec / 2 ^ (-e).toNat : Nat)
      let x := if s then -x else x
      let k := x / (2 ^ prec : Nat)
      let fr := (x % (2 ^ prec : Nat)).toNat
      if fr = 0 then some (roundTo f rm sat false 1 k false)
      else roundBetween f rm sat false (expFix (fr * ln2Fix / 2 ^ prec)) (2 ^ 24) (k - prec)
  | 3, .inf false => d (.inf false) 0
  | 3, .inf true => d (.nan false) NV
  | 3, .fin s m e =>
    if m = 0 then d (.inf true) DZ
    else if s then d (.nan false) NV
    else
      let top : Int := (m.log2 : Int) + e
      if m = 2 ^ m.log2 then (if top = 0 then d (.fin false 0 0) 0 else some (roundTo f rm sat (top < 0) top.natAbs 0 false))
      else
        let y := m * 2 ^ (prec - m.log2)
        let l := lnFix y * 2 ^ prec / ln2Fix
        let x : Int := top * (2 ^ prec : Nat) + l
        if x ≥ 0 then roundBetween f rm sat false (x.toNat - 2 ^ 24) (2 ^ 25) (-(prec : Int))
        else roundBetween f rm sat true ((-x).toNat - 2 ^ 24) (2 ^ 25) (-(prec : Int))
  | 4, .inf s => d (.fin s 1 0) 0
  | 4, .fin s m e =>
    if m = 0 then d (.fin s 0 0) 0
    else if (m.log2 : Int) + e ≥ 6 then some (roundTo f rm sat s (2 ^ 80 - 1) (-80) true)
    else if (m.log2 : Int) + e < -50 then some (roundTo f rm sat s (m * 2 ^ 64 - 1) (e - 64) true)
    else
      let x := if e ≥ 0 then 2 * m * 2 ^ e.toNat * 2 ^ prec else 2 * m * 2 ^ prec / 2 ^ (-e).toNat
      let k := x / ln2Fix
      let u := expFix (x % ln2Fix) * 2 ^ k
      let q := (u - 2 ^ prec) * 2 ^ prec / (u + 2 ^ prec)
      roundBetween f rm sat s (q - 2 ^ 100) (2 ^ 101) (-(prec : Int))
  | _, _ => some (canonNan f, 0)

end Sys2Proof.Machine
end

