-- ==== Sys2Proof/Machine/State.lean ====
section
/-! DEFINITION. Everything the spec gives the machine, as plain data; the reasons a step can stop; the state after
reset. INVENTORY.md lists every field with its rule. Registers that the encoding numbers stay bit vectors; counts,
numbers of units and cycle stamps are natural numbers. -/

namespace Sys2Proof.Machine

/-- Why the machine stops. -/
inductive Fault where
  /-- Raised by `step` for every move but a start while package power is absent (R374). Safe: nothing runs there. -/
  | unpowered
  deriving DecidableEq, Repr

/-- Why the model gives no next state. -/
inductive Refusal where
  /-- Raised by an arm of `exec` whose instruction has no meaning yet. Safe: it claims nothing. -/
  | notModelled (mnemonic : String)
  deriving DecidableEq, Repr

/-! ### A bank's parts -/

/-- Where a result lands (R69): numbers within the bank. `cbrel` is a buffer release by the L or the W slot (R141);
`sys` is a system-register write (R351). -/
inductive Loc where
  | s (n : Nat) | a (n : Nat) | f (n : Nat) | v (cl n : Nat) | vfl (cl : Nat) | q (col n : Nat) | xs (col n : Nat)
  | spill (col dw : Nat) | vcw (n : Nat) | gm (n : Nat) | cbrel (col buf : Nat) (w : Bool) | sys (num : Nat)
  deriving DecidableEq, Repr

/-- A result in flight (R68 to R72): its value and the lanes it still writes in the register (one bit each, 1 for a
register without lanes; for VFL, [79:0] the bits written and [95:80] the lanes that take part), the same for a checkpoint
copy, the issue that made it, the cycle it lands in, whether it accumulates (sticky flags), carries poison or belongs to a
region. -/
structure Pend where
  loc    : Loc
  val    : Nat
  ckVal  : Nat
  lanes  : Nat
  ckLanes : Nat
  iss    : Nat
  due    : Nat
  orIn   : Bool
  poison : Bool
  reg    : Bool
  deriving DecidableEq, Repr

/-- A scratchpad store on its way into the share (R69, R73): the cycle from which every byte of it is visible, the
syllable's own number, and the addresses that it writes no more, because the byte has been performed or a later write
was performed there. -/
structure Store where
  addr  : Nat
  bytes : List Byte
  iss   : Nat
  due   : Nat
  poison : Bool
  id    : Nat
  gone  : List Nat
  deriving DecidableEq, Repr

/-- What a landing entry delivers (R135, R217, R219): size in bytes, whether it sign-extends, and where it reads. -/
structure Far where
  id     : Nat
  /-- The column that holds the entry. -/
  col    : Nat
  dest   : Loc
  size   : Nat
  signed : Bool
  /-- The core read, or none for a global access. -/
  core   : Option Nat
  addr   : Nat
  iss    : Nat
  due    : Nat
  /-- The data, once it has been read or performed. -/
  data   : Option Nat
  /-- The data has reached the landing buffer (R136). -/
  here   : Bool
  poison : Bool
  /-- The lanes that no later-issued write took (R72), in the destination and in its checkpoint copy. -/
  lanes  : Nat
  ckLanes : Nat
  reg    : Bool
  deriving DecidableEq, Repr

/-- A stage-2 leaf for one 64 KiB page (R321, R323, R341). -/
structure Leaf2 where
  frame : Nat
  rp    : Bool
  wp    : Bool
  conf  : Bool
  em    : BitVec 6
  dt    : Bool
  d     : Bool
  bkt   : Nat
  grant : Nat
  deriving DecidableEq, Repr

/-- A composed leaf (R224, R324): the context and its page, the context-physical page, the frame, the permissions, engines
and attributes of both stages, and the stage-1 entry itself. -/
structure Tlb where
  ctx   : Nat
  page  : Nat
  cpage : Nat
  frame : Nat
  rp    : Bool
  wp    : Bool
  em    : BitVec 6
  ver   : Bool
  conf  : Bool
  bkt   : Nat
  ent   : Nat
  deriving DecidableEq, Repr

/-- An entry of a TLB (R18, R225, R325): its translation, the generations it is tagged with, and the TLB that holds it: that
of a core by the core's number, that of a die by 1024 + the die's. -/
structure TlbEnt where
  leaf  : Tlb
  g1    : BitVec 32
  g2    : BitVec 32
  place : Nat
  deriving DecidableEq, Repr

/-- An entry of a die's nested TLB (R18, R325): a context's stage-2 leaf of a page, tagged with the generation. -/
structure Nest where
  die   : Nat
  ctx   : Nat
  cpage : Nat
  leaf  : Leaf2
  g2    : BitVec 32
  deriving DecidableEq, Repr

/-- The kinds of copy-queue packets (R212 to R220, R195). -/
inductive PktKind where
  | cpyIn | cpyOut | cpyg | cpyb | fill
  | cred (rop fmt : Nat)
  | gld (size : Nat)
  | gst (size : Nat)
  | atomic (op : Nat) (size : Nat) (signed : Bool)
  | csigCounter | csigAddress
  | mmas (xop : Nat)
  deriving DecidableEq, Repr

/-- An access of a packet that a memory port has accepted and that has not been performed at its home (R377): its leaf,
address and bytes, for a CRED the operation and format, what the line check says of it (R421), the point that it has reached
(1 the core's memory port, 2 the die's egress, 3 the package's), and the row and byte offset of its granule. -/
structure Posted where
  leaf   : Tlb
  va     : Nat
  bytes  : List Byte
  cred   : Option (Nat × Nat)
  poison : Bool
  whole  : Bool
  point  : Nat
  row    : Nat
  pos    : Nat
  deriving DecidableEq, Repr

/-- A packet of a copy queue (R206). -/
structure Pkt where
  kind    : PktKind
  /-- The packet's own number. -/
  id      : Nat
  p0      : DWord
  p1      : DWord
  p2      : DWord
  p3      : DWord
  ce      : Bool
  co      : Nat
  rel     : Bool
  acq     : Bool
  /-- The buffer of a CPYB, and the slot it has claimed. -/
  buf     : Nat
  slot    : Option Nat
  /-- Base, size and direction of the buffer when the slot was claimed. -/
  side0   : Option (Nat × Nat × Bool)
  /-- The buffer's counters no longer move for the packet: its outbound slot has been drained (R139), or the buffer was
  disabled after the claim (R142). -/
  orphan  : Bool
  started : Bool
  /-- Row and byte offset of the next granule. -/
  row     : Nat
  pos     : Nat
  /-- Every access has been performed. -/
  done    : Bool
  /-- Steps that the packet's accesses still make on their way to their home, what has been accepted and not performed, and
  whether all of the packet has been (R377). -/
  lag     : Nat
  posted  : List Posted
  sent    : Bool
  /-- The landing entry of a GLD or returning atomic. -/
  far     : Option Nat
  /-- The snapshot the bank held when the packet issued (R399). -/
  snap    : Option Nat
  iss     : Nat
  cyc     : Nat
  reg     : Bool
  deriving DecidableEq, Repr

/-- A copy queue of one column and bank (R206): its packets, oldest first, whether it is suspended on a fault (R228),
whether that fault has been reported, and its address. -/
structure Queue where
  pkts : List Pkt
  susp : Bool
  told : Bool
  fa   : DWord
  deriving DecidableEq, Repr

/-- A queue with no packets. -/
def Queue.empty : Queue := ⟨[], false, false, 0⟩

/-- A suspended or running MMAS stream (R195, R196): its column, destination, panels, rows and X operation. -/
structure Stream where
  col   : Nat
  t     : Nat
  qd    : Bool
  ab    : Nat
  fa    : Nat
  fb    : Nat
  nc    : Nat
  z     : Bool
  va    : DWord
  str   : DWord
  row   : Nat
  susp  : Bool
  xop   : Nat
  snap  : Option Nat
  /-- A poisoned operand has been read (R205). -/
  bad   : Bool
  reg   : Bool
  deriving DecidableEq, Repr

/-- Hold state of a slot (R50). -/
structure Hold where
  syl : Option Syl
  act : Bool
  j   : Nat
  deriving DecidableEq, Repr

/-- The blocking forms (R69) as they wait. -/
inductive FormKind where
  | tkwait (cell : Nat) | tqput (q : Nat) | tqget (q : Nat) | tqrel (q : Nat) | fence (cls : Nat)
  | post (pri : Nat) | launch (pri : Nat) | cmt | txc | pwracq | mcld
  | cwait (co : Nat) (sub : Bool) | drain (sc : Nat) | tend | eret | s1r
  | ctx (i : Instr)
  deriving DecidableEq, Repr

/-- A blocked form with its operands (R69, R343): the waiting-order stamp and, for a form that another agent performs,
its finished result. -/
structure Form where
  kind  : FormKind
  col   : Nat
  slot  : Nat
  rd    : Nat
  ops   : List DWord
  since : Nat
  iss   : Nat
  cyc   : Nat
  /-- How far the form has gone: 0 waiting, 1 past the point where it can be abandoned. -/
  phase : Nat
  deriving DecidableEq, Repr

/-- A header barrier in progress (R237): its line, and the count reached once the arrival is counted. -/
structure Barr where
  line    : Nat
  mask    : DWord
  arrived : Option (BitVec 32)
  deriving DecidableEq, Repr

/-- A contribution to a column's reduction tree (R174 to R177): the cluster it comes from (0 Va, 1 Vb), the accumulate it
is paired with (its latch, mode and operation: 0 add, 1 max, 2 min), its elements by format and bits, its issue, the cycle
it executed in and the cycle of acceptance; the latch changes 6 cycles later. -/
structure Contrib where
  col  : Nat
  half : Nat
  ql   : Option Nat
  i64  : Bool
  op   : Nat
  elems : List (Nat × Nat)
  iss  : Nat
  cyc  : Nat
  acc  : Nat
  /-- A later write of the latch discards it (R177), and from the checkpoint's latch. -/
  dead   : Bool
  ckDead : Bool
  reg  : Bool
  deriving DecidableEq, Repr

/-- A held store of a region (R286). -/
structure HStore where
  col   : Nat
  slot  : Nat
  spill : Bool
  addr  : Nat
  bytes : List Byte
  iss   : Nat
  cyc   : Nat
  lat   : Nat
  /-- The bytes are poison. -/
  bad   : Bool
  /-- The syllable's own number. -/
  id    : Nat
  deriving DecidableEq, Repr

/-- The registers a region's checkpoint keeps (R284). -/
structure Ckpt where
  sr : Smap DWord
  ar : Smap Word
  fl : BitVec 16
  lc : Smap DWord
  li : Smap DWord
  ls : Smap (BitVec 56)
  le : Smap (BitVec 56)
  depth : Nat
  q  : Smap DWord
  xs : Smap Word
  vfl : Smap (BitVec 80)
  deriving DecidableEq, Repr

/-- What an abort records (R292 to R295). -/
structure Abort where
  cause : Nat
  code  : Nat
  slt   : Nat
  col   : Nat
  gix   : Nat
  deriving DecidableEq, Repr

/-- An open region (R283, R284): where it opened, its recovery label, checkpoint, held work, guards, the registers and
tiles it has shadowed with their old values, and the aborts waiting for the bundle's end or a boundary. -/
structure Region where
  txn   : Bool
  /-- RGST.TXN as the last abort left it (R295). -/
  was   : Bool
  start : BitVec 56
  label : BitVec 56
  ck    : Ckpt
  held  : List HStore
  pkts  : List (Nat × Nat × Pkt)
  /-- Guards by 64 × column + entry: first byte and length. -/
  guards : Smap (Nat × Nat)
  vsh   : Smap VReg
  tsh   : Smap (List Word × Bool)
  /-- Registers that were poison at the checkpoint. -/
  bads  : List Loc
  /-- Scratchpad bytes that copy reads of the region in flight have overwritten: packet, address and old value (R297). -/
  undo  : List (Nat × Nat × Byte)
  /-- A GCLR has issued: the guards are freed at the end of the issue (R290). -/
  clr   : Bool
  sync  : List Abort
  async : List Abort
  iss   : Nat
  deriving DecidableEq, Repr

/-- The kinds of trap of R352. -/
inductive TrapKind where
  | before | after | wait
  deriving DecidableEq, Repr

/-- A trap cause as it is raised (R352, R355): its number, sub-cause, place, address and detail. -/
structure Cause where
  num  : Nat
  sub  : Nat
  slt  : Nat
  col  : Nat
  ead  : DWord
  edt  : DWord
  rfl  : Bool
  kind : TrapKind
  /-- A translation fault with cause STAGE2: the search starts at the parent (R332). -/
  stage2 : Bool
  /-- The copy queue that faulted, by 4 × column + queue (R228). -/
  queue : Option Nat
  deriving DecidableEq, Repr

/-- Why a bank does not issue, beside its own waits. -/
inductive Halted where
  /-- Waits for the reply to its record (R332). -/
  | reply (c : Cause)
  /-- Stopped on a suspended stream (R196) or a GLD fault (R229), whose report is on its way. -/
  | fault (c : Cause)
  /-- Its context has been stopped by a refusal (R336): it waits to be saved. -/
  | gone
  deriving DecidableEq, Repr

/-- A bundle that waits while a trap handler runs (R252, R278, R356): what of the bank belongs to its issue. -/
structure Wait where
  pc    : BitVec 56
  npc   : BitVec 56
  len   : Nat
  fall  : BitVec 56
  taken : Bool
  safe  : Bool
  yld   : Bool
  live  : Nat
  forms : List Form
  barr  : Option Barr
  waitSyl : List (Nat × Syl)
  bun   : List (Nat × Syl)
  wx    : BitVec 32
  deriving DecidableEq, Repr

/-- What a record's blocked form stands for (R252, R278, R343): the bundle that waits, the one put aside when the trap now
handled was taken, and the hold state put aside with it. -/
structure Resting where
  now   : Option Wait
  wait  : Option Wait
  aside : Smap Hold
  deriving DecidableEq, Repr

/-- What a field of a record stands for whose bytes R343 does not lay out. -/
inductive Part where
  | rest (r : Resting)
  | pkt (p : Pkt)
  | streams (xs : List Stream)
  deriving DecidableEq, Repr

/-- A half of a bank's loop buffer that is not in issue (R59): the bundle from which its segment was expanded, transfer targets
that are known to be bundles of it, and its lines. -/
structure Half where
  start : BitVec 56
  known : List (BitVec 56)
  lines : List (BitVec 56 × List Byte)
  deriving DecidableEq, Repr

/-- A context bank (R13, R14, R343): the state that a binding gives a sequencer. -/
structure Bank where
  /-- 2 × the package sequencer number (R12) + the slot. -/
  key   : Nat
  bound : Bool
  /-- 2048 × (the launch number + 1) + the key of its first binding: the same wherever the bank is saved and bound again. -/
  uid   : Nat
  ctx   : Nat
  lnch  : Nat
  kern  : Option Kern
  pri   : Nat
  mode  : Mode
  slotB : Bool
  core  : Nat
  /-- The lowest physical column. -/
  col   : Nat
  /-- Rank and spread over the sequencers of the die, then over the dies (R259). -/
  cIdx  : Nat
  cNum  : Nat
  dIdx  : Nat
  dNum  : Nat
  /-- Base of the launch's ticket cells on this die (R243). -/
  tkBase : Nat
  sr    : Smap DWord
  ar    : Smap Word
  fl    : BitVec 16
  gm    : Smap DWord
  bcn   : Smap (BitVec 32)
  pc    : BitVec 56
  npc   : BitVec 56
  /-- The bundle from which the half in issue was expanded, the transfer targets that are known to be bundles of it, and the
  address at which issue stands or to which flow within the half leads (R57, R59). -/
  seg   : BitVec 56
  known : List (BitVec 56)
  flowed : BitVec 56
  /-- An address whose bytes could not be fetched when flow led there: a trailer found there is passed, and with `true` a
  bundle too (R57, R114, R117). -/
  owed  : Option (BitVec 56 × Bool)
  lc    : Smap DWord
  li    : Smap DWord
  ls    : Smap (BitVec 56)
  le    : Smap (BitVec 56)
  depth : Nat
  rgst  : DWord
  vsnp  : DWord
  trow  : DWord
  vcw   : Smap VcwBits
  /-- Vector registers by 2048 × cluster + number (R147). -/
  vr    : Smap VReg
  vfl   : Smap (BitVec 80)
  /-- q by 4 × column + number; xs by 8 ×; spill by 2048 ×; buffers by 8 ×; cn by 16 ×; KFR and queues by 4 ×. -/
  q     : Smap DWord
  xs    : Smap Word
  spill : Smap DWord
  cbc   : Smap DWord
  cbs   : Smap DWord
  cn    : Smap DWord
  kfr   : Smap DWord
  queues : Smap Queue
  /-- Slots of circular buffers whose packet has finished before an earlier claim has: buffer and slot (R139). -/
  filled : List (Nat × Nat)
  /-- Streams by the number of their X operation; the oldest of a column runs. -/
  streams : Smap Stream
  /-- Hold state by 8 × column + slot, and the set put aside while a trap handler runs (R356). -/
  holds : Smap Hold
  aside : Smap Hold
  /-- Pending syllables of a wait bundle, as 8 × column + slot with the syllable (R52). -/
  waitSyl : List (Nat × Syl)
  /-- The present syllables of the bundle in issue, likewise; its repetitions issue them again (R50). -/
  bun   : List (Nat × Syl)
  wx    : BitVec 32
  forms : List Form
  /-- CTXRDs that have not retired: issue, and the cycle of retirement (R316). -/
  ctxRds : List (Nat × Nat)
  barr  : Option Barr
  /-- The bundle that waited when the trap now handled was taken. -/
  wait  : Option Wait
  /-- The bundle has issued and waits for its last effects before it retires; SAFE and YLD of its header. -/
  open_ : Bool
  safe  : Bool
  yld   : Bool
  live  : Nat
  /-- The bundle took a transfer (R108). -/
  taken : Bool
  /-- Length in bytes of the bundle in issue and the address that follows it (R57, R110). -/
  len   : Nat
  fall  : BitVec 56
  rep   : Nat
  iss   : Nat
  pend  : List Pend
  stores : List Store
  fars  : List Far
  contribs : List Contrib
  poison : List Loc
  region : Option Region
  tbr   : DWord
  epc   : DWord
  enpc  : DWord
  esta  : DWord
  ead   : DWord
  edt   : DWord
  eact  : DWord
  /-- The queue of the fault that the handler entered last handles (R228). -/
  trapQ : Option Nat
  pgr   : DWord
  opReq : Option (BitVec 3)
  wdc   : Nat
  sinceSafe : Nat
  kindA : List Cause
  halted : Option Halted
  hint  : Option (BitVec 56)
  /-- Fetch lines of the half in issue that are expanded: address and bytes (R59, R55). -/
  lines : List (BitVec 56 × List Byte)
  /-- The other half of the loop buffer (R59). -/
  other : Option Half
  retiredSwitch : Bool
  /-- Okra has asked for the bank's pre-emption at its next safe point (R337, R339). -/
  preempt : Bool
  /-- One more than the cycle of the bank's last issue; 0 before the first (R50: one issue a cycle). -/
  issuedCyc : Nat
  deriving DecidableEq, Repr

/-! ### A core's parts -/

/-- What one bank slot of a core owns (R121): PARTW, its scratchpad share, tiles, busy bits, and poisoned lines (by
128-byte line) and tiles. -/
structure SlotMem where
  /-- The launch whose binding on the die holds the slot (R274). -/
  owner : Option Nat
  partw : BitVec 32
  share : Memory
  tiles : Smap (List Word)
  busy  : List Nat
  poisonTiles : List Nat
  poisonLines : List Nat
  deriving DecidableEq, Repr

/-- An X operation issued and not yet released (R189 to R191): the syllable with its stepped tile, the register values it
read at issue, its release cycle once it has started, and the bytes of its operands under stores that were in flight when
it issued, as it reads them (R193). -/
structure XOp where
  id    : Nat
  bank  : Nat
  slotB : Bool
  col   : Nat
  ins   : Instr
  /-- Address operands and scale registers read at issue. -/
  aa    : Nat
  ab    : Nat
  xs    : List Word
  start : Option Nat
  /-- The cycle of release, once it is known. -/
  due   : Option Nat
  iss   : Nat
  cyc   : Nat
  reg   : Bool
  /-- A suspended stream has released its locks (R196). -/
  loose : Bool
  fix   : Smap Byte
  deriving DecidableEq, Repr

/-- A core. -/
structure Core where
  a     : SlotMem
  b     : SlotMem
  fgB   : Bool
  xops  : List XOp
  xser  : Nat
  cyc   : Nat
  frozen : Bool
  cur   : Nat
  tgt   : Nat
  settling : Bool
  trip  : Bool
  ydl   : BitVec 32
  /-- The cycle at which a service handler was requested. -/
  handler : Option Nat
  /-- The command processor has asked for a bank switch (R274). -/
  switchReq : Bool
  /-- Fairness counts by column (R276). -/
  fair  : Smap Nat
  /-- Slots occupied by the foreground issues of this cycle, as 8 × physical column + slot (R275). -/
  occ   : List Nat
  deriving DecidableEq, Repr

/-! ### The package's parts -/

/-- A context's states (R311). -/
inductive CtxSt where
  | new | run | stopping | stopped | dead
  deriving DecidableEq, Repr

/-- A context (R310, R323, R325, R328, R331, R347). -/
structure Ctx where
  st     : CtxSt
  depth  : Nat
  parent : Nat
  mask   : DWord
  s1r    : DWord
  /-- The root of stage 1 before a change that is still in progress (R323). -/
  s1rOld : Option DWord
  trr    : DWord
  trh    : BitVec 32
  trt    : BitVec 32
  g1     : BitVec 32
  g2     : BitVec 32
  share  : DWord
  bucket : DWord
  power  : DWord
  bid    : Nat
  rseq   : BitVec 32
  s2     : Smap Leaf2
  /-- Next handle and next TID. -/
  hnd    : Nat
  tid    : Nat
  /-- Nanosecond at which a CTXSTOP began (R364). -/
  stopAt : Nat
  deriving DecidableEq, Repr

/-- What a grant gives (R320 to R322). -/
inductive Res where
  | cores (set : BitVec 128) (excl : Bool)
  | mem (base rbase npg : Nat) (rp wp conf : Bool) (em : BitVec 6) (dt : Bool)
  | queues (kind first count : Nat)
  deriving DecidableEq, Repr

/-- A grant record (R319); `src` is none when the giver is the root by its own holding. -/
structure Grant where
  giver : Nat
  recv  : Nat
  src   : Option Nat
  res   : Res
  deriving DecidableEq, Repr

/-- A trap record on its way, or written and awaiting its reply (R332 to R336). -/
structure Rec where
  tid   : Nat
  /-- The context it is to be written to. -/
  holder : Nat
  cause : Cause
  ctx   : Nat
  bank  : Nat
  uid   : Nat
  pc    : DWord
  g1    : BitVec 32
  g2    : BitVec 32
  written : Bool
  /-- A bank waits for the reply. -/
  waits : Bool
  deriving DecidableEq, Repr

/-- A loaded object (R408 to R411). -/
structure Obj where
  ctx     : Nat
  kernels : List Kern
  /-- The symbols that it exports, and the objects whose symbols its references have been resolved to, by `seq`. -/
  defs    : List Symbol
  uses    : List Nat
  /-- The ranges of virtual addresses at which its code and its global data stand: first byte and length. -/
  spans   : List (Nat × Nat)
  /-- UNLOAD was accepted and completion waits; the completion address. -/
  unload  : Option (BitVec 56)
  live    : Bool
  /-- Place in the order of loading: R410 resolves to the first-loaded weak definition. -/
  seq     : Nat
  deriving DecidableEq, Repr

/-- A graph (R277, R412): generations of image handles, the newest last. -/
structure Graph where
  ctx  : Nat
  gens : List (List Nat)
  conc : Bool
  deriving DecidableEq, Repr

/-- A launch in a launch queue or live (R255, R266). -/
structure Launch where
  id    : Nat
  ctx   : Nat
  hnd   : Nat
  pri   : Nat
  args  : List DWord
  compl : BitVec 56
  stamp : Nat
  /-- For a graph: the graph's key, and the handles of the running generation from the current one on. -/
  graph : Option (Nat × List Nat)
  /-- Some image of it has been bound. -/
  bound : Bool
  /-- The banks that have not yet retired TEND, by uid. -/
  banks : List Nat
  /-- Ticket claim: die, base and count. -/
  claims : List (Nat × Nat × Nat)
  deriving DecidableEq, Repr

/-- A continuation record (R261). -/
structure Task where
  ctx   : Nat
  hnd   : Nat
  pri   : Nat
  args  : List DWord
  stamp : Nat
  deriving DecidableEq, Repr

/-- A token queue (R246): its register's EN and DEPTH, tokens oldest first, and OUT. -/
structure TokQ where
  en    : Bool
  depth : Nat
  toks  : List DWord
  out   : Nat
  deriving DecidableEq, Repr

/-- An update of a ticket cell sent and not performed (R244, R245): the bank, the cell, whether it sets or adds, the value
and the issue. -/
structure Tick where
  bank : Nat
  cell : Nat
  set  : Bool
  val  : BitVec 32
  iss  : Nat
  deriving DecidableEq, Repr

/-- The versions of a 128-byte line (R300): the newest timestamp, and the older versions, newest first, each with its bytes and
whether they are poison (R422). -/
structure Vers where
  ts  : Nat
  old : List (Nat × List Byte × Bool)
  deriving DecidableEq, Repr

/-- An entry of the snapshot table (R302, R399): its owner, begin timestamp, and whether SNAPE has released it. -/
structure Snap where
  bank : Nat
  ctx  : Nat
  ts   : Nat
  ended : Bool
  deriving DecidableEq, Repr

/-- An entry of the shoot-down queue (R325, R413). -/
structure Shoot where
  stage : Nat
  ctx   : Nat
  base  : Nat
  npg   : Nat
  /-- A change of the other stage of the context was pending when this one was posted, or was posted since (R327). -/
  lap   : Bool
  /-- Its slot of the ring in memory, and the bank whose form waits for it, by uid. -/
  slot  : Option Nat
  bank  : Option Nat
  deriving DecidableEq, Repr

/-- A microcode store entry (R359). -/
structure Micro where
  bound : Nat
  use   : BitVec 8
  fbit  : Nat
  body  : List Byte
  deriving DecidableEq, Repr

/-- The states of a TDI (R402). -/
inductive TdiSt where
  | unlocked | locked | run | error
  deriving DecidableEq, Repr

/-- An answer of the device on its host link (R401, R422): which request, whether it failed or is poisoned, its bytes. -/
structure HostMsg where
  tag    : Nat
  abort  : Bool
  poison : Bool
  data   : List Byte
  deriving DecidableEq, Repr

/-- What a start finds in the board flash and on the package (R418, R419). -/
structure Boot where
  /-- The configuration blob of 8,752 bytes, the first byte lowest. -/
  blob  : BitVec 70016
  /-- The modulus of the configuration key that comes with it. -/
  cfgKey : BitVec 4096
  /-- The steps from 3 to 6 that would fail, by their FAIL codes. -/
  fails : List Nat
  /-- The command processor's firmware with the locked store, the modulus of the firmware key (R359) and the microcode images
  loaded during the start (R420). -/
  store : List Byte
  fwKey : BitVec 4096
  ucode : List (List Byte)
  deriving DecidableEq, Repr

/-- A field of `n` bytes of the blob, at an offset (R418). -/
def Boot.field (b : Boot) (o n : Nat) : Nat := b.blob.toNat / 256 ^ o % 256 ^ n

/-- The core-enable map: 18 bits for each compute die (R9, R418). -/
def Boot.enable (b : Boot) (die : Nat) : BitVec 18 := .ofNat 18 (b.field 16 24 / 2 ^ (18 * die))

/-- The image-signing moduli (R418). -/
def Boot.keys (b : Boot) : List (BitVec 4096) :=
  ((List.range 4).map fun i => BitVec.ofNat 4096 (b.field (6192 + 512 * i) 512)).filter (· != 0)

/-- The blob enables 16 cores on every compute die (R9). -/
def Boot.mapOk (b : Boot) : Bool :=
  (List.range 8).all fun d => ((List.range 18).filter fun i => (b.enable d).getLsbD i).length == 16

/-- The bytes of a number, the least significant first. -/
def Boot.bytes (n v : Nat) : List Byte := (List.range n).map fun i => .ofNat 8 (v / 256 ^ i)

/-- The boot ROM accepts the blob: its layout, and its signature under a key whose hash the ROM holds (R418). -/
def Boot.blobOk (b : Boot) : Bool :=
  b.field 0 4 == 0x424C5A44 && b.field 44 4 == 0 && Config.sha512 (Boot.bytes 512 b.cfgKey.toNat) == Config.romHash &&
    Config.signatureOk [b.cfgKey] (Boot.bytes 8752 b.blob.toNat)

/-- The FAIL code of the first step of a start that fails, or 0: a warm start skips steps 4 and 5 (R9, R415, R419). -/
def Boot.failed (b : Boot) (warm : Bool) : Nat :=
  if !b.blobOk then 1
  else if !b.mapOk then 2
  else ([3, 4, 5, 6].find? fun i => b.fails.contains i && !(warm && (i == 4 || i == 5))).getD 0

/-- A measurement register extended by a component (R420). -/
def extendMr (mr : BitVec 512) (bs : List Byte) : BitVec 512 :=
  Config.sha512 (Boot.bytes 64 mr.toNat ++ Boot.bytes 64 (Config.sha512 bs).toNat)

/-- Measurement register `n` as a start leaves it (R420). -/
def Boot.mr (b : Boot) : Nat → BitVec 512
  | 0 => extendMr 0 (Boot.bytes 8752 b.blob.toNat)
  | 1 => extendMr 0 b.store
  | 2 => extendMr 0 (Boot.bytes 512 b.fwKey.toNat)
  | 3 => b.ucode.foldl extendMr 0
  | _ => 0

/-- The blob of a package with no start behind it: it enables the first 16 cores of each die, and package 0 is alone. -/
def blobReset : BitVec 70016 :=
  .ofNat 70016 (0x424C5A44 + 256 ^ 16 * (((List.range 8).map fun d => 0xFFFF * 2 ^ (18 * d)).foldl (· + ·) 0))

/-- A user-mode queue (R403). -/
structure Uq where
  d0   : DWord
  ridx : BitVec 32
  widx : BitVec 32
  /-- The priority of a LAUNCH packet that waits for room in its launch queue, and when it began (R255, R406). -/
  since : Option (Nat × Nat)
  deriving DecidableEq, Repr

/-- How far the checks of the syllable being executed have gone: it stands alone; its issue's causes are being collected;
its issue's checks have been made. -/
inductive Phase where
  | alone | collect | commit
  deriving DecidableEq, Repr

/-- Latch of the issue in progress: where the syllable being executed stands, its stepping number and vector slide, and
the causes that the issue's checks have found. -/
structure Cur where
  col     : Nat
  slot    : Nat
  j       : Nat
  slide   : Nat
  phase   : Phase
  found   : List Cause
  deriving DecidableEq, Repr

/-- The machine. -/
structure State where
  /-- The bank in focus; `banks` holds the others by key. -/
  b      : Bank
  banks  : Smap Bank
  /-- The four dispatch sequencers, which run the command processor's firmware (R20). -/
  firm   : List Bank
  cores  : Smap Core
  mem    : Memory
  /-- Memory of other packages and of the host, by system-physical address, as this package last saw it. -/
  remote : Memory
  /-- Poisoned lines of memory, by 128-byte line. -/
  poison : List Nat
  /-- The commit counter (R22, R301). -/
  vctr   : BitVec 56
  /-- The snapshot table (R302). -/
  snaps  : Smap Snap
  vers   : Smap Vers
  /-- Locked lines: the committing bank, and tc once drawn (R308). -/
  locks  : Smap (Nat × Option Nat)
  ctxs   : Smap Ctx
  grants : Smap Grant
  /-- The TLBs of the cores and dies, and the nested TLBs, oldest entry first (R18). -/
  tlb    : List TlbEnt
  nests  : List Nest
  shoots : List Shoot
  recs   : List Rec
  /-- Ticket cells by 256 × die + cell, and updates sent and not performed. -/
  cells  : Smap (BitVec 32)
  tickQ  : List Tick
  tokqs  : Smap TokQ
  /-- Task queues by 8 × die + priority; launch queues by priority. -/
  taskqs : Smap (List Task)
  launchqs : Smap (List Launch)
  live   : List Launch
  saved  : List (Bank × SlotMem)
  /-- What the fields of save records stand for that R343 does not lay out, by the number stored. -/
  parts  : List (Nat × Part)
  objs   : Smap Obj
  graphs : Smap Graph
  uqs    : Smap Uq
  /-- Holders of queues, where it is not the root: token queues by number, user-mode queues by 65536 + number (R322). -/
  qOwner : Smap Nat
  micro  : Smap Micro
  /-- Entries that a waiting MCLD rewrites, with the new contents, by bank (R360). -/
  rewrites : Smap (Nat × Micro)
  feat   : BitVec 256
  wdl    : BitVec 32
  clpol  : BitVec 16
  zst    : Smap DWord
  ns     : Nat
  /-- Tokens of the bandwidth buckets, by 256 × memory controller + id (R8, R21, R329). -/
  tokens : Smap Nat
  /-- PWRACQs waiting at the Chard, oldest first: bank and level. -/
  pwrReqs : List (Nat × BitVec 16)
  /-- Resident time of a context in the present window, by 4096 × sequencer + context, in ns (R330). -/
  windows : Smap Nat
  pkgid  : DWord
  vpool  : DWord
  stst   : DWord
  klp    : Smap DWord
  /-- Failed replays of the flit in flight, by port. -/
  replays : Smap Nat
  mrs    : Smap (BitVec 512)
  sdr    : DWord
  sdh    : BitVec 32
  tdis   : Smap TdiSt
  vfs    : Smap Nat
  hostOut : List HostMsg
  boot   : Boot
  power  : Bool
  agenda : List Instr
  cur    : Cur
  fresh  : Nat
  deriving DecidableEq, Repr

/-! ### Reset -/

/-- The scale of every xs at binding, 1.0 (R143). -/
def xsReset : Word := 0x3F800000

/-- An entry of the VCW table that no image defines (R45). -/
def vcwReset : VcwBits := -1

/-- A tile of +0 (R181). -/
def tileZero : List Word := List.replicate 4096 0

/-- A bank as Okra leaves it before it gives it a place and a program (R105, R113, R148, R149, R181, R209, R236, R263,
R295, R355). -/
def Bank.fresh (key : Nat) : Bank where
  key := key
  bound := false
  uid := 0
  ctx := 0
  lnch := 0
  kern := none
  pri := 7
  mode := .quarter
  slotB := key % 2 == 1
  core := key / 8
  col := key / 2 % 4
  cIdx := 0
  cNum := 1
  dIdx := 0
  dNum := 1
  tkBase := 0
  sr := []
  ar := []
  fl := 1
  gm := []
  bcn := []
  pc := 0
  npc := 0
  seg := 0
  known := []
  flowed := 0
  owed := none
  lc := []
  li := []
  ls := []
  le := []
  depth := 0
  rgst := 0
  vsnp := 0
  trow := 0
  vcw := []
  vr := []
  vfl := []
  q := []
  xs := []
  spill := []
  cbc := []
  cbs := []
  cn := []
  kfr := []
  queues := []
  filled := []
  streams := []
  holds := []
  aside := []
  waitSyl := []
  bun := []
  wx := 0
  forms := []
  ctxRds := []
  barr := none
  wait := none
  open_ := false
  safe := false
  yld := false
  live := 0
  taken := false
  len := 0
  fall := 0
  rep := 0
  iss := 0
  pend := []
  stores := []
  fars := []
  contribs := []
  poison := []
  region := none
  tbr := 0
  epc := 0
  enpc := 0
  esta := 0
  ead := 0
  edt := 0
  eact := 0
  trapQ := none
  pgr := 0
  opReq := none
  wdc := 0
  sinceSafe := 0
  kindA := []
  halted := none
  hint := none
  lines := []
  other := none
  retiredSwitch := false
  preempt := false
  issuedCyc := 0

/-- The dispatch sequencers of the I/O dies, by number, bound in half mode (R12, R20). No program of theirs is given: what
the command processor does, its moves do. -/
def dispatchBanks : List Bank := [512, 514, 576, 578].map fun n => { Bank.fresh (2 * n) with bound := true, mode := .half }

/-- A bank slot's memory at a start: zero (R122, R419). -/
def SlotMem.zero : SlotMem where
  owner := none
  partw := 0
  share := []
  tiles := []
  busy := []
  poisonTiles := []
  poisonLines := []

/-- A core at a start (R362, R366, R419). -/
def Core.reset : Core where
  a := .zero
  b := .zero
  fgB := false
  xops := []
  xser := 0
  cyc := 0
  frozen := false
  cur := 0
  tgt := 0
  settling := false
  trip := false
  ydl := 16384
  handler := none
  switchReq := false
  fair := []
  occ := []

/-- A context as CTXNEW makes it (R317). -/
def Ctx.new (parent depth : Nat) (s1r : DWord) : Ctx where
  st := .new
  depth := depth
  parent := parent
  mask := 0
  s1r := s1r
  s1rOld := none
  trr := 0
  trh := 0
  trt := 0
  g1 := 0
  g2 := 0
  share := 0
  bucket := 0
  power := 0
  bid := 0
  rseq := 0
  s2 := []
  hnd := 1
  tid := 0
  stopAt := 0

/-- The root context (R21, R312, R328): it runs, and it holds everything. -/
def Ctx.root : Ctx :=
  { Ctx.new 0 0 0 with st := .run, mask := -1, share := 1024, power := 0xFFF7 }

/-- The feature vector at stepping A0 (R358). -/
def featReset : BitVec 256 := 0xF

/-- The package at the end of a start (R374, R415, R419): every register at its reset value, only the root context, no
work. -/
def State.reset : State where
  b := .fresh 0
  banks := []
  firm := dispatchBanks
  cores := []
  mem := []
  remote := []
  poison := []
  vctr := 0
  snaps := []
  vers := []
  locks := []
  ctxs := [(0, Ctx.root)]
  grants := []
  tlb := []
  nests := []
  shoots := []
  recs := []
  cells := []
  tickQ := []
  tokqs := []
  taskqs := []
  launchqs := []
  live := []
  saved := []
  parts := []
  objs := []
  graphs := []
  uqs := []
  qOwner := []
  micro := []
  rewrites := []
  feat := featReset
  wdl := 20000
  clpol := 1360
  zst := []
  ns := 0
  tokens := []
  pwrReqs := []
  windows := []
  pkgid := 0
  vpool := 0
  stst := 0x8000000000000000
  klp := []
  replays := []
  mrs := []
  sdr := 0
  sdh := 0
  tdis := []
  vfs := []
  hostOut := []
  boot := ⟨blobReset, 0, [], [], 0, []⟩
  power := true
  agenda := []
  cur := ⟨0, 0, 0, 0, .alone, []⟩
  fresh := 0

end Sys2Proof.Machine
end

