-- ==== Sys2Proof/Machine/Ops.lean ====
section
/-! DEFINITION. The named operations over the state: banks and cores, registers under the latency bounds (R68 to R74),
the scratchpad (R121 to R126, R286), system-register numbers, and taking an exception and returning from one (R332,
R352 to R357). -/

namespace Sys2Proof.Machine

open Sys2Proof

/-! ### Places -/

/-- The bank with a key, in focus or not. -/
def State.bank? (s : State) (k : Nat) : Option Bank := if s.b.key = k then some s.b else s.banks.find k

/-- Brings a bank into focus; a key that no bank has gets an unbound one. -/
def State.focus (s : State) (k : Nat) : State :=
  if s.b.key = k then s
  else { s with b := (s.banks.find k).getD (.fresh k), banks := (s.banks.del k).put s.b.key s.b }

/-- Changes the bank in focus. -/
def State.modB (s : State) (f : Bank → Bank) : State := { s with b := f s.b }

/-- Changes any bank, leaving the focus where it is. -/
def State.modBank (s : State) (k : Nat) (f : Bank → Bank) : State :=
  if s.b.key = k then s.modB f
  else match s.banks.find k with
    | some x => { s with banks := s.banks.put k (f x) }
    | none => s

/-- Every bank that is bound. -/
def State.bound (s : State) : List Bank := (s.b :: s.banks.map Prod.snd).filter (·.bound)

/-- The core of the bank in focus. -/
def State.core (s : State) : Core := s.cores.get .reset s.b.core

/-- Changes a core. -/
def State.modCore (s : State) (n : Nat) (f : Core → Core) : State :=
  { s with cores := s.cores.put n (f (s.cores.get .reset n)) }

/-- The core clock's cycle, for the bank in focus. -/
def State.now (s : State) : Nat := s.core.cyc

/-- A bank slot of a core. -/
def Core.slot (c : Core) (slotB : Bool) : SlotMem := if slotB then c.b else c.a

/-- Changes a bank slot of a core. -/
def Core.modSlot (c : Core) (slotB : Bool) (f : SlotMem → SlotMem) : Core :=
  if slotB then { c with b := f c.b } else { c with a := f c.a }

/-- The bank slot of the bank in focus. -/
def State.slot (s : State) : SlotMem := s.core.slot s.b.slotB

/-- Changes the bank slot of the bank in focus. -/
def State.modSlot (s : State) (f : SlotMem → SlotMem) : State := s.modCore s.b.core (·.modSlot s.b.slotB f)

/-- The die of a core; the cores of the I/O dies are 128 and 144 (R8, R20). -/
def dieOf (core : Nat) : Nat := core / 16

/-- The package sequencer number of a bank (R12). -/
def Bank.seq (b : Bank) : Nat := b.key / 2

/-- The number of a bank's columns. -/
def Bank.cols (b : Bank) : Nat := modeCols b.mode

/-- The place where a free value is drawn. -/
def State.place (s : State) (l : List Nat) : List Nat := s.fresh :: s.cur.col :: s.cur.slot :: l

/-- What is drawn from here on is new (R6: a free value may differ each time). -/
def State.draw (s : State) : State := { s with fresh := s.fresh + 1 }

/-- A free value of `w` bits (R6), by place. -/
def State.undef (s : State) (w : Nat) (l : List Nat) : Nat := Config.undef (s.place l) % 2 ^ w

/-- A free choice among `n` outcomes (R6), by place. -/
def State.pick (s : State) (n : Nat) (l : List Nat) : Nat := Config.pick (s.place l) % n

/-! ### Registers under the bounds -/

/-- A number for a register, for the places of free values. -/
def Loc.code : Loc → List Nat
  | .s n => [0, n] | .a n => [1, n] | .f n => [2, n] | .v cl n => [3, cl, n] | .vfl cl => [4, cl] | .q c n => [5, c, n]
  | .xs c n => [6, c, n] | .spill c n => [7, c, n] | .vcw n => [8, n] | .gm n => [9, n]
  | .cbrel c n w => [10, c, n, w.toNat] | .sys n => [11, n]

/-- The width of a register that a read can find undefined. -/
def Loc.width : Loc → Nat
  | .s _ => 64 | .a _ => 32 | .f _ => 1 | .v .. => 512 | .vfl _ => 80 | .q .. => 64 | .xs .. => 32 | .spill .. => 64
  | .vcw _ => 256 | .gm _ => 64 | .cbrel .. => 1 | .sys _ => 64

/-- A register of the bank, whose later-issued write discards an earlier result on its way (R72); a release of a buffer
counts, a write of a system register takes effect in its turn, and so does the load of a VCW entry (R153). -/
def Loc.register : Loc → Bool
  | .cbrel .. | .sys _ | .vcw _ => false
  | _ => true

/-- What a read finds over a register's landed value: a result of an earlier issue shows from its bound on, and before
that the lanes it will write are undefined (R70). -/
def State.through (s : State) (l : Loc) (landed : Nat) : Nat :=
  let v := s.b.pend.foldl (fun acc p =>
    if p.loc = l ∧ p.iss < s.b.iss ∧ p.orIn = false ∧ p.lanes ≠ 0 then
      let new := if p.due ≤ s.now then p.val else s.undef l.width l.code
      if l.width = 512 then mergeLanes p.lanes new acc else new
    else acc) landed
  s.b.fars.foldl (fun acc f =>
    if f.dest = l ∧ f.iss < s.b.iss ∧ f.lanes ≠ 0 then
      let new := s.undef l.width (99 :: l.code)
      if l.width = 512 then mergeLanes f.lanes new acc else new
    else acc) v

/-- A scalar; s0 reads zero (R15). -/
def State.rs (s : State) (n : Nat) : DWord := if n = 0 then 0 else .ofNat 64 (s.through (.s n) (s.b.sr.get 0 n).toNat)

/-- An address register. -/
def State.ra (s : State) (n : Nat) : Nat := s.through (.a n) (s.b.ar.get 0 n).toNat

/-- A flag; f0 reads 1 (R15, R105). -/
def State.rf (s : State) (n : Nat) : Bool := n == 0 || s.through (.f n) (s.b.fl.getLsbD n).toNat == 1

/-- The count of vector registers in a file (R16). -/
def State.vcount (s : State) : Nat := if rfld (s.slot.partw.setWidth 64) 15 14 = 1 then 1024 else 2048

/-- A vector register of a cluster of the sequencer. -/
def State.rv (s : State) (cl n : Nat) : Nat := s.through (.v cl n) (s.b.vr.get 0 (2048 * cl + n)).toNat

/-- The scale register of a column. -/
def State.rxs (s : State) (col n : Nat) : Word := .ofNat 32 (s.through (.xs col n) (s.b.xs.get xsReset (8 * col + n)).toNat)

/-- A group mask. -/
def State.rgm (s : State) (n : Nat) : DWord := .ofNat 64 (s.through (.gm n) (s.b.gm.get 0 n).toNat)

/-- A latch; updates accepted and not yet present leave it undefined (R177). -/
def State.rq (s : State) (col n : Nat) : DWord :=
  if s.b.contribs.any (fun c => c.col = col && c.ql = some n && c.iss < s.b.iss && !c.dead) then .ofNat 64 (s.undef 64 [5, col, n])
  else .ofNat 64 (s.through (.q col n) (s.b.q.get 0 (4 * col + n)).toNat)

/-- A VCW entry: while a VCWLD is loading it, the whole old or the whole new entry, where the old one is what an earlier
VCWLD may still be loading (R153). -/
def State.rvcw (s : State) (n : Nat) : VcwBits :=
  (s.b.pend.filter fun p => p.loc == .vcw n && decide (p.iss < s.b.iss)).foldl
    (fun old p => if p.due ≤ s.now ∨ s.pick 2 [8, n, p.iss] = 1 then .ofNat 256 p.val else old) (s.b.vcw.get vcwReset n)

/-- What is left of some lanes, or of the bits of a VFL write, after a later write of others. A VFLG keeps the lanes it
names, whose earlier flags it still discards (R170). -/
def lanesLeft (m lanes : Nat) : Nat := m ^^^ (m &&& (lanes % 2 ^ 80))

/-- A later write of a register takes its lanes from the results still on their way, and from an earlier far load (R72); a
write of a region leaves them what they do to the checkpoint copy (R285). Results of which issues are meant, `which` says;
`fars` says so of far loads. -/
def Bank.supersede (b : Bank) (l : Loc) (lanes : Nat) (reg : Bool) (which fars : Nat → Bool) : Bank :=
  let ck (r : Bool) (m : Nat) : Nat := if reg && !r then m else lanesLeft m lanes
  let keep := b.pend.map fun p =>
    if p.loc = l ∧ p.orIn = false ∧ which p.iss = true then
      { p with lanes := lanesLeft p.lanes lanes, ckLanes := ck p.reg p.ckLanes }
    else p
  { b with
    pend := keep.filter fun p => p.lanes != 0 || p.ckLanes != 0
    fars := b.fars.map fun f =>
      if f.dest = l ∧ fars f.iss = true then { f with lanes := lanesLeft f.lanes lanes, ckLanes := ck f.reg f.ckLanes } else f }

/-- A syllable of an issue writes a register. While the syllables of an issue take effect, what an earlier issue has on its
way stays as it was for those that still read (R31, R69); `Bank.overtake` follows when all have. -/
def State.supersede (s : State) (l : Loc) (lanes : Nat) : State :=
  let now := s.b.iss
  let within := decide (s.cur.phase = .commit)
  let far := s.pick 2 (73 :: l.code) = 0
  s.modB fun b => b.supersede l lanes b.region.isSome (fun i => !within || i == now)
    (fun i => (!within && decide (i < now)) || (i == now && far))

/-- The writes of an issue have all been made: they take their lanes from the results of earlier issues (R72). -/
def Bank.overtake (b : Bank) : Bank :=
  let older (i : Nat) : Bool := decide (i < b.iss)
  let news := b.pend.filter fun p => p.iss == b.iss && !p.orIn && p.loc.register
  let b := news.foldl (fun b p => b.supersede p.loc p.lanes p.reg older older) b
  (b.fars.filter fun f => f.iss == b.iss).foldl (fun b f => b.supersede f.dest f.lanes f.reg older older) b

/-- A result of the current issue on its way to a register (R68). Of two writes of one issue one, which one unspecified,
stays (R72). -/
def State.result (s : State) (l : Loc) (val lanes bound : Nat) (poison : Bool := false) : State :=
  let i := s.b.iss
  let same := s.b.pend.find? (fun p => p.loc = l && p.iss = i && p.orIn = false && (p.lanes &&& lanes) != 0)
  let due := s.now + bound
  let (v, due) := match same with
    | some p =>
      let v := if s.pick 2 (72 :: l.code) = 0 then val
        else if l.width = 512 then mergeLanes (p.lanes &&& lanes) p.val val else p.val
      (v, max due p.due)
    | none => (val, due)
  (s.supersede l lanes).modB fun b =>
    { b with pend := b.pend ++ [⟨l, v, v, lanes, lanes, i, due, false, poison, b.region.isSome⟩] }

/-- A scalar result; writes to s0 are discarded (R15). -/
def State.resS (s : State) (rd : Nat) (v : DWord) (bound : Nat) : State :=
  if rd = 0 then s else s.result (.s rd) v.toNat 1 bound

/-- A flag result; writes to f0 are discarded (R15). -/
def State.resF (s : State) (fd : Nat) (v : Bool) : State := if fd = 0 then s else s.result (.f fd) v.toNat 1 1

/-- An address-register result (R69: bound 1). -/
def State.resA (s : State) (ar : Nat) (v : Nat) : State := s.result (.a ar) (v % 2 ^ 32) 1 1

/-- A vector result in the given lanes; an empty set of lanes writes nothing (R151). -/
def State.resV (s : State) (cl n v lanes bound : Nat) : State :=
  if lanes = 0 then s else s.result (.v cl n) v lanes bound

/-- Sticky flags of an operation, as 80 bits, on their way to VFL (R84). -/
def State.resVfl (s : State) (cl v bound : Nat) : State :=
  if v = 0 then s
  else s.modB fun b => { b with pend := b.pend ++ [⟨.vfl cl, v, v, 1, 1, b.iss, s.now + bound, true, false, b.region.isSome⟩] }

/-- The registers of a checkpoint. -/
def Bank.ckpt (b : Bank) : Ckpt := ⟨b.sr, b.ar, b.fl, b.lc, b.li, b.ls, b.le, b.depth, b.q, b.xs, b.vfl⟩

/-- A flag word with one flag written; f0 stays 1. -/
def setFlag (fl : BitVec 16) (n : Nat) (v : Bool) : BitVec 16 :=
  if n = 0 then fl
  else .ofNat 16 (fl.toNat &&& (0xFFFF ^^^ 2 ^ n) ||| (if v then 2 ^ n else 0))

/-- A write to VFL: flags ORed in, or the bits that a VFLG names (R84, R169). -/
def vflWrite (w : BitVec 80) (v lanes : Nat) (orIn : Bool) : BitVec 80 :=
  if orIn then w ||| .ofNat 80 v else (w &&& ~~~(BitVec.ofNat 80 lanes)) ||| (.ofNat 80 v &&& .ofNat 80 lanes)

/-- Writes a landed value into the checkpoint copy of a register, where it has one (R285). -/
def Ckpt.write (c : Ckpt) (l : Loc) (v lanes : Nat) (orIn : Bool) : Ckpt :=
  match l with
  | .s n => { c with sr := c.sr.set 0 n (.ofNat 64 v) }
  | .a n => { c with ar := c.ar.set 0 n (.ofNat 32 v) }
  | .f n => { c with fl := setFlag c.fl n (v == 1) }
  | .q col n => { c with q := c.q.set 0 (4 * col + n) (.ofNat 64 v) }
  | .xs col n => { c with xs := c.xs.set xsReset (8 * col + n) (.ofNat 32 v) }
  | .vfl cl => { c with vfl := c.vfl.upd 0 cl fun w => vflWrite w v lanes orIn }
  | _ => c

/-- Writes a landed value into a bank's register. -/
def Bank.write (b : Bank) (l : Loc) (v lanes : Nat) (orIn : Bool) : Bank :=
  match l with
  | .s n => { b with sr := b.sr.set 0 n (.ofNat 64 v) }
  | .a n => { b with ar := b.ar.set 0 n (.ofNat 32 v) }
  | .f n => { b with fl := setFlag b.fl n (v == 1) }
  | .v cl n => { b with vr := b.vr.upd 0 (2048 * cl + n) fun w => .ofNat 512 (mergeLanes lanes v w.toNat) }
  | .vfl cl => { b with vfl := b.vfl.upd 0 cl fun w => vflWrite w v lanes orIn }
  | .q col n => { b with q := b.q.set 0 (4 * col + n) (.ofNat 64 v) }
  | .xs col n => { b with xs := b.xs.set xsReset (8 * col + n) (.ofNat 32 v) }
  | .spill col dw => { b with spill := b.spill.set 0 (2048 * col + dw) (.ofNat 64 v) }
  | .vcw n => { b with vcw := b.vcw.set vcwReset n (.ofNat 256 v) }
  | .gm n => { b with gm := b.gm.set 0 n (.ofNat 64 v) }
  | .cbrel .. | .sys _ => b

/-! ### Circular buffers (R138, R139) -/

/-- The fields of a buffer's configuration register: enabled, outbound, its flag, the slot count, the slot size in bytes
and the offset of slot 0. -/
structure CbCfg where
  en   : Bool
  out  : Bool
  flg  : Nat
  nsl  : Nat
  size : Nat
  base : Nat

/-- The configuration of a buffer (CBC). -/
def Bank.cb (b : Bank) (i : Nat) : CbCfg :=
  let r := b.cbc.get 0 i
  ⟨rfld r 63 63 = 1, rfld r 62 62 = 1, rfld r 61 58, rfld r 57 50 + 1, (rfld r 49 38 + 1) * 64, rfld r 24 6 * 64⟩

/-- The ready condition of a buffer (R139). -/
def Bank.cbReady (b : Bank) (i : Nat) : Bool :=
  if (b.cb i).out then rfld (b.cbs.get 0 i) 24 16 != 0 else rfld (b.cbs.get 0 i) 33 25 != 0

/-- The hardware writes the readiness flag of an enabled buffer to its condition (R139). -/
def Bank.cbFlag (b : Bank) (i : Nat) : Bank :=
  let c := b.cb i
  if c.en && c.flg != 0 then { b with fl := setFlag b.fl c.flg (b.cbReady i) } else b

/-- Adds to FILLED, FREE, HX and TX of a buffer; indices wrap modulo the slot count. The readiness flag is written when its
condition changes (R139). -/
def Bank.cbMove (b : Bank) (i : Nat) (filled free : Int) (hx tx : Nat) : Bank :=
  let c := b.cb i
  let r := b.cbs.get 0 i
  let r := setFld r 33 25 (ofInt 9 (rfld r 33 25 + filled))
  let r := setFld r 24 16 (ofInt 9 (rfld r 24 16 + free))
  let r := if hx = 0 then r else setFld r 15 8 ((rfld r 15 8 + hx) % c.nsl)
  let r := if tx = 0 then r else setFld r 7 0 ((rfld r 7 0 + tx) % c.nsl)
  let x := { b with cbs := b.cbs.set 0 i r }
  if x.cbReady i = b.cbReady i then x else x.cbFlag i

/-- Slots finish in the order of their claims: the oldest claimed slot, and those behind it that have finished, count as
filled or as drained (R139). -/
def Bank.cbSettle (b : Bank) (i : Nat) : Nat → Bank
  | 0 => b
  | fuel + 1 =>
    let r := b.cbs.get 0 i
    let oldest := if (b.cb i).out then rfld r 15 8 else rfld r 7 0
    if b.filled.contains (i, oldest) then
      let b := { b with filled := b.filled.erase (i, oldest) }
      Bank.cbSettle (if (b.cb i).out then b.cbMove i (-1) 1 1 0 else b.cbMove i 1 0 0 1) i fuel
    else b

/-- The copy engine completes an inbound slot or drains an outbound one (R139). -/
def Bank.cbFinish (b : Bank) (i slot : Nat) : Bank := ({ b with filled := b.filled ++ [(i, slot)] }).cbSettle i 256

/-- CBREL by the L slot releases the head slot, by the W slot publishes the tail slot (R139, R141). One that
lands after the buffer was disabled moves the counters too (R142; assumption log, entry 114). -/
def Bank.cbrel (b : Bank) (i : Nat) (w : Bool) : Bank := if w then b.cbMove i 1 (-1) 0 1 else b.cbMove i (-1) 1 1 0

/-! ### The scratchpad -/

/-- The bytes of a share (R122). -/
def State.shareSize (s : State) : Nat := rfld (s.slot.partw.setWidth 64) 5 0 * 524288

/-- A byte of a list of bytes laid at an address. -/
def byteIn (addr : Nat) (bytes : List Byte) (a : Nat) : Option Byte := if addr ≤ a then bytes[a - addr]? else none

/-- A byte that a store still has to write (R73). -/
def Store.byte (st : Store) (a : Nat) : Option Byte := if st.gone.contains a then none else byteIn st.addr st.bytes a

/-- A store's byte has become visible: from the bound on in any case, and before that from a cycle on that the spec leaves
open for each byte of each store (R73, R378). -/
def Store.shows (st : Store) (now a : Nat) : Bool := decide (st.due ≤ now + Config.pick [73, st.id, a] % 4)

/-- The same of a region's held store, which only the region reads (R286). -/
def HStore.shows (h : HStore) (now a : Nat) : Bool := decide (h.cyc + h.lat ≤ now + Config.pick [73, h.id, a] % 4)

/-- The order of two stores: by issue, and within one issue an order of whole syllables that the spec leaves open (R379,
R380). -/
def storeBefore (iss id iss' id' : Nat) : Bool :=
  decide (iss < iss') || (iss == iss' && decide (Config.pick [380, id] ≤ Config.pick [380, id']))

/-- Puts an element into a sorted list, behind those that it does not go before. -/
def insertBy {α : Type} (before : α → α → Bool) (x : α) : List α → List α
  | [] => [x]
  | y :: ys => if before y x then y :: insertBy before x ys else x :: y :: ys

/-- A list in an order. -/
def sortBy {α : Type} (before : α → α → Bool) (xs : List α) : List α := xs.foldl (fun acc x => insertBy before x acc) []

/-- Stores in their order. -/
def sortStores (xs : List Store) : List Store := sortBy (fun x y => storeBefore x.iss x.id y.iss y.id) xs

/-- The held stores of the region that give a byte, in their order (R286). -/
def Region.givers (r : Region) (a : Nat) : List HStore :=
  sortBy (fun x y => storeBefore x.iss x.id y.iss y.id)
    (r.held.filter fun h => !h.spill && (byteIn h.addr h.bytes a).isSome)

/-- A byte of the share as an L access sees it, beside what a region holds: a store of the bank shows from its cycle on,
and stores of the same issue do not show (R73, R380). -/
def State.shareByte (s : State) (a : Nat) : Byte :=
  (sortStores (s.b.stores.filter fun st => (st.byte a).isSome)).foldl (fun acc st => match st.byte a with
    | some x => if st.iss < s.b.iss ∧ st.shows s.now a = true then x else acc
    | none => acc) (s.slot.share.read a)

/-- A byte of the share as the reads of a region see it: the latest-issued held store to it is forwarded (R144, R286). -/
def State.spByte (s : State) (a : Nat) : Byte :=
  match s.b.region with
  | none => s.shareByte a
  | some r => (r.givers a).foldl (fun acc h => match byteIn h.addr h.bytes a with
    | some x => if h.iss < s.b.iss ∧ h.shows s.now a = true then x else acc
    | none => acc) (s.shareByte a)

/-- `n` bytes of the share as the bank sees them. -/
def State.spBytes (s : State) (a n : Nat) : List Byte := (List.range n).map fun i => s.spByte (a + i)

/-- A little-endian number in the share. -/
def State.spNat (s : State) (a n : Nat) : Nat := leNat (s.spBytes a n)

/-- Some line of the range is poison (R145, R421). -/
def SlotMem.poisoned (m : SlotMem) (a n : Nat) : Bool := m.poisonLines.any fun l => a / 128 ≤ l && l * 128 < a + n

/-- Records a synchronous abort of the open region, taken at the end of the bundle (R292). -/
def State.abortSync (s : State) (cause code gix : Nat) : State :=
  s.modB fun b => { b with region := b.region.map fun r =>
    { r with sync := r.sync ++ [⟨cause, code, s.cur.slot, s.cur.col, gix⟩] } }

/-- Records an asynchronous abort, taken at the next boundary (R292). -/
def Bank.abortAsync (b : Bank) (cause code : Nat) : Bank :=
  { b with region := b.region.map fun r => { r with async := r.async ++ [⟨cause, code, 0, 0, 0⟩] } }

/-- A commit of the bank has passed the point where its region can abort (R292). -/
def Bank.committing (b : Bank) : Bool :=
  b.forms.any fun f => match f.kind with
    | .cmt => decide (f.phase ≥ 1)
    | .txc => decide (f.phase ≥ 3)
    | _ => false

/-- The lowest live guard that a write of the region overlaps: column and entry (R289, R393). -/
def Region.hit (r : Region) (a n : Nat) : Option (Nat × Nat) :=
  (r.guards.find? fun g => g.2.1 < a + n && a < g.2.1 + g.2.2).map fun g => (g.1 / 64, g.1 % 64)

/-- A guard check of a write at issue (R289); the abort keeps the write's column as its code. -/
def State.guardCheck (s : State) (a n : Nat) : State :=
  match s.b.region with
  | none => s
  | some r => match r.hit a n with
    | none => s
    | some (c, g) => s.modB fun b => { b with region := some { r with sync := r.sync ++ [⟨3, s.cur.col, s.cur.slot, c, g⟩] } }

/-- The held-store entries of a column: one for each line of each syllable (R286). -/
def Region.entries (r : Region) (col : Nat) : Nat :=
  ((r.held.filter fun h => h.col == col).map fun h => (h.iss, h.slot, h.spill, h.addr / 64)).eraseDups.length

/-- Bytes cut at the lines of 64. -/
def cutLines : Nat → Nat → List Byte → List (Nat × List Byte)
  | 0, _, _ => []
  | fuel + 1, a, bs =>
    if bs.isEmpty then []
    else
      let n := 64 - a % 64
      (a, bs.take n) :: cutLines fuel (a + n) (bs.drop n)

/-- A store's pieces, none of which overlap, that a syllable writes to the share, or with `spill` to spill memory (R129 to
R131, R133, R193): held in a region, in entries of one line each (R286), and otherwise visible after the bound. -/
def State.store (s : State) (pieces : List (Nat × List Byte)) (lat : Nat) (poison : Bool := false) (spill : Bool := false) :
    State :=
  match s.b.region with
  | none => s.modB fun b => { b with stores := b.stores ++ pieces.map fun p => ⟨p.1, p.2, b.iss, s.now + lat, poison, s.fresh, []⟩ }
  | some r =>
    let cut := pieces.flatMap fun p => cutLines (p.2.length / 64 + 2) p.1 p.2
    let hs : List HStore := cut.map fun p => ⟨s.cur.col, s.cur.slot, spill, p.1, p.2, s.b.iss, s.now, lat, poison, s.fresh⟩
    let r' : Region := { r with held := r.held ++ hs }
    if r'.entries s.cur.col > 1024 then s.abortSync 4 3 0
    else
      let s := s.modB fun b => { b with region := some r' }
      if spill then s else cut.foldl (fun s p => s.guardCheck p.1 p.2.length) s

/-- The bytes that a store puts into the share in a cycle, by address: all that it still writes, in one cycle, by its bound at
the latest, which one unspecified; what another core reads there is no torn element (R73, R379). -/
def Store.ripe (st : Store) (now : Nat) : List (Nat × Byte) :=
  if st.due ≤ now + Config.pick [379, st.id, st.addr] % 4 then
    (((List.range st.bytes.length).zip st.bytes).map fun e => (st.addr + e.1, e.2)).filter fun e => !(st.gone.contains e.1)
  else []

/-- Bytes of a store that have been performed: it writes them no more, nor does a store before it (R378). -/
def Store.pass (st : Store) (xs : List (Nat × Byte)) : Store := { st with gone := st.gone ++ xs.map Prod.fst }

/-- The visible bytes of the next store enter the share, and neither it nor a store before it writes them again (R378). -/
def landStore (now : Nat) (acc : Memory × List Nat × List Store) (st : Store) : Memory × List Nat × List Store :=
  let xs := st.ripe now
  (xs.foldl (fun m e => m.write e.1 e.2) acc.1,
    if st.poison && !xs.isEmpty then (st.addr / 128) :: acc.2.1 else acc.2.1,
    (acc.2.2 ++ [st]).map (·.pass xs))

/-- The bytes of stores that have become visible enter the share, in the order of their stores (R69, R73, R378 to R380). -/
def State.landStores (s : State) : State :=
  if s.b.stores.isEmpty then s
  else
    let m := s.slot
    let r := (sortStores s.b.stores).foldl (landStore s.now) (m.share, m.poisonLines, [])
    let now := s.now
    (s.modSlot fun m => { m with share := r.1, poisonLines := r.2.1 }).modB fun b =>
      { b with stores := r.2.2.filter fun st => decide (now < st.due) }

/-- The bits of VFL of the lanes outside a set (R82). -/
def vflKeep (lanes : Nat) : Nat := ofElems 5 ((List.range 16).map fun l => if lanes.testBit l then 0 else 31)

/-- A landed result is written where it goes: to the register, and, when it was issued before an open region, to the
region's checkpoint copy or to the old value of a shadowed register (R74, R285). It carries its poison with it (R145). A
write by VFLG discards the flags of operations issued before it that have not landed (R170). -/
def Bank.land (b : Bank) (p : Pend) : Bank :=
  let b := match p.loc with
    | .vfl cl => if p.orIn then b
      else { b with pend := b.pend.map fun (o : Pend) =>
        if o.loc = Loc.vfl cl ∧ o.orIn ∧ o.iss < p.iss then
          let keep (v : Nat) : Nat := v &&& vflKeep (fld p.lanes 95 80)
          { o with val := keep o.val, ckVal := if p.reg && !o.reg then o.ckVal else keep o.ckVal }
        else o }
    | _ => b
  let b := if p.lanes = 0 then b
    else { b.write p.loc p.val p.lanes p.orIn with
      poison := if p.poison then p.loc :: b.poison.filter (fun l => l != p.loc)
        else if p.orIn then b.poison else b.poison.filter (fun l => l != p.loc) }
  match b.region with
  | none => b
  | some r =>
    if p.reg ∨ p.ckLanes = 0 then b
    else { b with region := some { r with
      ck := r.ck.write p.loc p.ckVal p.ckLanes p.orIn
      bads := if p.poison then p.loc :: r.bads.filter (fun l => l != p.loc)
        else if p.orIn then r.bads else r.bads.filter (fun l => l != p.loc)
      vsh := match p.loc with
        | .v cl n => match r.vsh.find (2048 * cl + n) with
          | some w => r.vsh.put (2048 * cl + n) (.ofNat 512 (mergeLanes p.ckLanes p.ckVal w.toNat))
          | none => r.vsh
        | _ => r.vsh } }

/-- The value of a far load is written to its destination, where no later-issued write took it (R72, R136). -/
def Bank.landFar (b : Bank) (f : Far) (v : Nat) : Bank :=
  b.land ⟨f.dest, v, v, f.lanes, f.ckLanes, f.iss, f.due, false, f.poison, f.reg⟩

/-- A write of a system register on its way has taken effect (R351). -/
def Bank.arrived (b : Bank) (n : Nat) (v : DWord) : Bank :=
  match b.pend.find? fun p => p.loc == .sys n && p.val == v.toNat with
  | some p => { b with pend := b.pend.erase p }
  | none => b

/-- The same, for the first of some banks that sent it. -/
def State.arrived (s : State) (n : Nat) (v : DWord) (who : Bank → Bool) : State :=
  let has (b : Bank) : Bool := b.bound && who b && b.pend.any fun p => p.loc == .sys n && p.val == v.toNat
  match (s.b :: s.banks.map Prod.snd).find? has with
  | some b => s.modBank b.key (·.arrived n v)
  | none => s

/-! ### Regions: shadowing (R284) -/

/-- A vector write of a region keeps the register's old value at the first write; the 257th register of a cluster does
not take place, and the region aborts (OVF, kind 1). -/
def State.shadowV (s : State) (cl n : Nat) : State × Bool :=
  match s.b.region with
  | none => (s, true)
  | some r =>
    let k := 2048 * cl + n
    if (r.vsh.find k).isSome then (s, true)
    else if (r.vsh.filter fun e => e.1 / 2048 = cl).length ≥ 256 then (s.abortSync 4 1 0, false)
    else (s.modB fun b => { b with region := some { r with vsh := r.vsh.put k (b.vr.get 0 k) } }, true)

/-! ### The loop stack (R113 to R119, R258, R259) -/

/-- The loop-table entry of a level of the bank's kernel; temporal with extent 0 where there is none (R258). -/
def Bank.loopEnt (b : Bank) (lv : Nat) : LoopEnt :=
  match b.kern with
  | some k => k.loops.getD lv ⟨.temporal, 0, 0⟩
  | none => ⟨.temporal, 0, 0⟩

/-- The coordinate and the spread of a level; 0 and 1 for a temporal level (R259, R267). -/
def Bank.coord (b : Bank) (lv : Nat) : Nat × Nat :=
  match (b.loopEnt lv).kind with
  | .temporal => (0, 1)
  | .cores => (b.cIdx, b.cNum)
  | .dies => (b.dIdx, b.dNum)

/-- Closes `k` levels, innermost first. -/
def Bank.closeLoops (b : Bank) : Nat → Bank
  | 0 => b
  | k + 1 => Bank.closeLoops { b with lc := b.lc.set 0 (b.depth - 1) 0, li := b.li.set 0 (b.depth - 1) 0, depth := b.depth - 1 } k

/-- The loop test at an end bundle (R115, R259): the bank with its next address. -/
def Bank.loopTest (b : Bank) : Nat → Bank
  | 0 => { b with npc := b.fall }
  | fuel + 1 =>
    let d := b.depth - 1
    if b.depth > 0 ∧ b.pc = b.le.get 0 d then
      let p := (b.coord d).2
      let i := (b.li.get 0 d).toNat + p
      if i < (b.lc.get 0 d).toNat then { b with li := b.li.set 0 d (.ofNat 64 i), npc := b.ls.get 0 d }
      else Bank.loopTest (b.closeLoops 1) fuel
    else { b with npc := b.fall }

/-! ### Exceptions: causes -/

/-- A cause raised before the bundle by the syllable in the latch (R352). -/
def State.cause (s : State) (num sub : Nat) (ead edt : Nat := 0) : Cause :=
  ⟨num, sub, s.cur.slot, s.cur.col, .ofNat 64 ead, .ofNat 64 (if edt = 0 then sub else edt), false, .before, false, none⟩

/-- The illegal-instruction cause on the bundle (R48). -/
def State.illegal (s : State) : Cause :=
  ⟨1, 0, s.cur.slot, s.cur.col, s.b.pc.setWidth 64, 0, false, .before, false, none⟩

/-- The same, tied to the syllable at 8 × column + slot (R353, R355); 0 too for a cause that is tied to none. -/
def State.illegalAt (s : State) (k : Nat) : Cause := { s.illegal with slt := k % 8, col := k / 8 }

/-- A scratchpad-address cause (R126). -/
def State.spaddr (s : State) (code a : Nat) : Cause :=
  ⟨4, code, s.cur.slot, s.cur.col, .ofNat 64 a, .ofNat 64 code, false, .before, false, none⟩

/-- Range and alignment of a scratchpad access (R123); of several causes the lowest is recorded (R353). -/
def State.spCheck (s : State) (a n align : Nat) : Option Cause :=
  if a + n > s.shareSize then some (s.spaddr 1 a)
  else if a % align ≠ 0 then some (s.spaddr 2 a)
  else none

/-- The rank of a before-cause among those of one bundle (R353). -/
def causeRank : Nat → Nat
  | 2 => 0 | 1 => 1 | 13 => 2 | 3 => 3 | 4 => 4 | 5 => 5 | 8 => 6 | 9 => 7 | 11 => 8 | 12 => 9 | _ => 10

/-- The rank of an after-cause at a boundary (R353). -/
def afterRank (n : Nat) : Nat :=
  match n with
  | 14 => 0 | 17 => 1 | 6 => 2 | 7 => 3 | 15 => 4 | 16 => 5 | n => n

/-- The least element by a rank; the first of equals. -/
def leastBy {α : Type} (f : α → Nat) : List α → Option α
  | [] => none
  | x :: xs => match leastBy f xs with
    | none => some x
    | some y => if f x ≤ f y then some x else some y

/-- The cause taken on a bundle: by name, then the lowest column, then the lowest slot (R353). -/
def worst (cs : List Cause) : Option Cause :=
  leastBy (fun c => ((causeRank c.num * 4 + c.col) * 8 + c.slt) * 256 + c.sub) cs

/-! ### Exceptions: the search (R331, R332) -/

/-- A live context. -/
def State.ctx? (s : State) (n : Nat) : Option Ctx := s.ctxs.find n

/-- A context's record; a number not in use reads as a new child of the root. -/
def State.ctx (s : State) (n : Nat) : Ctx := (s.ctxs.find n).getD (.new 0 1 0)

/-- Changes a context. -/
def State.modCtx (s : State) (n : Nat) (f : Ctx → Ctx) : State :=
  match s.ctxs.find n with
  | some c => { s with ctxs := s.ctxs.put n (f c) }
  | none => s

/-- The context's mask claims the cause; the root's claims every cause (R331). -/
def State.claims (s : State) (n cause : Nat) : Bool := n == 0 || (s.ctx n).mask.getLsbD cause

/-- The nearest context from `n` upward that claims the cause and whose ring is enabled; the root at the latest. -/
def State.claimer (s : State) (cause : Nat) : Nat → Nat → Nat
  | 0, _ => 0
  | fuel + 1, n =>
    if n = 0 then 0
    else if s.claims n cause && rfld (s.ctx n).trr 63 63 = 1 then n
    else s.claimer cause fuel (s.ctx n).parent

/-- The context whose ring receives a trap of context `c` that the bank does not take itself. -/
def State.receiver (s : State) (c cause : Nat) : Nat := if c = 0 then 0 else s.claimer cause 9 (s.ctx c).parent

/-- The code of a trap kind in ESTA (R355). -/
def TrapKind.code : TrapKind → Nat
  | .before => 0 | .after => 1 | .wait => 2

/-- The ESTA word of a trap (R355). -/
def estaOf (c : Cause) (wx : BitVec 32) : DWord :=
  .ofNat 64 (pack [(1, 1), (6, c.num), (8, c.sub), (3, c.slt), (2, c.col), (1, c.rfl.toNat), (2, c.kind.code), (9, 0),
    (32, if c.kind = .wait then wx.toNat else 0)])

/-- The bank may take a trap of its own context at its own vector (R332, R356): the mask claims it, the vector is valid,
no handler runs, it is neither HALT nor WDOG nor a stage-2 fault. -/
def State.takesOwn (s : State) (c : Cause) : Bool :=
  s.claims s.b.ctx c.num && s.b.tbr.getLsbD 63 && !s.b.esta.getLsbD 63 && c.num != 14 && c.num != 15 && !c.stage2

/-- Where a trap's bundle stands: the bundle itself, or the next to issue for a trap after it (R352). -/
def State.epcOf (s : State) (c : Cause) : DWord :=
  let b := s.b
  let next := if !b.open_ || b.taken then b.npc else if b.esta.getLsbD 63 then b.fall else (b.loopTest 7).npc
  if c.kind = .after then next.setWidth 64 else b.pc.setWidth 64

/-- A bundle that waits is put aside (R252, R278). -/
def Bank.putAside (b : Bank) : Option Wait :=
  if b.open_ then some ⟨b.pc, b.npc, b.len, b.fall, b.taken, b.safe, b.yld, b.live, b.forms, b.barr, b.waitSyl, b.bun, b.wx⟩ else none

/-- The wait of the bundle that was put aside goes on unchanged (R252, R278). -/
def Bank.takeUp (b : Bank) : Bank :=
  match b.wait with
  | none => b
  | some w => { b with
    pc := w.pc
    npc := w.npc
    len := w.len
    fall := w.fall
    taken := w.taken
    safe := w.safe
    yld := w.yld
    live := w.live
    forms := w.forms
    barr := w.barr
    waitSyl := w.waitSyl
    bun := w.bun
    wx := w.wx
    open_ := true
    wait := none }

/-- Entry at the bank's own vector (R356): the trap registers are written, the hold state is put aside, and issue
continues at TBR.VEC. -/
def Bank.enter (b : Bank) (c : Cause) (epc : DWord) : Bank :=
  let vec : BitVec 56 := .ofNat 56 (rfld b.tbr 55 1 * 2)
  { b with
    epc := epc
    wait := if c.kind = .after then b.putAside else none
    forms := []
    barr := none
    enpc := if c.kind = .after ∨ b.len = 0 then 0 else b.fall.setWidth 64
    esta := estaOf c b.wx
    ead := c.ead
    edt := c.edt
    eact := 0
    trapQ := c.queue
    aside := b.holds
    holds := []
    waitSyl := []
    wx := 0
    open_ := false
    safe := false
    taken := false
    rep := 0
    pc := vec
    npc := vec }

/-- A trap goes to its receiver's ring: a record waits to be written (R332, R333). -/
def State.record (s : State) (c : Cause) (waits : Bool) : State :=
  let h := if c.stage2 ∧ s.b.ctx ≠ 0 then s.claimer c.num 9 (s.ctx s.b.ctx).parent else s.receiver s.b.ctx c.num
  let x := s.ctx s.b.ctx
  { s with recs := s.recs ++ [⟨0, h, c, s.b.ctx, s.b.key, s.b.uid, s.epcOf c, x.g1, x.g2, false, waits⟩] }

/-- Reflects a trap to its receiver: the bank stops and waits for the reply (R332). -/
def State.reflect (s : State) (c : Cause) : State :=
  (s.record c true).modB fun b => { b with halted := some (.reply c), pc := if c.kind = .after ∧ !b.open_ then b.npc else b.pc }

/-- TAKING AN EXCEPTION, the one operation (R332, R356): at the bank's own vector where its context claims the cause and
the bank can take it, and otherwise to the nearest claiming ancestor. -/
def State.takeTrap (s : State) (c : Cause) : State :=
  if s.takesOwn c then s.modB (·.enter c (s.epcOf c)) else s.reflect c

/-- A pending cause that comes due at the next boundary (R353). -/
def Bank.pendAfter (b : Bank) (c : Cause) : Bank := { b with kindA := b.kindA ++ [{ c with kind := .after }] }

/-- A fault for which the bank stops that is neither resolved nor refused: of a suspended stream, or of a GLD or returning atomic
that has been reported (R196, R229). One that a handler of the bank has entered, or is to enter, stops it no more. -/
def Bank.stopping (b : Bank) : Option Cause :=
  b.queues.findSome? fun e =>
    let k := e.1
    let r := b.kfr.get 0 k
    let strm := k % 4 == 3 && b.streams.any fun x => x.2.col == k / 4 && x.2.susp
    let gld := e.2.told && (e.2.pkts.find? fun p => !p.done).any (·.far.isSome)
    let trap := b.kindA.any (·.queue == some k) || (b.esta.getLsbD 63 && b.trapQ == some k)
    if e.2.susp && r.getLsbD 63 && (strm || gld) && !trap then
      some ⟨6, rfld r 62 59, 6, k / 4, e.2.fa, r, false, .after, rfld r 62 59 == 7, some k⟩
    else none

/-- The bank stops, or stays stopped, for such a fault. -/
def Bank.stopAgain (b : Bank) : Bank := if b.halted.isSome then b else { b with halted := b.stopping.map .fault }

/-- Reports a fault that leaves its bank at the next boundary (R196, R228, R229): the bank's own context takes it there as
a trap, and any other receiver gets a record, for which the bank stops only where the rule says so. -/
def State.report (s : State) (c : Cause) (stops : Bool) : State :=
  if s.takesOwn c then s.modB (·.pendAfter c)
  else
    let s := s.record c stops
    if stops && s.b.halted.isNone then s.modB fun b => { b with halted := some (.fault c) } else s

/-! ### Exceptions: the return -/

/-- The causes that are faults, which REFUSE turns into the trap their rule names (R54, R196, R228, R229, R336). -/
def isFault (n : Nat) : Bool := n == 2 || n == 6 || n == 7

/-- A packet that is discarded as refused: the counter it names advances with ERR set (R228). -/
def Bank.refusePkt (b : Bank) (col : Nat) (p : Pkt) : Bank :=
  if p.ce then
    { b with cn := b.cn.upd 0 (16 * col + p.co) fun r => setFld (setFld r 31 0 (rfld r 31 0 + 1)) 63 63 1 }
  else b

/-- A CPYB discarded after it claimed its slot does not hold up its buffer (R228). -/
def Bank.spoilSlot (b : Bank) (col : Nat) (p : Pkt) : Bank :=
  if p.kind = .cpyb ∧ p.slot.isSome ∧ !p.orphan then
    b.cbFinish (8 * col + p.buf) (p.slot.getD 0)
  else b

/-- Discards the packet that faulted and every later one of a queue as refused; packets before it, all performed, complete as
usual. The queue stays suspended until the ERET (R228). The bytes of a claimed slot or of its destination are those of the
accesses performed before the fault (assumption log, entry 58). -/
def Bank.refuseQueue (b : Bank) (k : Nat) : Bank :=
  let q := b.queues.get .empty k
  let b := (q.pkts.dropWhile (·.done)).foldl (fun b p => (b.refusePkt (k / 4) p).spoilSlot (k / 4) p) b
  { b with queues := b.queues.put k { q with pkts := q.pkts.takeWhile (·.done) } }

/-- A commit's held packet faulted and is refused: it and every later held packet of its queue are discarded, each marking its
counter (R228, R308). -/
def Bank.refuseHeld (b : Bank) (k : Nat) : Bank :=
  match b.region with
  | none => b
  | some r =>
    let out (e : Nat × Nat × Pkt) : Bool := 4 * e.1 + e.2.1 == k && !e.2.2.done
    let b := (r.pkts.filter out).foldl (fun b e => (b.refusePkt e.1 e.2.2).spoilSlot e.1 e.2.2) b
    { b with region := some { r with pkts := r.pkts.filter fun e => !(out e) } }

/-- The queues of a bank that a copy fault names: the one that faulted, or those suspended with its KFR value. -/
def Bank.faulted (b : Bank) (c : Cause) : List Nat :=
  match c.queue with
  | some k => if (b.kfr.get 0 k).getLsbD 63 then [k] else []
  | none => (b.kfr.filter fun e => e.2 = c.edt && e.2.getLsbD 63).map Prod.fst

/-- A landing entry is due and its data is not here; an entry whose packet waits in a suspended queue, or is performed again
after a fault, stops no clock (R136, R229). -/
def Bank.starved (b : Bank) (now : Nat) : Bool :=
  b.fars.any fun f => decide (f.due ≤ now) && f.due != 0 && !f.here &&
    !(b.queues.any fun e => e.2.susp && e.2.pkts.any fun p => p.far == some f.id)

/-- A clock that was frozen for a value goes on, where no bank of the core waits for another (R136, R229). -/
def State.thaw (s : State) : State :=
  let k := s.b.core
  let now := s.now
  if !s.core.frozen || s.bound.any fun x => x.core == k && x.starved now then s
  else s.modCore k fun c => { c with frozen := false }

/-- The suspended stream of a column restarts, and its TROW field reads 0 again (R196, R198). -/
def Bank.restart (b : Bank) (col : Nat) : Bank :=
  { b with
    streams := b.streams.map fun e => (e.1, { e.2 with susp := e.2.susp && e.2.col != col })
    trow := setFld b.trow (16 * col + 15) (16 * col) 0 }

/-- A suspended queue goes on (R228). The value of a GLD or returning atomic at its head is now due at once, which stops the
bank alone and not its core's clock: its landing entry is due in cycle 0 (R229). -/
def Bank.goOn (b : Bank) (k : Nat) : Bank :=
  let redo := ((b.queues.get .empty k).pkts.head?).bind (·.far)
  { b with
    fars := b.fars.map fun f => if some f.id = redo then { f with due := 0 } else f
    kfr := b.kfr.upd 0 k fun r => setFld r 63 63 0
    queues := b.queues.upd .empty k fun q => { q with susp := false, told := false } }

/-- A copy fault or stream fault is resolved: V clears, and the queues and streams it names go on (R196, R228, R229). -/
def Bank.resolve (b : Bank) (c : Cause) : Bank :=
  let ks := if c.num = 7 ∧ c.queue = none then ((b.streams.filter fun e => e.2.susp).map fun e => 4 * e.2.col + 3).eraseDups
    else b.faulted c
  ks.foldl (fun b k => if k % 4 = 3 ∧ b.streams.any (fun e => e.2.col == k / 4 && e.2.susp) then (b.goOn k).restart (k / 4)
    else b.goOn k) b

/-- The fault is refused: a queue's packets are discarded, a refused GLD leaves its destination undefined and stops no clock,
and the trap that the rule names is raised with RFL = 1, at the next boundary unless it is a fetch fault (R54, R196, R228,
R229). A refused fault of a TXC aborts its region (R292, R308). -/
def State.refuseFault (s : State) (c : Cause) : State :=
  let txc (f : Form) : Bool := match f.kind with | .txc => f.phase == 1 | _ => false
  if c.num = 2 then s.takeTrap { c with rfl := true }
  else if s.b.region.isSome && s.b.forms.any txc then
    s.modB fun b => ({ b with queues := (b.faulted c).foldl (fun q k => q.put k .empty) b.queues }).abortAsync 8 (rfld c.edt 62 59)
  else
    let ks := s.b.faulted c
    let strm (k : Nat) : Bool := k % 4 == 3 && s.b.streams.any fun e => e.2.col == k / 4 && e.2.susp
    if c.num = 7 ∨ ks.any strm then
      s.modB fun b => b.pendAfter { c with num := 7, edt := b.trow, rfl := true }
    else
      let gone := (ks.flatMap fun k => (s.b.queues.get .empty k).pkts.dropWhile (·.done)).filterMap (·.far)
      let s := (s.b.fars.filter fun f => gone.contains f.id).foldl (fun s f =>
        s.modB (·.landFar f (s.undef f.dest.width (229 :: f.dest.code)))) s
      let s := s.modB fun b => { ks.foldl (fun b k => if b.committing then (b.refuseQueue k).refuseHeld k else b.refuseQueue k) b with
        fars := b.fars.filter fun f => !gone.contains f.id
        kindA := b.kindA ++ [{ c with kind := .after, rfl := true }] }
      if gone.isEmpty then s else s.thaw

/-- `k` is `n` or a descendant of it (R310). -/
def State.within (s : State) (n : Nat) : Nat → Nat → Bool
  | 0, k => k == n
  | fuel + 1, k => k == n || (k != 0 && s.within n fuel (s.ctx k).parent)

/-- Abandons every suspended stream: its tiles are released, and its queue goes on without it (R196, R198). -/
def State.dropStreams (s : State) : State :=
  let ids := (s.b.streams.filter fun e => e.2.susp).map fun e => e.2.xop
  let ks := (s.b.streams.filter fun e => e.2.susp).map fun e => 4 * e.2.col + 3
  let ops := s.core.xops.filter fun o => ids.contains o.id
  let tiles := ops.flatMap fun o => match o.ins with
    | .mmas _ t qd .. => if qd then [t.toNat, t.toNat + 1, t.toNat + 2, t.toNat + 3] else [t.toNat]
    | _ => []
  let s := s.modSlot fun m => { m with busy := m.busy.filter fun t => !tiles.contains t }
  let s := s.modCore s.b.core fun c => { c with xops := c.xops.filter fun o => !ids.contains o.id }
  s.modB fun b => { b with
    streams := b.streams.filter fun e => !e.2.susp
    trow := .ofNat 64 (b.trow.toNat &&& 0x7FFF7FFF7FFF7FFF)
    kfr := b.kfr.map fun e => if ks.contains e.1 then (e.1, setFld e.2 63 63 0) else e
    queues := b.queues.map fun e =>
      let pkts := e.2.pkts.filter fun p => match p.kind with
        | .mmas x => !ids.contains x
        | _ => true
      (e.1, if ks.contains e.1 then { e.2 with pkts := pkts, susp := false, told := false } else { e.2 with pkts := pkts }) }

/-- Stops a context and its subtree as CTXSTOP does, without a report (R336, R339): banks are asked for pre-emption at
their next safe point, and no launch of it is bound. -/
def State.stopCtx (s : State) (n : Nat) : State :=
  let mine (k : Nat) : Bool := s.within n 9 k
  let s := { s with ctxs := List.map (fun (e : Nat × Ctx) =>
    if mine e.1 && e.2.st == CtxSt.run then (e.1, { e.2 with st := .stopping, stopAt := s.ns }) else e) s.ctxs }
  let f (b : Bank) : Bank := if mine b.ctx then { b.abortAsync 13 0 with preempt := true } else b
  { s with b := f s.b, banks := s.banks.mapVals f }

/-- THE RETURN FROM AN EXCEPTION at the bank (R336, R357): action 0 retries, 1 refuses, 2 skips. `epc` and `enpc` are the
trap's addresses, `wx` the syllables that have executed. A bundle that still waits goes on waiting, and a bank that another
fault stops stays stopped (R196, R229). -/
def State.resume (s : State) (c : Cause) (act : Nat) (epc enpc : BitVec 56) (wx : BitVec 32) (own : Bool) : State :=
  let act := if act = 2 ∧ (c.kind = .after ∨ enpc = 0) ∧ c.num ≠ 15 then 1 else if act = 3 then 0 else act
  let go (b : Bank) : Bank :=
    if b.open_ then b else { b with pc := epc, npc := epc, wx := if c.kind = .wait then wx else 0 }
  let s := s.modB fun b => { b with halted := none, wdc := if own then b.wdc else 0, sinceSafe := 0 }
  State.modB (f := Bank.stopAgain) <| match act with
  | 0 =>
    let s := s.modB go
    if isFault c.num then s.modB (·.resolve c) else s
  | 1 =>
    let s := s.modB go
    if isFault c.num ∧ !c.rfl then s.refuseFault c
    else if own then
      if isFault c.num then s.modB (·.resolve c)
      else (s.modB fun b => { b with len := if enpc = 0 then 0 else 4, fall := enpc }).reflect { c with rfl := true }
    else (s.stopCtx s.b.ctx).modB fun b => { b with halted := some .gone }
  | _ =>
    let tgt := if c.kind = .after then epc else enpc
    s.modB fun b => { b with pc := tgt, npc := tgt, wx := 0 }

end Sys2Proof.Machine
end

