-- ==== Sys2Proof/Machine/Operands.lean ====
section
/-! DEFINITION. Operand forms: the second operand of the ALU layout (R97), memory operands (R128), packet groups (R207),
the registers a syllable reads, and what every syllable shares: its predicate (R49), its checks, its place in a region
(R293). -/

namespace Sys2Proof.Machine

open Sys2Proof

/-- The second operand of the ALU and compare layouts: a scalar, or IMM6 extended with its sign, or with zeros for the
unsigned variants, shifts and compares (R98, R104). -/
def State.aluB (s : State) (i zext : Bool) (b : BitVec 6) : DWord :=
  if i then (if zext then b.setWidth 64 else b.signExtend 64) else s.rs b.toNat

/-- Displacement and post-step of an OFS8 operand, in units of `u` (R128). -/
def ofs8 (o : BitVec 8) (u : Nat) : Int × Int :=
  let n := o.toNat
  if n.testBit 7 then (sval 3 (fld n 6 4) * u, sval 4 (fld n 3 0) * u) else (sval 7 (fld n 6 0) * u, 0)

/-- Displacement and post-step of an OFS5 operand (R128). -/
def ofs5 (o : BitVec 5) (u : Nat) : Int × Int :=
  let n := o.toNat
  if n.testBit 4 then (0, sval 4 (fld n 3 0) * u) else (sval 4 (fld n 3 0) * u, 0)

/-- An address register plus a displacement, modulo 2^32 (R123). -/
def addA (a : Nat) (d : Int) : Nat := ofInt 32 (a + d)

/-- A post-step, with the bound of R69 (R128). -/
def State.postStep (s : State) (ar : BitVec 5) (st : Int) : State :=
  if st = 0 then s else s.resA ar.toNat (addA (s.ra ar.toNat) st)

/-- Scalar `k` of the packet group `sp` (R207). -/
def State.grp (s : State) (sp : BitVec 4) (k : Nat) : DWord := s.rs (4 * sp.toNat + k)

/-- The cluster that VC selects in the syllable's column (R127, R147). -/
def State.clOf (s : State) (vc : Bool) : Nat := 2 * s.cur.col + vc.toNat

/-- The size in bytes and the signedness of an L format (R127). -/
def ldFmt (f : BitVec 3) : Nat × Bool :=
  match f.toNat with
  | 0 => (1, true) | 1 => (1, false) | 2 => (2, true) | 3 => (2, false) | 4 => (4, true) | 5 => (4, false) | _ => (8, false)

/-- A loaded element extended to 64 bits (R129). -/
def extendTo64 (n size : Nat) (signed : Bool) : DWord := .ofNat 64 (if signed then ofInt 64 (sval (8 * size) n) else n)

/-- The scalars, address registers and flags that a syllable reads beside its predicate; poison in one of them is
consumed (R145, R422). -/
def Instr.sources : Instr → List Loc
  | .bundleIssue _ => []
  | .asyncAbort _ => []
  | .waitSyllableExecute _ _ _ => []
  | .resultLand _ => []
  | .latchUpdate _ => []
  | .segmentExpand _ => []
  | .fairnessExpiry _ => []
  | .barrierArrival _ => []
  | .barrierComplete _ => []
  | .farRead _ _ => []
  | .farDataArrival _ _ => []
  | .farLoadLand _ => []
  | .gldFault _ => []
  | .xOpStart _ _ => []
  | .tileRelease _ _ => []
  | .mmasRow _ _ => []
  | .packetStart _ _ _ => []
  | .packetGranule _ _ _ => []
  | .packetComplete _ _ _ => []
  | .atomicPerform _ _ _ => []
  | .cmtCommit _ => []
  | .txcCommit _ => []
  | .tkwaitRetire _ => []
  | .tqputComplete _ => []
  | .tqgetComplete _ => []
  | .tqrelComplete _ => []
  | .fenceRetire _ => []
  | .cwaitRetire _ => []
  | .drainRetire _ => []
  | .postEnqueue _ => []
  | .launchEnqueue _ => []
  | .launchBind _ _ => []
  | .taskDispatch _ _ _ => []
  | .bankSwitch _ => []
  | .shareWindowSwitch _ _ => []
  | .watchdogExpiry _ _ => []
  | .handlerForcedEntry _ => []
  | .settleComplete _ => []
  | .droopDetect _ => []
  | .powerGrant _ => []
  | .thermalTrip _ _ => []
  | .mcldLoad _ => []
  | .softError _ => []
  | .sramUncorrectable _ _ => []
  | .cbcWrite _ _ _ _ => []
  | .s1rWrite _ _ => []
  | .tqcWrite _ _ => []
  | .trrWrite _ _ => []
  | .vpoolWrite _ => []
  | .registerWrite _ _ _ => []
  | .uqnNotify _ _ => []
  | .uqdWrite _ _ _ => []
  | .launchPacket _ => []
  | .loadPacket _ => []
  | .unloadPacket _ => []
  | .graphPacket _ => []
  | .replyPacket _ => []
  | .hostMemoryAccess _ => []
  | .fetchadd _ _ => []
  | .swap _ _ => []
  | .cas _ _ _ => []
  | .functionLevelReset _ => []
  | .flitArrival _ _ _ _ => []
  | .add _ _ ra i b => .s ra.toNat :: (if i then [] else [.s b.toNat])
  | .sub _ _ ra i b => .s ra.toNat :: (if i then [] else [.s b.toNat])
  | .mul _ _ ra i b => .s ra.toNat :: (if i then [] else [.s b.toNat])
  | .mulh _ _ ra i _ b => .s ra.toNat :: (if i then [] else [.s b.toNat])
  | .div _ _ ra i _ b => .s ra.toNat :: (if i then [] else [.s b.toNat])
  | .rem _ _ ra i _ b => .s ra.toNat :: (if i then [] else [.s b.toNat])
  | .and _ _ ra i b => .s ra.toNat :: (if i then [] else [.s b.toNat])
  | .or _ _ ra i b => .s ra.toNat :: (if i then [] else [.s b.toNat])
  | .xor _ _ ra i b => .s ra.toNat :: (if i then [] else [.s b.toNat])
  | .andn _ _ ra i b => .s ra.toNat :: (if i then [] else [.s b.toNat])
  | .shl _ _ ra i b => .s ra.toNat :: (if i then [] else [.s b.toNat])
  | .shr _ _ ra i b => .s ra.toNat :: (if i then [] else [.s b.toNat])
  | .sra _ _ ra i b => .s ra.toNat :: (if i then [] else [.s b.toNat])
  | .min _ _ ra i _ b => .s ra.toNat :: (if i then [] else [.s b.toNat])
  | .max _ _ ra i _ b => .s ra.toNat :: (if i then [] else [.s b.toNat])
  | .sel _ _ ra rb fs => [.s ra.toNat, .s rb.toNat, .f (1 + fs.toNat)]
  | .clz _ _ ra => [.s ra.toNat]
  | .popc _ _ ra => [.s ra.toNat]
  | .movi _ _ _ => []
  | .movhi _ rd _ => [.s rd.toNat]
  | .cmp _ _ _ ra i b => .s ra.toNat :: (if i then [] else [.s b.toNat])
  | .ext _ _ ra _ _ _ => [.s ra.toNat]
  | .br _ _ bf _ => [.f bf.toNat]
  | .jmp _ _ => []
  | .jmpi _ ra _ => [.s ra.toNat]
  | .call _ _ => []
  | .ret _ ra => [.s ra.toNat]
  | .loopImm _ _ _ => []
  | .loopReg _ ra _ => [.s ra.toNat]
  | .loopbrk _ _ => []
  | .lidx _ _ _ _ => []
  | .seghint _ _ => []
  | .fset _ _ => []
  | .fclr _ _ => []
  | .fop _ _ fa fb _ => [.f fa.toNat, .f fb.toNat]
  | .vcwld _ _ ra _ => [.s ra.toNat]
  | .gmset _ _ ra => [.s ra.toNat]
  | .tkwait _ _ ra => [.s ra.toNat]
  | .tkadv _ _ _ => []
  | .tkset _ _ ra => [.s ra.toNat]
  | .tqput _ _ _ rb => [.s rb.toNat]
  | .tqget _ _ _ _ => []
  | .tqrel _ _ _ => []
  | .fence _ _ => []
  | .post _ sp _ => [.s (4 * sp.toNat), .s (4 * sp.toNat + 1), .s (4 * sp.toNat + 2), .s (4 * sp.toNat + 3)]
  | .launch _ sp _ => [.s (4 * sp.toNat), .s (4 * sp.toNat + 1), .s (4 * sp.toNat + 2), .s (4 * sp.toNat + 3)]
  | .spat _ _ _ _ => []
  | .sqid _ _ => []
  | .tend _ => []
  | .chk _ _ => []
  | .cmt _ => []
  | .abt _ _ => []
  | .gclr _ => []
  | .asrt _ _ => []
  | .rgst _ _ => []
  | .txb _ _ => []
  | .txc _ _ => []
  | .snap _ => []
  | .snape _ => []
  | .ctxnew _ _ ra => [.s ra.toNat]
  | .ctxdel _ _ ra => [.s ra.toNat]
  | .ctxcore _ sp _ ra => .s ra.toNat :: [.s (4 * sp.toNat), .s (4 * sp.toNat + 1), .s (4 * sp.toNat + 2), .s (4 * sp.toNat + 3)]
  | .ctxmem _ sp _ ra => .s ra.toNat :: [.s (4 * sp.toNat), .s (4 * sp.toNat + 1), .s (4 * sp.toNat + 2), .s (4 * sp.toNat + 3)]
  | .ctxq _ sp _ ra => .s ra.toNat :: [.s (4 * sp.toNat), .s (4 * sp.toNat + 1), .s (4 * sp.toNat + 2), .s (4 * sp.toNat + 3)]
  | .ctxbud _ sp _ ra => .s ra.toNat :: [.s (4 * sp.toNat), .s (4 * sp.toNat + 1), .s (4 * sp.toNat + 2), .s (4 * sp.toNat + 3)]
  | .ctxrunRun _ _ ra rb => [.s ra.toNat, .s rb.toNat]
  | .ctxrunRetry _ _ ra rb => [.s ra.toNat, .s rb.toNat]
  | .ctxrunRefuse _ _ ra rb => [.s ra.toNat, .s rb.toNat]
  | .ctxrunSkip _ _ ra rb => [.s ra.toNat, .s rb.toNat]
  | .ctxstop _ sp _ ra => .s ra.toNat :: [.s (4 * sp.toNat), .s (4 * sp.toNat + 1), .s (4 * sp.toNat + 2), .s (4 * sp.toNat + 3)]
  | .ctxrev _ _ ra => [.s ra.toNat]
  | .ctxdlg _ _ ra rb => [.s ra.toNat, .s rb.toNat]
  | .ctxrd _ _ ra rb => [.s ra.toNat, .s rb.toNat]
  | .ctxsaveSave _ sp _ ra => .s ra.toNat :: [.s (4 * sp.toNat), .s (4 * sp.toNat + 1), .s (4 * sp.toNat + 2), .s (4 * sp.toNat + 3)]
  | .ctxsaveRestore _ sp _ ra => .s ra.toNat :: [.s (4 * sp.toNat), .s (4 * sp.toNat + 1), .s (4 * sp.toNat + 2), .s (4 * sp.toNat + 3)]
  | .shoot _ _ ra rb => [.s ra.toNat, .s rb.toNat]
  | .trap _ _ => []
  | .eret _ => []
  | .sysrd _ _ _ => []
  | .syswr _ rb _ => [.s rb.toNat]
  | .pwracq _ ra => [.s ra.toNat]
  | .pwrrel _ => []
  | .feat _ _ _ => []
  | .cyc _ _ _ => []
  | .tbase _ ra => [.s ra.toNat]
  | .halt _ => []
  | .brk _ _ => []
  | .mcld _ _ ra => [.s ra.toNat]
  | .microcodeS _ _ _ => []
  | .ld _ _ ar _ _ => [.a ar.toNat]
  | .st _ rs ar _ _ => [.a ar.toNat, .s rs.toNat]
  | .ldv _ _ _ ar _ => [.a ar.toNat]
  | .stv _ _ _ ar _ => [.a ar.toNat]
  | .gath _ _ _ ar _ _ => [.a ar.toNat]
  | .scat _ _ _ ar _ => [.a ar.toNat]
  | .spld _ _ _ => []
  | .spst _ rs _ => [.s rs.toNat]
  | .fld _ _ ar _ _ => [.a ar.toNat]
  | .fldv _ _ _ ar _ => [.a ar.toNat]
  | .cbrdVector _ _ _ _ _ => []
  | .cbrdAddress _ _ _ _ => []
  | .cbrel _ _ => []
  | .adrsetImm _ _ _ => []
  | .adrsetReg _ _ rs => [.s rs.toNat]
  | .adraddImm _ ar _ => [.a ar.toNat]
  | .adraddReg _ ar rs => [.a ar.toNat, .s rs.toNat]
  | .scld _ _ ar _ _ => [.a ar.toNat]
  | .ldgScalar _ _ ar _ _ => [.a ar.toNat]
  | .ldgVector _ _ _ ar _ => [.a ar.toNat]
  | .cpyIn _ _ sp _ _ => [.s (4 * sp.toNat), .s (4 * sp.toNat + 1), .s (4 * sp.toNat + 2)]
  | .cpyOut _ _ sp _ _ => [.s (4 * sp.toNat), .s (4 * sp.toNat + 1), .s (4 * sp.toNat + 2)]
  | .cpyg _ _ sp _ _ => [.s (4 * sp.toNat), .s (4 * sp.toNat + 1), .s (4 * sp.toNat + 2)]
  | .cpyb _ _ sp _ _ _ => [.s (4 * sp.toNat), .s (4 * sp.toNat + 1), .s (4 * sp.toNat + 2)]
  | .fill _ _ sp _ _ => [.s (4 * sp.toNat), .s (4 * sp.toNat + 1), .s (4 * sp.toNat + 2)]
  | .cred _ _ sp _ _ _ _ => [.s (4 * sp.toNat), .s (4 * sp.toNat + 1), .s (4 * sp.toNat + 2)]
  | .gld _ _ _ ra _ _ _ => [.s ra.toNat]
  | .gst _ _ rb ra _ _ => [.s ra.toNat, .s rb.toNat]
  | .aadd _ _ sp _ _ _ _ => [.s (4 * sp.toNat), .s (4 * sp.toNat + 1)]
  | .amin _ _ sp _ _ _ _ _ => [.s (4 * sp.toNat), .s (4 * sp.toNat + 1)]
  | .amax _ _ sp _ _ _ _ _ => [.s (4 * sp.toNat), .s (4 * sp.toNat + 1)]
  | .aand _ _ sp _ _ _ _ => [.s (4 * sp.toNat), .s (4 * sp.toNat + 1)]
  | .aor _ _ sp _ _ _ _ => [.s (4 * sp.toNat), .s (4 * sp.toNat + 1)]
  | .axor _ _ sp _ _ _ _ => [.s (4 * sp.toNat), .s (4 * sp.toNat + 1)]
  | .axch _ _ sp _ _ _ _ => [.s (4 * sp.toNat), .s (4 * sp.toNat + 1)]
  | .acas _ _ sp _ _ _ _ => [.s (4 * sp.toNat), .s (4 * sp.toNat + 1), .s (4 * sp.toNat + 2)]
  | .csigCounter _ _ _ _ => []
  | .csigAddress _ _ ra => [.s ra.toNat]
  | .cwaitReg _ _ _ ra => [.s ra.toNat]
  | .cwaitImm _ _ _ _ => []
  | .drain _ _ => []
  | .qadd _ _ _ _ => []
  | .qmax _ _ _ _ => []
  | .qmin _ _ _ _ => []
  | .qdrn _ _ _ _ => []
  | .qclr _ _ _ _ => []
  | .mma _ _ _ aa ab _ _ _ _ _ => [.a aa.toNat, .a ab.toNat]
  | .mmas _ _ _ sp ab _ _ _ _ => [.a ab.toNat, .s (2 * sp.toNat), .s (2 * sp.toNat + 1)]
  | .tzero _ _ _ => []
  | .tld _ _ _ ar _ _ => [.a ar.toNat]
  | .tst _ _ _ ar _ _ _ _ => [.a ar.toNat]
  | .tadd _ _ _ _ _ => []
  | .tmov _ _ _ _ => []
  | .trow _ _ _ => []
  | .vadd e => if e.sbe then [.s e.sbs.toNat] else []
  | .vsub e => if e.sbe then [.s e.sbs.toNat] else []
  | .vmul e => if e.sbe then [.s e.sbs.toNat] else []
  | .vfma e => if e.sbe then [.s e.sbs.toNat] else []
  | .vfms e => if e.sbe then [.s e.sbs.toNat] else []
  | .vmin e => if e.sbe then [.s e.sbs.toNat] else []
  | .vmax e => if e.sbe then [.s e.sbs.toNat] else []
  | .vabs e => if e.sbe then [.s e.sbs.toNat] else []
  | .vneg e => if e.sbe then [.s e.sbs.toNat] else []
  | .vand e => if e.sbe then [.s e.sbs.toNat] else []
  | .vor e => if e.sbe then [.s e.sbs.toNat] else []
  | .vxor e => if e.sbe then [.s e.sbs.toNat] else []
  | .vshl e => if e.sbe then [.s e.sbs.toNat] else []
  | .vshr e => if e.sbe then [.s e.sbs.toNat] else []
  | .vsra e => if e.sbe then [.s e.sbs.toNat] else []
  | .vcmp e => if e.sbe then [.s e.sbs.toNat] else []
  | .vsel e => if e.sbe then [.s e.sbs.toNat] else []
  | .vcvt e => if e.sbe then [.s e.sbs.toNat] else []
  | .vqbfp e => if e.sbe then [.s e.sbs.toNat] else []
  | .vxbfp e => if e.sbe then [.s e.sbs.toNat] else []
  | .vrcp e => if e.sbe then [.s e.sbs.toNat] else []
  | .vrsq e => if e.sbe then [.s e.sbs.toNat] else []
  | .vexp2 e => if e.sbe then [.s e.sbs.toNat] else []
  | .vlog2 e => if e.sbe then [.s e.sbs.toNat] else []
  | .vtanh e => if e.sbe then [.s e.sbs.toNat] else []
  | .vperm e => if e.sbe then [.s e.sbs.toNat] else []
  | .vxc e => if e.sbe then [.s e.sbs.toNat] else []
  | .vbc e => if e.sbe then [.s e.sbs.toNat] else []
  | .vext e => if e.sbe then [.s e.sbs.toNat] else []
  | .viota e => if e.sbe then [.s e.sbs.toNat] else []
  | .vscan e => if e.sbe then [.s e.sbs.toNat] else []
  | .vflg e => if e.sbe then [.s e.sbs.toNat] else []
  | .microcodeVcw _ _ => []
  | .cwaitTimeout _ => []
  | .tdispRequest _ _ => []
  | .vfEnable _ _ => []
  | .sdrWrite _ => []
  | .savedBankBind _ _ => []
  | .trapRecordWrite => []
  | .versionCollect => []
  | .ticketUpdatePerform => []
  | .launchComplete => []
  | .contextFormComplete => []
  | .shootdownProcess => []
  | .unloadComplete => []
  | .getVersion => []
  | .getCapabilities => []
  | .negotiateAlgorithms => []
  | .getDigests => []
  | .getCertificate => []
  | .challenge => []
  | .getMeasurements => []
  | .keyExchange => []
  | .finish => []
  | .coldStart => []
  | .warmStart => []
  | .powerLoss => []
  | .bucketRefill => []

/-- The opcode that a syllable which is not speculable records (R292, R293). -/
def Instr.nspec : Instr → Option Nat
  | .bundleIssue _ => none
  | .asyncAbort _ => none
  | .waitSyllableExecute _ _ _ => none
  | .resultLand _ => none
  | .latchUpdate _ => none
  | .segmentExpand _ => none
  | .fairnessExpiry _ => none
  | .barrierArrival _ => none
  | .barrierComplete _ => none
  | .farRead _ _ => none
  | .farDataArrival _ _ => none
  | .farLoadLand _ => none
  | .gldFault _ => none
  | .xOpStart _ _ => none
  | .tileRelease _ _ => none
  | .mmasRow _ _ => none
  | .packetStart _ _ _ => none
  | .packetGranule _ _ _ => none
  | .packetComplete _ _ _ => none
  | .atomicPerform _ _ _ => none
  | .cmtCommit _ => none
  | .txcCommit _ => none
  | .tkwaitRetire _ => none
  | .tqputComplete _ => none
  | .tqgetComplete _ => none
  | .tqrelComplete _ => none
  | .fenceRetire _ => none
  | .cwaitRetire _ => none
  | .drainRetire _ => none
  | .postEnqueue _ => none
  | .launchEnqueue _ => none
  | .launchBind _ _ => none
  | .taskDispatch _ _ _ => none
  | .bankSwitch _ => none
  | .shareWindowSwitch _ _ => none
  | .watchdogExpiry _ _ => none
  | .handlerForcedEntry _ => none
  | .settleComplete _ => none
  | .droopDetect _ => none
  | .powerGrant _ => none
  | .thermalTrip _ _ => none
  | .mcldLoad _ => none
  | .softError _ => none
  | .sramUncorrectable _ _ => none
  | .cbcWrite _ _ _ _ => none
  | .s1rWrite _ _ => none
  | .tqcWrite _ _ => none
  | .trrWrite _ _ => none
  | .vpoolWrite _ => none
  | .registerWrite _ _ _ => none
  | .uqnNotify _ _ => none
  | .uqdWrite _ _ _ => none
  | .launchPacket _ => none
  | .loadPacket _ => none
  | .unloadPacket _ => none
  | .graphPacket _ => none
  | .replyPacket _ => none
  | .hostMemoryAccess _ => none
  | .fetchadd _ _ => none
  | .swap _ _ => none
  | .cas _ _ _ => none
  | .functionLevelReset _ => none
  | .flitArrival _ _ _ _ => none
  | .add _ _ _ _ _ => none
  | .sub _ _ _ _ _ => none
  | .mul _ _ _ _ _ => none
  | .mulh _ _ _ _ _ _ => none
  | .div _ _ _ _ _ _ => none
  | .rem _ _ _ _ _ _ => none
  | .and _ _ _ _ _ => none
  | .or _ _ _ _ _ => none
  | .xor _ _ _ _ _ => none
  | .andn _ _ _ _ _ => none
  | .shl _ _ _ _ _ => none
  | .shr _ _ _ _ _ => none
  | .sra _ _ _ _ _ => none
  | .min _ _ _ _ _ _ => none
  | .max _ _ _ _ _ _ => none
  | .sel _ _ _ _ _ => none
  | .clz _ _ _ => none
  | .popc _ _ _ => none
  | .movi _ _ _ => none
  | .movhi _ _ _ => none
  | .cmp _ _ _ _ _ _ => none
  | .ext _ _ _ _ _ _ => none
  | .br _ _ _ _ => none
  | .jmp _ _ => none
  | .jmpi _ _ _ => none
  | .call _ _ => none
  | .ret _ _ => none
  | .loopImm _ _ _ => none
  | .loopReg _ _ _ => none
  | .loopbrk _ _ => none
  | .lidx _ _ _ _ => none
  | .seghint _ _ => none
  | .fset _ _ => none
  | .fclr _ _ => none
  | .fop _ _ _ _ _ => none
  | .vcwld _ _ _ _ => some 0x27
  | .gmset _ _ _ => some 0x28
  | .tkwait _ _ _ => some 0x29
  | .tkadv _ _ _ => some 0x2A
  | .tkset _ _ _ => some 0x2B
  | .tqput _ _ _ _ => some 0x2C
  | .tqget _ _ _ _ => some 0x2D
  | .tqrel _ _ _ => some 0x2E
  | .fence _ _ => some 0x2F
  | .post _ _ _ => some 0x30
  | .launch _ _ _ => some 0x31
  | .spat _ _ _ _ => none
  | .sqid _ _ => none
  | .tend _ => some 0x34
  | .chk _ _ => some 0x38
  | .cmt _ => none
  | .abt _ _ => none
  | .gclr _ => none
  | .asrt _ _ => none
  | .rgst _ _ => none
  | .txb _ _ => some 0x3E
  | .txc _ _ => none
  | .snap _ => some 0x40
  | .snape _ => some 0x41
  | .ctxnew _ _ _ => some 0x48
  | .ctxdel _ _ _ => some 0x49
  | .ctxcore _ _ _ _ => some 0x4A
  | .ctxmem _ _ _ _ => some 0x4B
  | .ctxq _ _ _ _ => some 0x4C
  | .ctxbud _ _ _ _ => some 0x4D
  | .ctxrunRun _ _ _ _ => some 0x4E
  | .ctxrunRetry _ _ _ _ => some 0x4E
  | .ctxrunRefuse _ _ _ _ => some 0x4E
  | .ctxrunSkip _ _ _ _ => some 0x4E
  | .ctxstop _ _ _ _ => some 0x4F
  | .ctxrev _ _ _ => some 0x50
  | .ctxdlg _ _ _ _ => some 0x51
  | .ctxrd _ _ _ _ => some 0x52
  | .ctxsaveSave _ _ _ _ => some 0x53
  | .ctxsaveRestore _ _ _ _ => some 0x53
  | .shoot _ _ _ _ => some 0x54
  | .trap _ _ => some 0x58
  | .eret _ => some 0x59
  | .sysrd _ _ _ => some 0x5A
  | .syswr _ _ _ => some 0x5B
  | .pwracq _ _ => some 0x5C
  | .pwrrel _ => some 0x5D
  | .feat _ _ _ => none
  | .cyc _ _ _ => none
  | .tbase _ _ => some 0x60
  | .halt _ => some 0x61
  | .brk _ _ => some 0x62
  | .mcld _ _ _ => some 0x63
  | .microcodeS _ _ _ => none
  | .ld _ _ _ _ _ => none
  | .st _ _ _ _ _ => none
  | .ldv _ _ _ _ _ => none
  | .stv _ _ _ _ _ => none
  | .gath _ _ _ _ _ _ => none
  | .scat _ _ _ _ _ => none
  | .spld _ _ _ => none
  | .spst _ _ _ => none
  | .fld _ _ _ _ _ => none
  | .fldv _ _ _ _ _ => none
  | .cbrdVector _ _ _ _ _ => none
  | .cbrdAddress _ _ _ _ => none
  | .cbrel _ _ => some 0x0B
  | .adrsetImm _ _ _ => none
  | .adrsetReg _ _ _ => none
  | .adraddImm _ _ _ => none
  | .adraddReg _ _ _ => none
  | .scld _ _ _ _ _ => none
  | .ldgScalar _ _ _ _ _ => none
  | .ldgVector _ _ _ _ _ => none
  | .cpyIn _ _ _ _ _ => none
  | .cpyOut _ _ _ _ _ => none
  | .cpyg _ _ _ _ _ => none
  | .cpyb _ _ _ _ _ _ => none
  | .fill _ _ _ _ _ => none
  | .cred _ _ _ _ _ _ _ => none
  | .gld _ _ _ _ _ _ _ => none
  | .gst _ _ _ _ _ _ => none
  | .aadd _ _ _ _ _ _ _ => some 0x08
  | .amin _ _ _ _ _ _ _ _ => some 0x09
  | .amax _ _ _ _ _ _ _ _ => some 0x0A
  | .aand _ _ _ _ _ _ _ => some 0x0B
  | .aor _ _ _ _ _ _ _ => some 0x0C
  | .axor _ _ _ _ _ _ _ => some 0x0D
  | .axch _ _ _ _ _ _ _ => some 0x0E
  | .acas _ _ _ _ _ _ _ => some 0x0F
  | .csigCounter _ _ _ _ => none
  | .csigAddress _ _ _ => none
  | .cwaitReg _ _ sb _ => if sb then some 0x11 else none
  | .cwaitImm _ _ sb _ => if sb then some 0x11 else none
  | .drain _ _ => some 0x12
  | .qadd _ _ _ _ => none
  | .qmax _ _ _ _ => none
  | .qmin _ _ _ _ => none
  | .qdrn _ _ _ _ => none
  | .qclr _ _ _ _ => none
  | .mma _ _ _ _ _ _ _ _ _ _ => none
  | .mmas _ _ _ _ _ _ _ _ _ => none
  | .tzero _ _ _ => none
  | .tld _ _ _ _ _ _ => none
  | .tst _ _ _ _ _ _ _ _ => none
  | .tadd _ _ _ _ _ => none
  | .tmov _ _ _ _ => none
  | .trow _ _ cl => if cl then some 0x07 else none
  | .vadd _ => none
  | .vsub _ => none
  | .vmul _ => none
  | .vfma _ => none
  | .vfms _ => none
  | .vmin _ => none
  | .vmax _ => none
  | .vabs _ => none
  | .vneg _ => none
  | .vand _ => none
  | .vor _ => none
  | .vxor _ => none
  | .vshl _ => none
  | .vshr _ => none
  | .vsra _ => none
  | .vcmp _ => none
  | .vsel _ => none
  | .vcvt _ => none
  | .vqbfp _ => none
  | .vxbfp _ => none
  | .vrcp _ => none
  | .vrsq _ => none
  | .vexp2 _ => none
  | .vlog2 _ => none
  | .vtanh _ => none
  | .vperm _ => none
  | .vxc _ => none
  | .vbc _ => none
  | .vext _ => none
  | .viota _ => none
  | .vscan _ => none
  | .vflg _ => none
  | .microcodeVcw _ _ => none
  | .cwaitTimeout _ => none
  | .tdispRequest _ _ => none
  | .vfEnable _ _ => none
  | .sdrWrite _ => none
  | .savedBankBind _ _ => none
  | .trapRecordWrite => none
  | .versionCollect => none
  | .ticketUpdatePerform => none
  | .launchComplete => none
  | .contextFormComplete => none
  | .shootdownProcess => none
  | .unloadComplete => none
  | .getVersion => none
  | .getCapabilities => none
  | .negotiateAlgorithms => none
  | .getDigests => none
  | .getCertificate => none
  | .challenge => none
  | .getMeasurements => none
  | .keyExchange => none
  | .finish => none
  | .coldStart => none
  | .warmStart => none
  | .powerLoss => none
  | .bucketRefill => none

/-- The syllable's predicate (R49). -/
def State.pred (s : State) (c : Ctl) : Bool := s.rf c.pf.toNat != c.pi

/-- The poison cause of a syllable, for the first poisoned register it reads (R145, R422). -/
def State.poisonCause (s : State) (i : Instr) : List Cause :=
  let ls := match i.ctl with
    | some c => Loc.f c.pf.toNat :: Instr.sources i
    | none => Instr.sources i
  if ls.any (fun l => s.b.poison.contains l) then [s.cause 3 0] else []

/-- What takes the place of the effect of a form that is not speculable, in an open region: the region aborts at the end of
the bundle (R292, R293). -/
def State.unlessBarred (s : State) (i : Instr) (eff : State → State) : State :=
  match (if s.b.region.isSome then Instr.nspec i else none) with
  | some op => s.abortSync 5 op 0
  | none => eff s

/-- WHAT EVERY SYLLABLE SHARES. A false predicate leaves everything as it was (R49). A syllable standing alone makes its
checks here: in an open region a precise cause aborts the region (R354), outside one the first cause is taken (R48, R353).
Otherwise the effect takes place, or the abort of a form that is not speculable, which a cause comes before (R293, R294). In
an issue of several syllables the checks of all are collected first, and the effects follow when none has failed. The
predicate, the checks and the effect of one syllable see the same free values; the next draws new ones. -/
def State.syl (s : State) (i : Instr) (c : Ctl) (causes : List Cause) (eff : State → State) : State :=
  State.draw <|
    if !s.pred c then s
    else
      let cs := s.poisonCause i ++ causes
      match s.cur.phase with
      | .commit => s.unlessBarred i eff
      | .collect => { s with cur := { s.cur with found := s.cur.found ++ cs } }
      | .alone =>
        match worst cs with
        | some x => if s.b.region.isSome then s.abortSync 6 x.num 0 else s.takeTrap x
        | none => s.unlessBarred i eff

end Sys2Proof.Machine
end

