-- ==== Sys2Proof/Machine/Global.lean ====
section
/-! DEFINITION. Global memory: the system-physical address map (R230, R424), two-stage translation (R223 to R226, R323
to R327), and the versioned memory store (R300 to R305). -/

namespace Sys2Proof.Machine

open Sys2Proof

/-! ### The address map -/

/-- The one address of a location: the fabric window's name of this package is its local address (R230). -/
def State.canon (s : State) (pa : Nat) : Nat :=
  if pa.testBit 51 ∧ fld pa 50 43 = rfld s.pkgid 7 0 then pa % 2 ^ 43 else pa

/-- The address lies in an HBM stack of this package (R424). -/
def inHbm (pa : Nat) : Bool := pa < 2 ^ 39

/-- The address names another package's memory (R230). -/
def foreign (pa : Nat) : Bool := pa.testBit 51

/-- A byte of system-physical memory. -/
def State.gByte (s : State) (pa : Nat) : Byte :=
  let a := s.canon pa
  if inHbm a then s.mem.read a else s.remote.read a

/-- Bytes of system-physical memory. -/
def State.gRead (s : State) (pa n : Nat) : List Byte := (List.range n).map fun i => s.gByte (pa + i)

/-- A little-endian number in system-physical memory. -/
def State.gNat (s : State) (pa n : Nat) : Nat := leNat (s.gRead pa n)

/-- Writes bytes to system-physical memory. -/
def State.gPut (s : State) (pa : Nat) (bs : List Byte) : State :=
  let a := s.canon pa
  if inHbm a then { s with mem := s.mem.writeN a bs } else { s with remote := s.remote.writeN a bs }

/-- A port that carries flits reaches the package of an address: the package at its far end, or one that the fabric reaches
through it (R230, R417; assumption log, entry 19). -/
def State.linkUp (s : State) (pa : Nat) : Bool :=
  s.klp.any fun e => e.2.getLsbD 63 &&
    (rfld e.2 62 55 == fld pa 50 43 || Config.routes (rfld e.2 62 55) (fld pa 50 43))

/-- The address lies in the version pool: the top GIB/8 GiB of each stack (R416, R424). -/
def State.inPool (s : State) (pa : Nat) : Bool :=
  let a := s.canon pa
  inHbm a && decide (2 ^ 36 ≤ a % 2 ^ 36 + min (rfld s.vpool 6 0) 64 * 2 ^ 27)

/-- Bytes of system-physical memory as an access reads them: what stands in the version pool is open (R416; assumption log,
entry 107). -/
def State.seen (s : State) (pa n : Nat) : List Byte :=
  (List.range n).map fun i => if s.inPool (pa + i) then .ofNat 8 (s.undef 8 [416, pa + i]) else s.gByte (pa + i)

/-- A line is poison (R422). -/
def State.gPoison (s : State) (pa : Nat) : Bool := s.poison.contains (s.canon pa / 128)

/-! ### Translation -/

/-- The engines of a leaf's mask: k0 to k3, MMAS, instruction fetch (R19, R224). -/
inductive Eng where
  | k (n : Nat) | mmas | fetch

/-- The bit of EM, counted from [55], that an engine needs (R224). -/
def Eng.bit : Eng → Nat
  | .k n => 5 - n
  | .mmas => 1
  | .fetch => 0

/-- A fault of an access: its cause in KFR (R227: 1 NOMAP, 2 PERM, 3 ENGINE, 4 FORMAT, 5 CONF, 6 LINK, 7 STAGE2, 8 POOL)
and, for STAGE2, the context-physical address (R335). -/
structure WalkFault where
  cause : Nat
  cp    : Nat
  deriving DecidableEq, Repr

/-- A fault other than STAGE2. -/
def WalkFault.of (cause : Nat) : WalkFault := ⟨cause, 0⟩

/-- A composed leaf for one 64 KiB page (R324). -/
abbrev Leaf := Tlb

/-- Stage 2 of a context at an address: the system-physical address and the leaf; the identity for the root (R323). -/
def State.stage2 (s : State) (ctx cp : Nat) : Option (Nat × Leaf2) :=
  if ctx = 0 then some (cp, ⟨cp / 65536, true, true, false, -1, false, false, 0, 0⟩)
  else match (s.ctx ctx).s2.find (cp / 65536) with
    | some l => some (l.frame * 65536 + cp % 65536, l)
    | none => none

/-- Reserved bits, L, SZ and the alignment of an entry at a level, for a table pointer (R224). -/
def tableOk (level e : Nat) : Bool :=
  level < 3 && fld e 62 52 == 0 && fld e 7 6 == 0 && fld e 4 0 == 0 && (level == 2 || fld e 11 8 == 0)

/-- The same for a leaf. -/
def leafOk (level e : Nat) : Bool :=
  level > 0 && fld e 52 52 == 0 && fld e 4 0 == 0 && fld e 7 6 == 3 - level &&
    (match level with | 1 => fld e 29 16 == 0 | 2 => fld e 20 16 == 0 | _ => true)

/-- The index of a level (R223). -/
def vaIndex (level va : Nat) : Nat :=
  match level with
  | 0 => fld va 55 39 | 1 => fld va 38 30 | 2 => fld va 29 21 | _ => fld va 20 16

/-- The bits below a leaf's page at a level. -/
def pageBits : Nat → Nat
  | 1 => 30 | 2 => 21 | _ => 16

/-- Walks stage 1 from a table at a context-physical address; the answer is the leaf entry and the context-physical
address of the access (R223, R224, R323, R324). -/
def State.walk1 (s : State) (ctx va : Nat) : Nat → Nat → Nat → Except WalkFault (Nat × Nat)
  | 0, _, _ => .error (.of 4)
  | fuel + 1, level, table =>
    let cp := table + 8 * vaIndex level va
    match s.stage2 ctx cp with
    | none => .error ⟨7, cp⟩
    | some (pa, l2) =>
      if !l2.rp then .error ⟨7, cp⟩
      else
        let e := s.gNat pa 8
        if !e.testBit 63 then .error (.of 1)
        else if e.testBit 5 then
          if leafOk level e then .ok (e, fld e 51 16 * 65536 + va % 2 ^ pageBits level) else .error (.of 4)
        else if tableOk level e then s.walk1 ctx va fuel (level + 1) (fld e 51 8 * 256) else .error (.of 4)

/-- The root of a context's stage 1; while a change of S1R is in progress the old or the new one, which one unspecified
(R323). -/
def State.s1root (s : State) (ctx : Nat) : Nat :=
  let c := s.ctx ctx
  let r := match c.s1rOld with
    | some old => if s.pick 2 [323, ctx] = 0 then old else c.s1r
    | none => c.s1r
  rfld r 51 20 * 2 ^ 20

/-- A whole walk with the checks of R224 in order, and then the stage-2 leaf of the output (R324). -/
def State.walk (s : State) (eng : Eng) (wr : Bool) (ctx va : Nat) (rd : Bool := !wr) : Except WalkFault Leaf :=
  match s.walk1 ctx va 4 0 (s.s1root ctx) with
  | .error f => .error f
  | .ok (e, cp) =>
    let em : BitVec 6 := .ofNat 6 (fld e 60 55)
    if !em.getLsbD eng.bit then .error (.of 3)
    else if (rd && !e.testBit 62) || (wr && !e.testBit 61) then .error (.of 2)
    else match s.stage2 ctx cp with
      | none => .error ⟨7, cp⟩
      | some (pa, l) =>
        if (rd && !l.rp) || (wr && !l.wp) || !l.em.getLsbD eng.bit then .error ⟨7, cp⟩
        else .ok ⟨ctx, va / 65536, cp / 65536, pa / 65536, e.testBit 62 && l.rp, e.testBit 61 && l.wp, em &&& l.em,
          e.testBit 54, e.testBit 53 || l.conf, if ctx = 0 then fld e 15 8 else l.bkt, e⟩

/-- A translation held by a TLB serves the access (R225). -/
def Tlb.serves (t : Tlb) (eng : Eng) (rd wr : Bool) (ctx va : Nat) : Bool :=
  t.ctx == ctx && t.page == va / 65536 && (!rd || t.rp) && (!wr || t.wp) && t.em.getLsbD eng.bit

/-- A shoot-down of a stage of a context has been posted and not processed (R325). -/
def State.shooting (s : State) (stage ctx : Nat) : Bool := s.shoots.any fun q => q.stage == stage && q.ctx == ctx

/-- A change of one stage of a context overlaps one of the other, and the later of the two is still in progress (R327). -/
def State.lapping (s : State) (ctx : Nat) : Bool := s.shoots.any fun q => q.ctx == ctx && q.lap

/-- The entry's stage 1 is the one of now: by its tag, where no change of the root is in progress, or because the walk finds
the same entry (R325, R327). -/
def State.newStage1 (s : State) (t : TlbEnt) (va : Nat) : Bool :=
  (t.g1 == (s.ctx t.leaf.ctx).g1 && (s.ctx t.leaf.ctx).s1rOld.isNone) ||
    match s.walk1 t.leaf.ctx va 4 0 (rfld (s.ctx t.leaf.ctx).s1r 51 20 * 2 ^ 20) with
    | .ok (e, cp) => e == t.leaf.ent && cp / 65536 == t.leaf.cpage
    | .error _ => false

/-- The entry combines a new stage 1 with an old stage 2 while overlapping changes of both are not over, which R327 forbids;
`w` is the translation of now. -/
def State.mixed (s : State) (t : TlbEnt) (va : Nat) (w : Except WalkFault Leaf) : Bool :=
  s.lapping t.leaf.ctx && s.newStage1 t va && match w with
  | .ok l => l != t.leaf
  | .error _ => true

/-- A page of a context whose stage 2 is changing, through an old entry of the die's nested TLB; never where the change
overlaps one of stage 1 (R327). -/
def State.nested1 (s : State) (eng : Eng) (rd wr : Bool) (ctx va : Nat) : List Leaf :=
  if ctx = 0 ∨ !s.shooting 2 ctx ∨ s.lapping ctx then []
  else match s.walk1 ctx va 4 0 (s.s1root ctx) with
    | .error _ => []
    | .ok (e, cp) => s.nests.filterMap fun n =>
        let l : Leaf := ⟨ctx, va / 65536, cp / 65536, n.leaf.frame, e.testBit 62 && n.leaf.rp, e.testBit 61 && n.leaf.wp,
          .ofNat 6 (fld e 60 55) &&& n.leaf.em, e.testBit 54, e.testBit 53 || n.leaf.conf, n.leaf.bkt, e⟩
        if n.die = dieOf s.b.core ∧ n.ctx = ctx ∧ n.cpage = cp / 65536 ∧ l.serves eng rd wr ctx va = true then some l else none

/-- The translations beside the walk's that the TLBs of the core and its die still hold for an access (R18, R225). -/
def State.heldLeaves (s : State) (eng : Eng) (rd wr : Bool) (ctx va : Nat) (w : Except WalkFault Leaf) : List Leaf :=
  let same (t : Leaf) : Bool := match w with | .ok l => t == l | .error _ => false
  let here (t : TlbEnt) : Bool := t.place == s.b.core || t.place == 1024 + dieOf s.b.core
  ((s.tlb.filter fun t => here t && t.leaf.serves eng rd wr ctx va && !(s.mixed t va w)).map (·.leaf) ++
    s.nested1 eng rd wr ctx va).filter fun l => !(same l)

/-- Translates one access (R225): by a walk, or by a translation that the TLBs still hold, which one unspecified until
the invalidation of the latter has been processed (R327). An address with bits [63:56] set has no translation. -/
def State.translate (s : State) (eng : Eng) (wr : Bool) (ctx va : Nat) (rd : Bool := !wr) : Except WalkFault Leaf :=
  if va ≥ 2 ^ 56 then .error (.of 1)
  else
    let w := s.walk eng wr ctx va rd
    match s.heldLeaves eng rd wr ctx va w with
    | [] => w
    | t :: ts => (w :: (t :: ts).map Except.ok).getD (s.pick (ts.length + 2) [225, ctx, va]) w

/-- A new entry of a table of `size` places that `mine` tells from the others of a list: the oldest of its own leaves. -/
def enterTable {α : Type} (mine : α → Bool) (size : Nat) (x : α) (xs : List α) : List α :=
  let xs := if (xs.filter mine).length < size then xs else
    let (a, b) := (xs.takeWhile fun y => !mine y, xs.dropWhile fun y => !mine y)
    a ++ b.drop 1
  xs ++ [x]

/-- The TLBs of the core and of its die, and the die's nested TLB, keep a translation that an access used (R18, R225). -/
def State.fillTlb (s : State) (l : Leaf) : State :=
  let c := s.ctx l.ctx
  let core := s.b.core
  let die := dieOf core
  let add (place size : Nat) (xs : List TlbEnt) : List TlbEnt :=
    if xs.any fun t => t.place == place && t.leaf == l then xs
    else enterTable (fun t => t.place == place) size ⟨l, c.g1, c.g2, place⟩ xs
  let nest := match (if l.ctx = 0 then none else c.s2.find l.cpage) with
    | some x =>
      if s.nests.any fun n => n.die == die && n.ctx == l.ctx && n.cpage == l.cpage && n.leaf == x then s.nests
      else enterTable (fun n : Nest => n.die == die) 1024 ⟨die, l.ctx, l.cpage, x, c.g2⟩ s.nests
    | none => s.nests
  { s with tlb := add (1024 + die) 4096 (add core 96 s.tlb), nests := nest }

/-- The system-physical address of an access through a leaf. -/
def Leaf.pa (l : Leaf) (va : Nat) : Nat := Tlb.frame l * 65536 + va % 65536

/-- The first write through a stage-2 leaf with dirty tracking sets its D bit (R341). -/
def State.markDirty (s : State) (l : Leaf) : State :=
  s.modCtx (Tlb.ctx l) fun c => match c.s2.find (Tlb.cpage l) with
    | some e => if e.dt then { c with s2 := c.s2.put (Tlb.cpage l) { e with d := true } } else c
    | none => c

/-- The context whose bucket is in force: the nearest from `n` upward with a bucket of its own, or the root (R328). -/
def State.bucketOf (s : State) : Nat → Nat → Nat
  | 0, _ => 0
  | fuel + 1, n => if n = 0 then 0 else if (s.ctx n).bucket.getLsbD 63 then n else s.bucketOf fuel (s.ctx n).parent

/-- The memory controller of an address of this package's HBM (R8, R424). -/
def controller (pa : Nat) : Nat := 16 * (pa / 2 ^ 36) + fld pa 10 7

/-- The buckets that an access through a leaf takes a token from: its own, and the giver's when it is nested; the root's
bucket is unlimited (R225, R329). -/
def State.buckets (s : State) (l : Leaf) : List Nat :=
  match s.ctxs.find? fun e => e.2.bucket.getLsbD 63 && e.2.bid == Tlb.bkt l && Tlb.bkt l != 0 with
  | none => []
  | some e =>
    let h := s.bucketOf 9 e.2.parent
    Tlb.bkt l :: (if h = 0 then [] else [(s.ctx h).bid])

/-- The home controller has a token for the access in each of its buckets; an access waits until it has (R225, R329). -/
def State.hasToken (s : State) (l : Leaf) (va : Nat) : Bool :=
  let pa := s.canon (Leaf.pa l va)
  !(inHbm pa) || (s.buckets l).all fun k => decide (0 < s.tokens.get 0 (256 * controller pa + k))

/-- The access is charged at its home controller (R225). -/
def State.charge (s : State) (l : Leaf) (va : Nat) : State :=
  let pa := s.canon (Leaf.pa l va)
  if inHbm pa then { s with tokens := (s.buckets l).foldl (fun m k => m.upd 0 (256 * controller pa + k) (· - 1)) s.tokens } else s

/-! ### Versions (R300 to R305) -/

/-- A packet reads global memory, and its bank's snapshot counts until it has (R303, R399): not a fill, a store or a counter,
and of the bank's buffered copies only those that the buffer's direction makes inbound. -/
def Bank.readsSnap (b : Bank) (col : Nat) (p : Pkt) : Bool := match p.kind with
  | .cpyIn | .cpyg | .gld _ | .mmas _ | .atomic .. | .cred .. | .csigAddress => true
  | .cpyb => !(b.cb (8 * col + p.buf)).out
  | _ => false

/-- Live snapshots: an ended one counts until every read that its bank issued under it has been performed, also where the bank
is saved (R399). -/
def State.liveSnaps (s : State) : List Snap :=
  (s.snaps.map Prod.snd).filter fun x => !x.ended || match (if x.bank < 4096 then s.bank? x.bank
      else (s.saved.find? fun e => 4096 + e.1.uid == x.bank).map Prod.fst) with
    | some b => b.queues.any (fun e => e.2.pkts.any fun p => p.snap == some x.ts && !p.done && b.readsSnap (e.1 / 4) p) ||
        b.streams.any fun e => e.2.snap == some x.ts
    | none => false

/-- The floor: the least begin timestamp of a live snapshot, or VCTR when there is none (R301). -/
def State.vflr (s : State) : Nat := (leastBy id (s.liveSnaps.map (·.ts))).getD s.vctr.toNat

/-- The greatest begin timestamp of a live snapshot, or 0 (R301). -/
def State.vceil (s : State) : Nat := (s.liveSnaps.map (·.ts)).foldl max 0

/-- The versions kept in the pool fit (R304, R416). -/
def State.poolRoom (s : State) (n : Nat) : Bool :=
  (s.vers.map fun e => e.2.old.length).foldl (· + ·) 0 + n ≤ min (rfld s.vpool 6 0) 64 * 2 ^ 23

/-- A line is locked by a commit whose timestamp has been drawn and that the read must wait for (R303). -/
def State.lockedFor (s : State) (line : Nat) (snap : Option Nat) : Bool :=
  match s.locks.find line with
  | some (_, some tc) => match snap with
    | some t => tc ≤ t
    | none => true
  | _ => false

/-- A byte of a versioned line as a reader sees it (R303). -/
def State.verByte (s : State) (pa : Nat) (snap : Option Nat) : Byte :=
  let a := s.canon pa
  match snap, s.vers.find (a / 128) with
  | some t, some v =>
    if v.ts ≤ t then s.gByte pa
    else match v.old.find? fun o => o.1 ≤ t with
      | some o => o.2.1.getD (a % 128) 0
      | none => s.gByte pa
  | _, _ => s.gByte pa

/-- The line that a reader of a versioned line sees is poison (R303, R422). -/
def State.verPoison (s : State) (pa : Nat) (snap : Option Nat) : Bool :=
  match snap, s.vers.find (s.canon pa / 128) with
  | some t, some v =>
    if v.ts ≤ t then s.gPoison pa
    else match v.old.find? fun o => o.1 ≤ t with
      | some o => o.2.2
      | none => s.gPoison pa
  | _, _ => s.gPoison pa

/-- Bytes read through a leaf: of the version that the snapshot selects on a versioned page. -/
def State.readVia (s : State) (l : Leaf) (va n : Nat) (snap : Option Nat) : List Byte :=
  let pa := Leaf.pa l va
  if Tlb.ver l then (List.range n).map fun i => s.verByte (pa + i) snap else s.seen pa n

/-- What is read so is poison. -/
def State.badVia (s : State) (l : Leaf) (va : Nat) (snap : Option Nat) : Bool :=
  if Tlb.ver l then s.verPoison (Leaf.pa l va) snap else s.gPoison (Leaf.pa l va)

/-- A line as the version pool keeps it: its bytes and its poison (R300, R422). -/
def State.kept (s : State) (line : Nat) : List Byte × Bool := (s.gRead (line * 128) 128, s.gPoison (line * 128))

/-- A plain write to a versioned line keeps the old version where a live snapshot can read it, and otherwise changes the
newest in place; a full pool refuses it with POOL (R304). -/
def State.versionFor (s : State) (line : Nat) : Except WalkFault State :=
  let v := s.vers.get ⟨0, []⟩ line
  let s' := { s with vctr := s.vctr + 1 }
  if !s.liveSnaps.isEmpty ∧ v.ts ≤ s.vceil then
    if s.poolRoom 1 then
      .ok { s' with vers := s.vers.put line ⟨(s.vctr + 1).toNat, (v.ts, s.kept line) :: v.old⟩ }
    else .error (.of 8)
  else .ok { s with vers := s.vers.put line ⟨s.vctr.toNat, v.old⟩ }

/-- The line of an access. -/
def State.lineOf (s : State) (l : Leaf) (va : Nat) : Nat := s.canon (Leaf.pa l va) / 128

/-- An access to a line of queue `k` of the bank in focus stands behind one that a memory port or an egress on its way has
accepted and that is not performed at its home yet (R377). -/
def State.behind (s : State) (k line : Nat) : Bool :=
  s.bound.any fun x => x.queues.any fun e => !(x.key == s.b.key && e.1 == k) && e.2.pkts.any fun p => p.posted.any fun w =>
    (decide (w.point ≥ 3) || (decide (w.point = 2) && dieOf x.core == dieOf s.b.core) || (decide (w.point = 1) && x.core == s.b.core)) &&
      s.lineOf w.leaf w.va == line

/-- An access waits at its core's memory port: for a token of its buckets, or behind another to the line (R225, R377). -/
def State.portWaits (s : State) (k : Nat) (l : Leaf) (va : Nat) : Bool := !(s.hasToken l va) || s.behind k (s.lineOf l va)

/-- The points that an access passes before its home: the core's memory port, and the egresses of the die and the package
(R377, R424). -/
def State.pointsTo (s : State) (l : Leaf) (va : Nat) : Nat :=
  let pa := s.canon (Leaf.pa l va)
  if inHbm pa then (if pa / 2 ^ 36 = dieOf s.b.core then 1 else 2) else 3

/-- A line reached through a leaf whose page is not versioned keeps no older versions: VER has been cleared, and when it is
set again the line starts at timestamp 0 (R300). -/
def State.unversion (s : State) (l : Leaf) (va : Nat) : State :=
  if Tlb.ver l then s else { s with vers := s.vers.del (s.lineOf l va) }

/-- Bytes written through a leaf at their home, within one line (R213, R304, R421). With `whole` the write begins a
whole line written clean, which is no longer poison. -/
def State.writeVia (s : State) (l : Leaf) (va : Nat) (bs : List Byte) (poison : Bool := false) (whole : Bool := false) :
    Except WalkFault State :=
  let pa := Leaf.pa l va
  let line := s.canon pa / 128
  if foreign (s.canon pa) ∧ !s.linkUp (s.canon pa) then .error (.of 6)
  else
    let s1 := if Tlb.ver l ∧ !bs.isEmpty then s.versionFor line else .ok (s.unversion l va)
    match s1 with
    | .error f => .error f
    | .ok s =>
      let s := ((s.gPut pa bs).markDirty l).charge l va
      .ok { s with poison := if poison then line :: s.poison.filter (· != line)
                             else if whole then s.poison.filter (· != line) else s.poison }

/-- The begin timestamp of the bank's snapshot (R301). -/
def Bank.snapTs (b : Bank) : Option Nat := if b.vsnp.getLsbD 63 then some (rfld b.vsnp 55 0) else none

/-- Some byte of a read lies in another package's memory that no link reaches (R231). -/
def State.unlinked (s : State) (l : Leaf) (va : Nat) : Bool := foreign (s.canon (Leaf.pa l va)) && !s.linkUp (s.canon (Leaf.pa l va))

/-- One access of a copy queue or stream faults (R196, R227 to R229, R231): the queue suspends and its fault register is
set. A fault of a region aborts it instead (R292). A fault that the link cannot deliver is refused at once. The fault is
reported here, but for a GLD or a returning atomic, whose report comes with GLD_FAULT. -/
def State.copyFault (s : State) (k : Nat) (reg far : Bool) (f : WalkFault) (wr : Bool) (va : Nat) : State :=
  let fa := .ofNat 64 (if f.cause = 7 then f.cp else va % 2 ^ 56)
  let reg := reg && !s.b.committing
  let q : Queue := { s.b.queues.get .empty k with susp := true, told := reg || !far || f.cause == 6, fa := fa }
  let s := s.modB fun b => { b with queues := b.queues.put k q }
  if reg then s.modB (·.abortAsync 8 f.cause)
  else
    let r : DWord := .ofNat 64 (pack [(1, 1), (4, f.cause), (1, wr.toNat), (2, 0), (56, va % 2 ^ 56)])
    let s := s.modB fun b => { b with kfr := b.kfr.put k r }
    let c : Cause := ⟨6, f.cause, 6, k / 4, fa, r, false, .after, f.cause == 7, some k⟩
    if f.cause = 6 then s.refuseFault c
    else if far then s
    else s.report c false

/-- VERSION_COLLECT: Parsnip frees every version that no live snapshot can reach (R305). -/
def execVersionCollect (s : State) : Host.Outcome State Fault Refusal :=
  let fl := s.vflr
  let keep (v : Vers) : Vers :=
    if v.ts ≤ fl then { v with old := [] }
    else { v with old := (v.old.filter fun o => fl < o.1) ++ (v.old.find? fun o => o.1 ≤ fl).toList }
  .next { s with vers := s.vers.mapVals keep }

end Sys2Proof.Machine
end

