-- ==== Sys2Proof/Machine/Scalar.lean ====
section
/-! DEFINITION. Scalar arithmetic, logic, moves, compares and flags (R98 to R107), the loop read (R118) and the
sequencer's own reads (R267, R268, R295, R358, R366). -/

namespace Sys2Proof.Machine

open Sys2Proof

/-- Every meaning ends in a next state of this form. -/
abbrev Out := Host.Outcome State Fault Refusal

/-- A two-operand ALU form: `f` of s[RA] and B, with its bound (R98). -/
def State.alu (s : State) (rd ra : BitVec 6) (i zext : Bool) (b : BitVec 6) (bound : Nat) (f : DWord → DWord → DWord) : State :=
  s.resS rd.toNat (f (s.rs ra.toNat) (s.aluB i zext b)) bound

/-- The high half of a product (R98). -/
def mulHigh (unsigned : Bool) (x y : DWord) : DWord :=
  if unsigned then .ofNat 64 (x.toNat * y.toNat / 2 ^ 64) else .ofInt 64 (x.toInt * y.toInt / (2 ^ 64 : Nat))

/-- The quotient, truncated toward zero, with the fixed cases of R99. -/
def quotient (unsigned : Bool) (x y : DWord) : DWord :=
  if y = 0 then -1 else if unsigned then .ofNat 64 (x.toNat / y.toNat) else .ofInt 64 (x.toInt.tdiv y.toInt)

/-- The remainder, of the dividend's sign, with the fixed cases of R99. -/
def remainder (unsigned : Bool) (x y : DWord) : DWord :=
  if y = 0 then x else if unsigned then .ofNat 64 (x.toNat % y.toNat) else .ofInt 64 (x.toInt.tmod y.toInt)

/-- x < y in the signedness of the form. -/
def lessThan (unsigned : Bool) (x y : DWord) : Bool := if unsigned then x.toNat < y.toNat else x.toInt < y.toInt

/-- The number of leading zero bits, 64 for zero (R101). -/
def leadingZeros (x : DWord) : Nat := if x = 0 then 64 else 63 - x.toNat.log2

/-- The number of one bits (R101). -/
def onesCount (x : DWord) : Nat := ((List.range 64).filter fun k => x.getLsbD k).length

/-- The condition codes of CMP (R104). -/
def cmpCond (cc : BitVec 3) (x y : DWord) : Bool :=
  match cc.toNat with
  | 0 => x == y
  | 1 => x != y
  | 2 => lessThan false x y
  | 3 => !lessThan false x y
  | 4 => lessThan true x y
  | 5 => !lessThan true x y
  | 6 => (x &&& y) != 0
  | _ => (x &&& y) == 0

/-- The field that EXT takes, extended (R103). -/
def extField (x : DWord) (wc : BitVec 2) (sg : Bool) (bo : BitVec 3) : DWord :=
  let w := 8 * 2 ^ wc.toNat
  let n := x.toNat / 2 ^ (8 * bo.toNat) % 2 ^ w
  if sg then .ofInt 64 (sval w n) else .ofNat 64 n

/-- ADD (R98). -/
def execAdd (c : Ctl) (rd ra : BitVec 6) (i : Bool) (b : BitVec 6) (s : State) : Out :=
  .next (s.syl (.add c rd ra i b) c [] fun s => s.alu rd ra i false b 1 fun x y => x + y)

/-- SUB (R98). -/
def execSub (c : Ctl) (rd ra : BitVec 6) (i : Bool) (b : BitVec 6) (s : State) : Out :=
  .next (s.syl (.sub c rd ra i b) c [] fun s => s.alu rd ra i false b 1 fun x y => x - y)

/-- MUL, with a bound of 3 (R69, R98). -/
def execMul (c : Ctl) (rd ra : BitVec 6) (i : Bool) (b : BitVec 6) (s : State) : Out :=
  .next (s.syl (.mul c rd ra i b) c [] fun s => s.alu rd ra i false b 3 fun x y => x * y)

/-- MULH, with a bound of 3 (R69, R98). -/
def execMulh (c : Ctl) (rd ra : BitVec 6) (i m : Bool) (b : BitVec 6) (s : State) : Out :=
  .next (s.syl (.mulh c rd ra i m b) c [] fun s => s.alu rd ra i m b 3 (mulHigh m))

/-- DIV, with a bound of 24 (R69, R99). -/
def execDiv (c : Ctl) (rd ra : BitVec 6) (i m : Bool) (b : BitVec 6) (s : State) : Out :=
  .next (s.syl (.div c rd ra i m b) c [] fun s => s.alu rd ra i m b 24 (quotient m))

/-- REM, with a bound of 24 (R69, R99). -/
def execRem (c : Ctl) (rd ra : BitVec 6) (i m : Bool) (b : BitVec 6) (s : State) : Out :=
  .next (s.syl (.rem c rd ra i m b) c [] fun s => s.alu rd ra i m b 24 (remainder m))

/-- AND (R98). -/
def execAnd (c : Ctl) (rd ra : BitVec 6) (i : Bool) (b : BitVec 6) (s : State) : Out :=
  .next (s.syl (.and c rd ra i b) c [] fun s => s.alu rd ra i false b 1 fun x y => x &&& y)

/-- OR (R98). -/
def execOr (c : Ctl) (rd ra : BitVec 6) (i : Bool) (b : BitVec 6) (s : State) : Out :=
  .next (s.syl (.or c rd ra i b) c [] fun s => s.alu rd ra i false b 1 fun x y => x ||| y)

/-- XOR (R98). -/
def execXor (c : Ctl) (rd ra : BitVec 6) (i : Bool) (b : BitVec 6) (s : State) : Out :=
  .next (s.syl (.xor c rd ra i b) c [] fun s => s.alu rd ra i false b 1 fun x y => x ^^^ y)

/-- ANDN (R98). -/
def execAndn (c : Ctl) (rd ra : BitVec 6) (i : Bool) (b : BitVec 6) (s : State) : Out :=
  .next (s.syl (.andn c rd ra i b) c [] fun s => s.alu rd ra i false b 1 fun x y => x &&& ~~~y)

/-- SHL: a shift uses bits [5:0] of B (R98). -/
def execShl (c : Ctl) (rd ra : BitVec 6) (i : Bool) (b : BitVec 6) (s : State) : Out :=
  .next (s.syl (.shl c rd ra i b) c [] fun s => s.alu rd ra i true b 1 fun x y => x <<< (y.toNat % 64))

/-- SHR, zero-filled (R98). -/
def execShr (c : Ctl) (rd ra : BitVec 6) (i : Bool) (b : BitVec 6) (s : State) : Out :=
  .next (s.syl (.shr c rd ra i b) c [] fun s => s.alu rd ra i true b 1 fun x y => x >>> (y.toNat % 64))

/-- SRA, sign-filled (R98). -/
def execSra (c : Ctl) (rd ra : BitVec 6) (i : Bool) (b : BitVec 6) (s : State) : Out :=
  .next (s.syl (.sra c rd ra i b) c [] fun s => s.alu rd ra i true b 1 fun x y => x.sshiftRight (y.toNat % 64))

/-- MIN (R98). -/
def execMin (c : Ctl) (rd ra : BitVec 6) (i m : Bool) (b : BitVec 6) (s : State) : Out :=
  .next (s.syl (.min c rd ra i m b) c [] fun s => s.alu rd ra i m b 1 fun x y => if lessThan m y x then y else x)

/-- MAX (R98). -/
def execMax (c : Ctl) (rd ra : BitVec 6) (i m : Bool) (b : BitVec 6) (s : State) : Out :=
  .next (s.syl (.max c rd ra i m b) c [] fun s => s.alu rd ra i m b 1 fun x y => if lessThan m x y then y else x)

/-- SEL selects on flag f(1 + FS) (R100). -/
def execSel (c : Ctl) (rd ra rb : BitVec 6) (fs : BitVec 2) (s : State) : Out :=
  .next (s.syl (.sel c rd ra rb fs) c [] fun s =>
    s.resS rd.toNat (if s.rf (1 + fs.toNat) then s.rs ra.toNat else s.rs rb.toNat) 1)

/-- CLZ (R101). -/
def execClz (c : Ctl) (rd ra : BitVec 6) (s : State) : Out :=
  .next (s.syl (.clz c rd ra) c [] fun s => s.resS rd.toNat (.ofNat 64 (leadingZeros (s.rs ra.toNat))) 1)

/-- POPC (R101). -/
def execPopc (c : Ctl) (rd ra : BitVec 6) (s : State) : Out :=
  .next (s.syl (.popc c rd ra) c [] fun s => s.resS rd.toNat (.ofNat 64 (onesCount (s.rs ra.toNat))) 1)

/-- MOVI (R102). -/
def execMovi (c : Ctl) (rd : BitVec 6) (imm : BitVec 14) (s : State) : Out :=
  .next (s.syl (.movi c rd imm) c [] fun s => s.resS rd.toNat (imm.signExtend 64) 1)

/-- MOVHI shifts its own destination up by 14 bits (R102). -/
def execMovhi (c : Ctl) (rd : BitVec 6) (imm : BitVec 14) (s : State) : Out :=
  .next (s.syl (.movhi c rd imm) c [] fun s => s.resS rd.toNat (s.rs rd.toNat <<< 14 ||| imm.setWidth 64) 1)

/-- CMP writes a flag; codes lo, hs, bs and bc take the immediate unsigned (R104). -/
def execCmp (c : Ctl) (fd : BitVec 4) (cc : BitVec 3) (ra : BitVec 6) (i : Bool) (b : BitVec 6) (s : State) : Out :=
  .next (s.syl (.cmp c fd cc ra i b) c [] fun s =>
    s.resF fd.toNat (cmpCond cc (s.rs ra.toNat) (s.aluB i (4 ≤ cc.toNat) b)))

/-- EXT (R103). -/
def execExt (c : Ctl) (rd ra : BitVec 6) (wc : BitVec 2) (sg : Bool) (bo : BitVec 3) (s : State) : Out :=
  .next (s.syl (.ext c rd ra wc sg bo) c [] fun s => s.resS rd.toNat (extField (s.rs ra.toNat) wc sg bo) 1)

/-- Every flag of a mask takes one value (R106); bit n of the field stands for f(n + 1). -/
def State.setMask (s : State) (mask : BitVec 15) (v : Bool) : State :=
  (List.range 15).foldl (fun s n => if mask.getLsbD n then s.resF (n + 1) v else s) s

/-- FSET (R106). -/
def execFset (c : Ctl) (mask : BitVec 15) (s : State) : Out := .next (s.syl (.fset c mask) c [] fun s => s.setMask mask true)

/-- FCLR (R106). -/
def execFclr (c : Ctl) (mask : BitVec 15) (s : State) : Out := .next (s.syl (.fclr c mask) c [] fun s => s.setMask mask false)

/-- FOP applies a truth table to two flags (R107). -/
def execFop (c : Ctl) (fd fa fb tt : BitVec 4) (s : State) : Out :=
  .next (s.syl (.fop c fd fa fb tt) c [] fun s =>
    s.resF fd.toNat (tt.getLsbD (2 * (s.rf fa.toNat).toNat + (s.rf fb.toNat).toNat)))

/-- LIDX reads the index or the count of an active level, 0 otherwise (R118). -/
def execLidx (c : Ctl) (rd : BitVec 6) (cnt : Bool) (lv : BitVec 3) (s : State) : Out :=
  .next (s.syl (.lidx c rd cnt lv) c [] fun s =>
    s.resS rd.toNat (if lv.toNat < s.b.depth then (if cnt then s.b.lc else s.b.li).get 0 lv.toNat else 0) 1)

/-- SPAT (R267). -/
def execSpat (c : Ctl) (rd : BitVec 6) (lv : BitVec 3) (k : Bool) (s : State) : Out :=
  .next (s.syl (.spat c rd lv k) c [] fun s =>
    let x := s.b.coord lv.toNat
    s.resS rd.toNat (.ofNat 64 (if k then x.2 else x.1)) 1)

/-- The identity that SQID reads (R268). -/
def Bank.sqid (b : Bank) : DWord :=
  .ofNat 64 (pack [(12, b.ctx), (16, b.lnch), (18, 0), (2, modeCode b.mode), (1, b.slotB.toNat), (5, 0), (10, b.seq)])

/-- SQID (R268). -/
def execSqid (c : Ctl) (rd : BitVec 6) (s : State) : Out :=
  .next (s.syl (.sqid c rd) c [] fun s => s.resS rd.toNat s.b.sqid 1)

/-- RGST reads the region status register (R295). -/
def execRgst (c : Ctl) (rd : BitVec 6) (s : State) : Out :=
  .next (s.syl (.rgst c rd) c [] fun s => s.resS rd.toNat s.b.rgst 1)

/-- FEAT reads a dword of the feature vector (R358). -/
def execFeat (c : Ctl) (rd : BitVec 6) (w : BitVec 2) (s : State) : Out :=
  .next (s.syl (.feat c rd w) c [] fun s => s.resS rd.toNat (s.feat.extractLsb' (64 * w.toNat) 64) 1)

/-- CYC reads the core-clock count or the package time (R366). -/
def execCyc (c : Ctl) (rd : BitVec 6) (k : Bool) (s : State) : Out :=
  .next (s.syl (.cyc c rd k) c [] fun s => s.resS rd.toNat (.ofNat 64 (if k then s.ns else s.now)) 1)

/-! ### Control (R108 to R120) -/

/-- A target relative to the bundle's first parcel, modulo 2^56 (R97, R109). -/
def Bank.rel (b : Bank) {w : Nat} (off : BitVec w) : BitVec 56 := b.pc + .ofInt 56 (2 * off.toInt)

/-- The bundle transfers control: the target is the next bundle, after its last issue (R108). -/
def State.goto (s : State) (t : BitVec 56) : State := s.modB fun b => { b with npc := t, taken := true, owed := none }

/-- BR is taken when f[BF] xor BI is 1 (R109). -/
def execBr (c : Ctl) (bi : Bool) (bf : BitVec 4) (off : BitVec 15) (s : State) : Out :=
  .next (s.syl (.br c bi bf off) c [] fun s => if s.rf bf.toNat != bi then s.goto (s.b.rel off) else s)

/-- JMP (R109). -/
def execJmp (c : Ctl) (off : BitVec 20) (s : State) : Out :=
  .next (s.syl (.jmp c off) c [] fun s => s.goto (s.b.rel off))

/-- The target of JMPI and RET, as a 64-bit address (R111). -/
def State.regTarget (s : State) (ra : BitVec 6) (disp : BitVec 14) : DWord := s.rs ra.toNat + .ofInt 64 (2 * disp.toInt)

/-- An odd target, or one with bits [63:56] set, makes the bundle illegal (R111). -/
def State.targetCause (s : State) (t : DWord) : List Cause := if t.getLsbD 0 ∨ rfld t 63 56 ≠ 0 then [s.illegal] else []

/-- JMPI (R111). -/
def execJmpi (c : Ctl) (ra : BitVec 6) (disp : BitVec 14) (s : State) : Out :=
  .next (s.syl (.jmpi c ra disp) c (s.targetCause (s.regTarget ra disp)) fun s => s.goto ((s.regTarget ra disp).setWidth 56))

/-- RET (R111). -/
def execRet (c : Ctl) (ra : BitVec 6) (s : State) : Out :=
  .next (s.syl (.ret c ra) c (s.targetCause (s.regTarget ra 0)) fun s => s.goto ((s.regTarget ra 0).setWidth 56))

/-- CALL writes the address of the bundle that follows to s55 (R110). -/
def execCall (c : Ctl) (off : BitVec 20) (s : State) : Out :=
  .next (s.syl (.call c off) c [] fun s => (s.resS 55 (s.b.fall.setWidth 64) 1).goto (s.b.rel off))

/-- The end bundle's address of a LOOP (R114). -/
def Bank.loopEnd (b : Bank) (fin : BitVec 11) : BitVec 56 := b.pc + .ofNat 56 (2 * fin.toNat)

/-- The placements of LOOP that are illegal (R114), and a register count above the level's declared largest count (R260). -/
def State.loopCause (s : State) (fin : BitVec 11) (n : DWord) (reg : Bool) : List Cause :=
  let b := s.b
  let e := b.loopEnd fin
  let inner := b.le.get 0 (b.depth - 1)
  if 6 ≤ b.depth ∨ (b.depth > 0 ∧ b.pc = inner) ∨ 2 * fin.toNat < b.len ∨ (b.depth > 0 ∧ inner.toNat < e.toNat) then [s.illegal]
  else
    let x := (b.loopEnt b.depth).most
    if reg ∧ x ≠ 0 ∧ x < n.toNat then [s.cause 9 7] else []

/-- LOOP opens a level, or skips the body when there is no iteration for this sequencer (R114, R259). The bundle after
the end bundle is named by the end bundle's address and found when it is fetched: `after` goes there. In the last bundle of a
segment LS is the trailer's address, and entering the body is a transfer to a trailer (assumption log, entry 104). -/
def State.loop (s : State) (fin : BitVec 11) (n : DWord) (after : State → State) : State :=
  let b := s.b
  let d := b.depth
  let (ci, _) := b.coord d
  if n.toNat ≤ ci then after s
  else s.modB fun b => { b with
    lc := b.lc.set 0 d n
    li := b.li.set 0 d (.ofNat 64 ci)
    ls := b.ls.set 0 d (b.pc + .ofNat 56 b.len)
    le := b.le.set 0 d (b.loopEnd fin)
    depth := d + 1
    npc := b.pc + .ofNat 56 b.len
    taken := true }

/-- SEGHINT names the segment to expand next; it changes no architectural state (R120). -/
def execSeghint (c : Ctl) (off : BitVec 20) (s : State) : Out :=
  .next (s.syl (.seghint c off) c [] fun s => s.modB fun b => { b with hint := some (b.rel off) })

end Sys2Proof.Machine
end

