-- ==== Sys2Proof/Machine/Fetch.lean ====
section
/-! DEFINITION. Instruction fetch (R40 to R44, R53 to R59, R389): fetch lines, bundles, trailers; the loop forms, which
continue after a bundle they name by its address (R114, R117). -/

namespace Sys2Proof.Machine

open Sys2Proof

/-- A bundle header (R41). -/
structure BHdr where
  ncg  : Bool
  rep  : Nat
  sync : Nat
  wait : Bool
  safe : Bool
  live : Nat
  yld  : Bool
  opc  : Bool
  opp  : Nat
  low  : Nat
  deriving DecidableEq, Repr

/-- A column group: its header fields and the raw syllables by slot number (R42). -/
structure Group where
  col  : Nat
  stop : Bool
  tmpl : Nat
  low  : Nat
  syls : List (Nat × Nat)
  deriving DecidableEq, Repr

/-- A bundle as fetched: header, groups and length in bytes (R40). -/
structure Bundle where
  hdr    : BHdr
  groups : List Group
  len    : Nat
  deriving DecidableEq, Repr

/-- The fields of a header word (R41). -/
def bhdr (w : Nat) : BHdr :=
  ⟨w.testBit 31, fld w 30 23, fld w 22 19, w.testBit 18, w.testBit 17, fld w 16 11, w.testBit 10, w.testBit 9, fld w 8 6, fld w 5 0⟩

/-- The syllables of the present slots from slot `n` on, with the bytes left; none when bytes run out. -/
def takeSyls (tmpl : Nat) : Nat → Nat → List Byte → Option (List (Nat × Nat) × List Byte)
  | 0, _, bs => some ([], bs)
  | fuel + 1, n, bs =>
    if tmpl.testBit (7 - n) then
      let k := (slotOf n).width / 8
      if bs.length < k then none
      else match takeSyls tmpl fuel (n + 1) (bs.drop k) with
        | some (l, r) => some ((n, sylNat (bs.take k)) :: l, r)
        | none => none
    else takeSyls tmpl fuel (n + 1) bs

/-- Column groups up to the one with STOP, at most four (R40, R42). -/
def takeGroups : Nat → List Byte → Option (List Group × List Byte)
  | 0, bs => some ([], bs)
  | fuel + 1, bs =>
    if bs.length < 2 then none
    else
      let h := leNat (bs.take 2)
      match takeSyls (fld h 12 5) 8 0 (bs.drop 2) with
      | none => none
      | some (l, r) =>
        let g : Group := ⟨fld h 15 14, h.testBit 13, fld h 12 5, fld h 4 0, l⟩
        if g.stop then some ([g], r)
        else match takeGroups fuel r with
          | some (gs, r) => some (g :: gs, r)
          | none => none

/-- A bundle at the head of some bytes; none when it needs more of them. A header with a low bit set, as a trailer's mark
has, heads no groups (R56, R112). -/
def parseBundle (bs : List Byte) : Option Bundle :=
  if bs.length < 4 then none
  else
    let h := bhdr (leNat (bs.take 4))
    if h.ncg || h.low != 0 then some ⟨h, [], 4⟩
    else match takeGroups 4 (bs.drop 4) with
      | some (gs, r) => some ⟨h, gs, bs.length - r.length⟩
      | none => none

/-- The lines that the two halves of the loop buffer hold (R59). -/
def Bank.held (b : Bank) : List (BitVec 56 × List Byte) := b.lines ++ (b.other.map (·.lines)).getD []

/-- A 64-byte fetch line read from memory: its bytes, or the fault of its translation, or poison as cause 0 (R53, R54). -/
def State.readLine (s : State) (va : Nat) : Except WalkFault (List Byte) :=
  match s.translate .fetch false s.b.ctx va with
  | .error f => .error f
  | .ok l => if s.gPoison (Leaf.pa l va) then .error (.of 0) else .ok (s.seen (Leaf.pa l va) 64)

/-- One 64-byte fetch line of a bundle. A line that a half holds is used whole as it was expanded or whole from memory, which
one unspecified (R55); it stays usable where memory cannot be read any more (R389). -/
def State.fetchLine (s : State) (va : Nat) : Except WalkFault (List Byte) :=
  match s.b.held.find? fun e => e.1.toNat == va with
  | none => s.readLine va
  | some e => if s.pick 2 [55, va] = 0 then .ok e.2 else match s.readLine va with
    | .ok x => .ok x
    | .error _ => .ok e.2

/-- The bytes from an address on, through at most `n` lines, and the line whose fetch fails, with its fault. -/
def State.fetchFrom (s : State) : Nat → Nat → List Byte × Option (Nat × WalkFault)
  | 0, _ => ([], none)
  | n + 1, va =>
    let line := va / 64 * 64
    match s.fetchLine line with
    | .error f => ([], some (line, f))
    | .ok bs =>
      let r := s.fetchFrom n (line + 64)
      (bs.drop (va % 64) ++ r.1, r.2)

/-- The outcome of fetching a bundle. -/
inductive Fetched where
  /-- A fault of a line that the bundle needs, with the line's address (R54). -/
  | fault (line : Nat) (f : WalkFault)
  /-- The bundle touches four fetch lines (R47), or its bytes end. -/
  | illegal
  | ok (b : Bundle)
  deriving DecidableEq, Repr

/-- Reads the bundle at an address from at most `n` fetch lines (R53, R54). -/
def State.fetchIn (s : State) (n pc : Nat) : Fetched :=
  let r := s.fetchFrom n pc
  match parseBundle r.1 with
  | some b => .ok b
  | none => match r.2 with
    | some (l, f) => .fault l f
    | none => .illegal

/-- Fetches the bundle at an address (R53, R54). -/
def State.fetch (s : State) (pc : Nat) : Fetched := s.fetchIn 3 pc

/-- The trailer mark (R56). -/
def TMARK : Nat := 0x3F

/-- The fetch lines of some bytes from an address on that are read from memory, with their leaves: those that no half holds, and
those that are read again (R55). -/
def State.linesRead (s : State) (pc len : Nat) : List (Leaf × Nat) :=
  (((List.range 5).map fun i => pc / 64 * 64 + 64 * i).filter fun a =>
    decide (a < pc + len) && ((s.b.held.all fun e => e.1.toNat != a) || s.pick 2 [55, a] != 0)).filterMap fun a =>
      match s.translate .fetch false s.b.ctx a with
      | .ok l => some (l, a)
      | .error _ => none

/-- A fetch line waits for a token of its buckets, as any access does (R225, R329). -/
def State.fetchWaits (s : State) (pc len : Nat) : Bool := (s.linesRead pc len).any fun e => !(s.hasToken e.1 e.2)

/-- The lines of fetched bytes keep their translations and are charged (R225). -/
def State.fillLines (s : State) (pc len : Nat) : State :=
  (s.linesRead pc len).foldl (fun s e => (s.fillTlb e.1).charge e.1 e.2) s

/-- The segment that a trailer at an address names (R57, R58): none where no trailer can be read; a trailer that names no
segment, or that is malformed, stands for itself. One that extends beyond byte 4,096 of its segment is followed like another
(assumption log, entry 104). -/
def State.trailer (s : State) (a : BitVec 56) : Option (BitVec 56) :=
  let bs := (s.fetchFrom 2 a.toNat).1
  if bs.length ≥ 12 ∧ leNat (bs.take 4) = TMARK then
    let n := leNat ((bs.drop 4).take 8)
    some (if n.testBit 63 ∧ fld n 62 56 = 0 ∧ fld n 5 0 = 0 then .ofNat 56 n else a)
  else none

/-- The address that follows a bundle whose end is `a`: the next bundle there, or the segment that a trailer names (R57,
R58, R110). Where the bytes of a trailer cannot be read the address is `a` (assumption log, entry 85). -/
def State.follow (s : State) (a : BitVec 56) : BitVec 56 := (s.trailer a).getD a

/-- The fetch line that keeps a trailer at an address, if one stands there, from being read now. -/
def State.unreadLine (s : State) (a : BitVec 56) : Option (Nat × WalkFault) :=
  match s.fetchFrom 2 a.toNat with
  | (bs, some f) => if bs.length < 4 ∨ (bs.length < 12 ∧ leNat (bs.take 4) = TMARK) then some f else none
  | _ => none

/-- The bytes at an address cannot be fetched now. -/
def State.unread (s : State) (a : BitVec 56) : Bool := (s.unreadLine a).isSome

/-- The bundle that follows the bundle at an address (R114, R117), which may touch four lines (R40), and what is still to be
passed there because it cannot be fetched now: the bundle at `e` itself, or a trailer after it. Where `e` names a trailer or
a header with low bits set, so that no bundle stands there, 4 bytes are passed (assumption log, entry 104). -/
def State.afterBundle (s : State) (e : BitVec 56) : BitVec 56 × Option (BitVec 56 × Bool) :=
  match s.fetchIn 4 e.toNat with
  | .ok b =>
    let a := e + .ofNat 56 b.len
    (s.follow a, if s.unread a then some (a, false) else none)
  | _ => (e, some (e, true))

/-- The bundle continues at the bundle after the one at an address (R114, R117). -/
def State.goAfter (s : State) (e : BitVec 56) : State :=
  let r := s.afterBundle e
  (s.goto r.1).modB fun b => { b with owed := r.2 }

/-- LOOP with an immediate count (R114, R259). -/
def execLoopImm (c : Ctl) (cnt : BitVec 8) (fin : BitVec 11) (s : State) : Out :=
  .next (s.syl (.loopImm c cnt fin) c (s.loopCause fin (cnt.setWidth 64) false) fun s =>
    s.loop fin (cnt.setWidth 64) fun s => s.goAfter (s.b.loopEnd fin))

/-- LOOP with a count from a register (R114, R259, R260). -/
def execLoopReg (c : Ctl) (ra : BitVec 6) (fin : BitVec 11) (s : State) : Out :=
  .next (s.syl (.loopReg c ra fin) c (s.loopCause fin (s.rs ra.toNat) true) fun s =>
    s.loop fin (s.rs ra.toNat) fun s => s.goAfter (s.b.loopEnd fin))

/-- LOOPBRK closes n + 1 levels and continues after the outermost of them (R117). -/
def execLoopbrk (c : Ctl) (n : BitVec 3) (s : State) : Out :=
  .next (s.syl (.loopbrk c n) c (if n.toNat + 1 > s.b.depth then [s.illegal] else []) fun s =>
    let e := s.b.le.get 0 (s.b.depth - (n.toNat + 1))
    (s.modB (·.closeLoops (n.toNat + 1))).goAfter e)

/-- The fetch lines of the segment at an address, from there to its trailer or its limits, and the segment that the trailer
names (R57, R59): the last address of a bundle that has been expanded so far is `a`. -/
def State.segmentLines (s : State) : Nat → Nat → Nat → List Nat × Option (BitVec 56)
  | 0, _, _ => ([], none)
  | fuel + 1, line, a =>
    match s.fetch a with
    | .ok x =>
      let stop := decide (x.hdr.low = TMARK)
      let last := a + (if stop then 12 else x.len) - 1
      let new := (List.range (last / 64 + 1 - line / 64)).map fun i => line / 64 * 64 + 64 * i
      if stop then (new, (s.trailer (va56 a)).bind fun n => if n = va56 a then none else some n)
      else
        let r := s.segmentLines fuel ((last / 64 + 1) * 64) (a + x.len)
        (new ++ r.1, r.2)
    | _ => ([line / 64 * 64], none)

/-- The bundles from an address of a segment up to another; none when that is not a bundle of the same segment, or more
than 512 lie before it. -/
def State.bundlesTo (s : State) : Nat → Nat → Nat → Option Nat
  | 0, _, _ => none
  | fuel + 1, a, tgt =>
    if a = tgt then some 0
    else if a > tgt then none
    else match s.fetch a with
      | .ok x => if x.hdr.low = TMARK then none else (s.bundlesTo fuel (a + x.len) tgt).map (· + 1)
      | _ => none

/-- An address is a bundle within the limits of the half that was expanded from a bundle (R57, R59). -/
def State.inHalf (s : State) (start a : BitVec 56) (known : List (BitVec 56)) : Bool :=
  a == start || known.contains a ||
    (decide (start.toNat < a.toNat) && decide (a.toNat < start.toNat + 4096) &&
      match s.bundlesTo 513 start.toNat a.toNat with
      | some n => decide (n < 512)
      | none => false)

/-- The half that issue stands in (R57, R59): flow within a half stays in it; a transfer or a trailer leads to a bundle of the
same half, of the other half, or of neither, when the half that is left stays the other one and the limits of a new one are
counted from the target. A hint is used up with the half that it was for. -/
def State.enterHalf (s : State) : State :=
  let b := s.b
  let at_ (known : List (BitVec 56)) : List (BitVec 56) := if known.contains b.pc then known else b.pc :: known
  if b.pc = b.flowed then s
  else if s.inHalf b.seg b.pc b.known then s.modB fun b => { b with known := at_ b.known, flowed := b.pc }
  else
    let left : Option Half := some ⟨b.seg, b.known, b.lines⟩
    match b.other.filter fun o => s.inHalf o.start b.pc o.known with
    | some o => s.modB fun b => { b with
        seg := o.start, known := at_ o.known, lines := o.lines, other := left, flowed := b.pc, hint := none }
    | none => s.modB fun b => { b with seg := b.pc, known := [], lines := [], other := left, flowed := b.pc, hint := none }

/-- The lines of the two halves that lie before a line stay; from it on they are expanded afresh (R389). -/
def Bank.dropLines (b : Bank) (line : Nat) : Bank :=
  let keep (xs : List (BitVec 56 × List Byte)) : List (BitVec 56 × List Byte) := xs.filter fun e => decide (e.1.toNat < line)
  { b with lines := keep b.lines, other := b.other.map fun o => { o with lines := keep o.lines } }

/-- A line enters the half in issue, or the other half, which a new segment overwrites from its first bundle on (R59). -/
def Bank.expand (b : Bank) (next : Option (BitVec 56)) (line : BitVec 56 × List Byte) : Bank :=
  match next with
  | none => { b with lines := b.lines ++ [line] }
  | some n =>
    let o : Half := (b.other.filter (·.start == n)).getD ⟨n, [], []⟩
    { b with other := some { o with lines := o.lines ++ [line] } }

/-- SEGMENT_EXPAND: the prefetch engine reads the next line ahead, of the segment being entered into one half or of the one
that follows it into the other; it stops at a trailer's mark, and a line that it cannot read stops it and raises nothing
(R57, R59, R389). A bank that waits for a reply has nothing expanded. -/
def execSegmentExpand (bank : Nat) (s : State) : Out :=
  let s := s.focus bank
  let here := s.segmentLines 512 s.b.pc.toNat s.b.pc.toNat
  let next := (s.b.hint.orElse fun _ => here.2).filter (· != s.b.seg)
  let lacks (xs : List (BitVec 56 × List Byte)) (a : Nat) : Bool := xs.all fun e => e.1.toNat != a
  let todo : Option (Option (BitVec 56) × Nat) := match here.1.find? (lacks s.b.lines) with
    | some a => some (none, a)
    | none => next.bind fun n =>
      ((s.segmentLines 512 n.toNat n.toNat).1.find? (lacks (((s.b.other.filter (·.start == n)).map (·.lines)).getD []))).map (some n, ·)
  if s.b.halted.isSome then .next s
  else match todo with
    | none => .next s
    | some (n, a) => match s.readLine a, s.translate .fetch false s.b.ctx a with
      | .ok bs, .ok l =>
        if !(s.hasToken l a) then .next s else .next (((s.fillTlb l).charge l a).modB (·.expand n (va56 a, bs)))
      | _, _ => .next s

end Sys2Proof.Machine
end

