-- ==== Sys2Proof/Machine/Bounds.lean ====
section
/-! DEFINITION. The static bounds of an image (R271, R367): the paths through a kernel, counted in bundle issues. -/

namespace Sys2Proof.Machine

open Sys2Proof

/-- What Okra follows of a kernel: the code section, the address at which it is mapped, the loop table and the kernel's
indirect-target table, as offsets of the section (R58, R258, R271). -/
structure Image where
  code    : List Byte
  base    : Nat
  loops   : List LoopEnt
  targets : List Nat

/-- A loop that is open on a path: its first and its end bundle, and how many more iterations follow at most, at the start
of its body and from here on; `none` where no bound is declared (R114, R271). -/
structure OpenLoop where
  first : Nat
  last  : Nat
  most  : Option Nat
  left  : Option Nat
  deriving DecidableEq, Repr

/-- A place on a path: a bundle's offset, the open loops, innermost first, and the recovery label of an open region with
the loops that are open after an abort (R283, R296). -/
structure PathAt where
  pc     : Nat
  loops  : List OpenLoop
  region : Option (Nat × List OpenLoop)
  deriving DecidableEq, Repr

/-- The loops with the most iterations before them: where a count starts inside a body, nothing is known of the number of
iterations that have gone by. -/
def PathAt.renew (w : PathAt) : PathAt := { w with loops := w.loops.map fun l => { l with left := l.most } }

/-- The bundle at an offset of the code section; none at a trailer, outside the section or where the bytes end (R57). -/
def Image.bundle (im : Image) (pc : Nat) : Option Bundle :=
  match parseBundle ((im.code.drop pc).take 192) with
  | some b => if b.hdr.low = 0 then some b else none
  | none => none

/-- The offset that follows a bundle whose end is `a`: the next bundle there or the segment that a trailer names (R57). -/
def Image.follow (im : Image) (a : Nat) : Nat :=
  let bs := (im.code.drop a).take 12
  let n := leNat (bs.drop 4)
  if leNat (bs.take 4) = TMARK ∧ n.testBit 63 then n % 2 ^ 56 - im.base else a

/-- The offset of the bundle after the one at `e` (R114, R117). -/
def Image.afterBundle (im : Image) (e : Nat) : Nat :=
  match im.bundle e with
  | some b => im.follow (e + b.len)
  | none => e

/-- The S syllables of a bundle. -/
def Bundle.scalars (b : Bundle) : List Instr :=
  b.groups.filterMap fun g => match g.syls.find? (fun e => e.1 == 0) with
    | some (_, w) => (decodeSyl .s w).toOption
    | none => none

/-- A predicate that is true in every issue, and one that is true in none: f0 reads 1 (R14, R49). -/
def Ctl.sure (c : Ctl) : Bool := c.pf == 0 && !c.pi
def Ctl.never (c : Ctl) : Bool := c.pf == 0 && c.pi

/-- The most iterations of a loop on one sequencer, by the table of R271: `n` counts over `p` sequencers. -/
def perSequencer (n p : Nat) : Nat := (n + p - 1) / p

/-- The bundles that may follow at the end of a bundle that transfers nowhere: each loop that ends here goes round again
or is left (R115). -/
def afterLoops (pc next : Nat) (region : Option (Nat × List OpenLoop)) : List OpenLoop → List PathAt
  | [] => [⟨next, [], region⟩]
  | l :: ls =>
    if l.last = pc then
      (if l.left = some 0 then [] else [⟨l.first, { l with left := l.left.map (· - 1) } :: ls, region⟩]) ++
        afterLoops pc next region ls
    else [⟨next, l :: ls, region⟩]

/-- An offset a number of parcels away (R109). -/
def parcels (pc : Nat) (off : Int) : Nat := ((pc : Int) + 2 * off).toNat

/-- The places after LOOP (R114, R259, R271): the body with at most `most` iterations, and the bundle after the end bundle
where the body may be skipped. -/
def Image.openLoop (im : Image) (w : PathAt) (len : Nat) (fin : Nat) (most : Option Nat) (skip : Bool) : List PathAt :=
  let e := w.pc + 2 * fin
  let left := most.map (· - 1)
  (if most = some 0 then [] else [⟨w.pc + len, ⟨w.pc + len, e, left, left⟩ :: w.loops, w.region⟩]) ++
    (if skip then [⟨im.afterBundle e, w.loops, w.region⟩] else [])

/-- Where a control-flow syllable may lead when it transfers, and whether the bundle may also go on: `none` for an indirect
target of which the image's table says nothing (R109 to R117, R271). -/
def Image.transfers (im : Image) (w : PathAt) (len : Nat) (i : Instr) : Option (List PathAt × Bool) :=
  let goTo (t : Nat) : PathAt := { w with pc := t }
  let ent := im.loops.getD w.loops.length ⟨.temporal, 1, 0⟩
  let p := if ent.kind = .temporal then 1 else ent.spread
  let indirect (c : Ctl) : Option (List PathAt × Bool) :=
    if im.targets.isEmpty then none else some (im.targets.map goTo, !Ctl.sure c)
  match i with
  | .br c bi bf off =>
    if bf = 0 then some (if bi then [] else [goTo (parcels w.pc off.toInt)], bi || !Ctl.sure c)
    else some ([goTo (parcels w.pc off.toInt)], true)
  | .jmp c off | .call c off => some ([goTo (parcels w.pc off.toInt)], !Ctl.sure c)
  | .jmpi c .. | .ret c _ => indirect c
  | .loopImm c cnt fin =>
    some (im.openLoop w len fin.toNat (some (perSequencer cnt.toNat p)) (cnt = 0 || ent.kind ≠ .temporal), !Ctl.sure c)
  | .loopReg c _ fin =>
    some (im.openLoop w len fin.toNat (if ent.most = 0 then none else some (perSequencer ent.most p)) true, !Ctl.sure c)
  | .loopbrk c n =>
    let k := n.toNat
    some (match w.loops[k]? with
      | some l => [⟨im.afterBundle l.last, w.loops.drop (k + 1), w.region⟩]
      | none => [], !Ctl.sure c)
  | .tend c | .eret c => some ([], !Ctl.sure c)
  | _ => some ([], true)

/-- The region after a bundle's syllables, as the ways in which they may open or close one (R282, R283). -/
def regionAfter (w : PathAt) : List Instr → List (Option (Nat × List OpenLoop))
  | [] => [w.region]
  | i :: is =>
    let rest := regionAfter w is
    match i with
    | .chk c off | .txb c off =>
      let r := some (parcels w.pc off.toInt, w.loops)
      if Ctl.never c then rest else if Ctl.sure c then [r] else r :: rest
    | .cmt c | .txc c _ => if Ctl.never c then rest else if Ctl.sure c then [none] else none :: rest
    | _ => rest

/-- The places that may follow a bundle: an open region may also abort, to its recovery label (R296). `none` where a path
cannot be followed. -/
def Image.nexts (im : Image) (b : Bundle) (w : PathAt) : Option (List PathAt) :=
  let ss := b.scalars
  let regions := regionAfter w ss
  let aborts := (w.region :: regions).filterMap fun r => r.map fun e => (⟨e.1, e.2, none⟩ : PathAt)
  let ways := (ss.filter fun i => !(match i.ctl with | some c => Ctl.never c | none => true)).mapM fun i => im.transfers w b.len i
  ways.map fun ts =>
    let goes := if ts.all (·.2) then afterLoops w.pc (im.follow (w.pc + b.len)) none w.loops else []
    let all := ts.flatMap (·.1) ++ goes
    (regions.flatMap fun r => all.map fun x => { x with region := r }) ++ aborts

/-- Every path from a place comes to a bundle that `stop` names, or to its end, before it counts more than `left` issues; a
bundle with REP = n counts n + 1 (R271). -/
def Image.meets (im : Image) (stop : BHdr → Bool) : Nat → Nat → PathAt → Bool
  | 0, _, _ => false
  | fuel + 1, left, w =>
    match im.bundle w.pc with
    | none => false
    | some b => stop b.hdr || match im.nexts b w with
      | none => false
      | some ws => ws.isEmpty || (decide (b.hdr.rep < left) && ws.all (im.meets stop fuel (left - (b.hdr.rep + 1))))

/-- No path from a place comes to a bundle with OPC = 1 within `left` issues (R367). -/
def Image.apart (im : Image) : Nat → Nat → PathAt → Bool
  | 0, _, _ => true
  | fuel + 1, left, w => left == 0 || match im.bundle w.pc with
    | none => true
    | some b => !b.hdr.opc && ((im.nexts b w).getD []).all (im.apart fuel (left - (b.hdr.rep + 1)))

/-- The places that a kernel reaches, each with the most iterations before it: those seen, and those still to look at. -/
def Image.reach (im : Image) : Nat → List PathAt → List PathAt → List PathAt
  | 0, seen, _ => seen
  | _, seen, [] => seen
  | fuel + 1, seen, w :: ws =>
    if seen.contains w then im.reach fuel seen ws
    else match im.bundle w.pc with
      | some b => im.reach fuel (w :: seen) (((im.nexts b w).getD []).map PathAt.renew ++ ws)
      | none => im.reach fuel (w :: seen) ws

/-- The settling latency into an operating point, in cycles (R366). -/
def settleCycles (p : Nat) : Nat := [1024, 1024, 1536, 1536, 2048, 2560, 3072, 4096].getD p 0

/-- The bound on the spacing of safe points, and of yield points, in issues (R271). -/
def pathBound : Nat := 20000

/-- The static bounds of a kernel: the spacing of its safe points and of its yield points from its entry on, and that of
its operating points (R271, R367). -/
def Image.boundsOk (im : Image) (entry : Nat) : Bool :=
  let start : PathAt := ⟨entry, [], none⟩
  let places := im.reach ((im.code.length + 2) ^ 20) [] [start]
  let after (f : BHdr → Bool) (test : BHdr → PathAt → Bool) : Bool := places.all fun w => match im.bundle w.pc with
    | some b => !f b.hdr || ((im.nexts b w).getD []).all fun x => test b.hdr x.renew
    | none => false
  let spaced (stop : BHdr → Bool) : Bool :=
    im.meets stop (pathBound + 1) pathBound start && after stop fun _ => im.meets stop (pathBound + 1) pathBound
  spaced (·.safe) && spaced (·.yld) && after (·.opc) fun h => im.apart (settleCycles h.opp) (settleCycles h.opp - 1)

end Sys2Proof.Machine
end

