-- ==== Sys2Proof/Machine/Scratch.lean ====
section
/-! DEFINITION. The L and W slots: scratchpad, spill memory, far loads and their landing, circular buffers, scale loads and
guarded loads (R121 to R145, R281, R286, R288). -/

namespace Sys2Proof.Machine

open Sys2Proof

/-! ### Vector destinations -/

/-- A vector result; in a region the register is renamed at its first write (R284). -/
def State.putV (s : State) (cl n v lanes bound : Nat) (poison : Bool := false) : State :=
  if lanes = 0 then s
  else
    let r := s.shadowV cl n
    if r.2 then r.1.result (.v cl n) v lanes bound poison else r.1

/-- A register number within the file (R127). -/
def State.vn (s : State) (vr : BitVec 11) : Nat := vr.toNat % s.vcount

/-- The cause of reading a poisoned vector register (R145). -/
def State.vPoison (s : State) (cl n : Nat) : List Cause := if s.b.poison.contains (.v cl n) then [s.cause 3 0] else []

/-- Poison of the bytes of a load, in the share or in what a region holds for them (R145, R205). -/
def State.spPoison (s : State) (a n : Nat) : Bool :=
  s.slot.poisoned a n || (s.b.stores.any fun st => st.poison && st.addr < a + n && a < st.addr + st.bytes.length) ||
    match s.b.region with
    | none => false
    | some r => r.held.any fun h =>
        h.bad && !h.spill && decide (h.iss < s.b.iss) && decide (h.addr < a + n) && decide (a < h.addr + h.bytes.length)

/-! ### Loads and stores (R129 to R131) -/

/-- The address of an OFS8 operand (R128). -/
def State.addr8 (s : State) (ar : BitVec 5) (ofs : BitVec 8) (u : Nat) : Nat := addA (s.ra ar.toNat) (ofs8 ofs u).1

/-- The address of an OFS5 operand (R128). -/
def State.addr5 (s : State) (ar ofs : BitVec 5) : Nat := addA (s.ra ar.toNat) (ofs5 ofs 64).1

/-- A scalar loaded from the share, with a bound of 4; a load to s0 reads and discards (R129). -/
def State.loadS (s : State) (rs : BitVec 6) (a : Nat) (fmt : BitVec 3) : State :=
  let f := ldFmt fmt
  if rs = 0 then s
  else s.result (.s rs.toNat) (extendTo64 (s.spNat a f.1) f.1 f.2).toNat 1 4 (s.spPoison a f.1)

/-- LD (R129). -/
def execLd (c : Ctl) (rs : BitVec 6) (ar : BitVec 5) (fmt : BitVec 3) (ofs : BitVec 8) (s : State) : Out :=
  let u := (ldFmt fmt).1
  let a := s.addr8 ar ofs u
  .next (s.syl (.ld c rs ar fmt ofs) c (s.spCheck a u u).toList fun s =>
    (s.loadS rs a fmt).postStep ar (ofs8 ofs u).2)

/-- ST (R129). -/
def execSt (c : Ctl) (rs : BitVec 6) (ar : BitVec 5) (sz : BitVec 2) (ofs : BitVec 8) (s : State) : Out :=
  let u := 2 ^ sz.toNat
  let a := s.addr8 ar ofs u
  .next (s.syl (.st c rs ar sz ofs) c (s.spCheck a u u).toList fun s =>
    (s.store [(a, toBytes u (s.rs rs.toNat).toNat)] 2).postStep ar (ofs8 ofs u).2)

/-- LDV (R130). -/
def execLdv (c : Ctl) (vc : Bool) (vr : BitVec 11) (ar ofs : BitVec 5) (s : State) : Out :=
  let a := s.addr5 ar ofs
  .next (s.syl (.ldv c vc vr ar ofs) c (s.spCheck a 64 64).toList fun s =>
    (s.putV (s.clOf vc) (s.vn vr) (s.spNat a 64) 0xFFFF 4 (s.spPoison a 64)).postStep ar (ofs5 ofs 64).2)

/-- STV (R130). -/
def execStv (c : Ctl) (vc : Bool) (vr : BitVec 11) (ar ofs : BitVec 5) (s : State) : Out :=
  let a := s.addr5 ar ofs
  .next (s.syl (.stv c vc vr ar ofs) c (s.vPoison (s.clOf vc) (s.vn vr) ++ (s.spCheck a 64 64).toList) fun s =>
    (s.store [(a, toBytes 64 (s.rv (s.clOf vc) (s.vn vr)))] 2).postStep ar (ofs5 ofs 64).2)

/-- The lane addresses of GATH and SCAT (R131). -/
def State.laneAddrs (s : State) (cl : Nat) (vr : BitVec 11) (ar : BitVec 5) (w : Nat) : List Nat :=
  let idx := s.rv cl ((vr.toNat + 1) % s.vcount)
  (List.range 16).map fun l => (s.ra ar.toNat + elem idx 32 l * w) % 2 ^ 32

/-- GATH: the element of each lane, extended to 32 bits, with a bound of 8 (R131). -/
def execGath (c : Ctl) (vc : Bool) (vr : BitVec 11) (ar : BitVec 5) (ew : BitVec 2) (sg : Bool) (s : State) : Out :=
  let w := 2 ^ ew.toNat
  let xs := s.laneAddrs (s.clOf vc) vr ar w
  .next (s.syl (.gath c vc vr ar ew sg) c
    (s.vPoison (s.clOf vc) ((vr.toNat + 1) % s.vcount) ++ xs.filterMap fun x => s.spCheck x w w) fun s =>
    let v := ofElems 32 (xs.map fun x => let n := s.spNat x w; if sg then ofInt 32 (sval (8 * w) n) else n)
    s.putV (s.clOf vc) (s.vn vr) v 0xFFFF 8 (xs.any fun x => s.spPoison x w))

/-- The elements that a SCAT stores: of lanes with one address the highest (R131). -/
def scatPieces : List (Nat × List Byte) → List (Nat × List Byte)
  | [] => []
  | p :: ps => if ps.any (fun q => q.1 == p.1) then scatPieces ps else p :: scatPieces ps

/-- SCAT, with a visibility bound of 4 (R131). -/
def execScat (c : Ctl) (vc : Bool) (vr : BitVec 11) (ar : BitVec 5) (ew : BitVec 2) (s : State) : Out :=
  let w := 2 ^ ew.toNat
  let cl := s.clOf vc
  let xs := s.laneAddrs cl vr ar w
  .next (s.syl (.scat c vc vr ar ew) c
    (s.vPoison cl (s.vn vr) ++ s.vPoison cl ((vr.toNat + 1) % s.vcount) ++ xs.filterMap fun x => s.spCheck x w w) fun s =>
    let v := s.rv cl (s.vn vr)
    s.store (scatPieces (((List.range 16).zip xs).map fun e => (e.2, toBytes w (elem v 32 e.1)))) 4)

/-! ### Address registers (R132) -/

/-- ADRSET with an immediate (R132). -/
def execAdrsetImm (c : Ctl) (ar : BitVec 5) (imm : BitVec 16) (s : State) : Out :=
  .next (s.syl (.adrsetImm c ar imm) c [] fun s => s.resA ar.toNat imm.toNat)

/-- ADRSET from a scalar (R132). -/
def execAdrsetReg (c : Ctl) (ar : BitVec 5) (rs : BitVec 6) (s : State) : Out :=
  .next (s.syl (.adrsetReg c ar rs) c [] fun s => s.resA ar.toNat (s.rs rs.toNat).toNat)

/-- ADRADD with an immediate (R132). -/
def execAdraddImm (c : Ctl) (ar : BitVec 5) (imm : BitVec 16) (s : State) : Out :=
  .next (s.syl (.adraddImm c ar imm) c [] fun s => s.resA ar.toNat (addA (s.ra ar.toNat) imm.toInt))

/-- ADRADD from a scalar (R132). -/
def execAdraddReg (c : Ctl) (ar : BitVec 5) (rs : BitVec 6) (s : State) : Out :=
  .next (s.syl (.adraddReg c ar rs) c [] fun s => s.resA ar.toNat (s.ra ar.toNat + (s.rs rs.toNat).toNat))

/-! ### Spill memory (R133) -/

/-- A spill dword as the bank's SPLD sees it: held stores of the region are forwarded (R286). -/
def State.spillRead (s : State) (dw : Nat) : Nat :=
  let v := s.through (.spill s.cur.col dw) (s.b.spill.get 0 (2048 * s.cur.col + dw)).toNat
  match s.b.region with
  | none => v
  | some r => r.held.foldl (fun acc h =>
      if h.spill && h.col == s.cur.col && h.addr == 8 * dw && h.iss < s.b.iss then leNat h.bytes else acc) v

/-- The dword that SPLD reads carries an error (R145, R422). -/
def State.spillPoison (s : State) (dw : Nat) : Bool :=
  let v := s.b.poison.contains (.spill s.cur.col dw)
  match s.b.region with
  | none => v
  | some r => r.held.foldl (fun acc h =>
      if h.spill && h.col == s.cur.col && h.addr == 8 * dw && h.iss < s.b.iss then h.bad else acc) v

/-- SPLD (R133). -/
def execSpld (c : Ctl) (rs : BitVec 6) (off : BitVec 11) (s : State) : Out :=
  .next (s.syl (.spld c rs off) c [] fun s =>
    if rs = 0 then s else s.result (.s rs.toNat) (s.spillRead off.toNat % 2 ^ 64) 1 1 (s.spillPoison off.toNat))

/-- SPST (R133). -/
def execSpst (c : Ctl) (rs : BitVec 6) (off : BitVec 11) (s : State) : Out :=
  .next (s.syl (.spst c rs off) c [] fun s =>
    if s.b.region.isSome then s.store [(8 * off.toNat, toBytes 8 (s.rs rs.toNat).toNat)] 1 false true
    else s.result (.spill s.cur.col off.toNat) (s.rs rs.toNat).toNat 1 1)

/-! ### Far loads (R134 to R137) -/

/-- The core that a far address names (R134). -/
def State.farCore (s : State) (a : Nat) : Nat := 16 * dieOf s.b.core + fld a 28 25

/-- The bank of the launch that the core holds, through which the share of the binding is found. -/
def State.mate (s : State) (core : Nat) : Option Bank := s.bound.find? fun x => x.lnch == s.b.lnch && x.core == core

/-- The checks of a far address (R134, R126). -/
def State.farCheck (s : State) (a n : Nat) : List Cause :=
  (if fld a 24 0 + n > s.shareSize then [s.spaddr 1 a] else []) ++ (if a % n ≠ 0 then [s.spaddr 2 a] else []) ++
    (if fld a 31 29 ≠ 0 ∨ (s.mate (s.farCore a)).isNone then [s.spaddr 3 a] else [])

/-- A landing entry for a read that was just requested (R136, R137). -/
def State.addFar (s : State) (dest : Loc) (size : Nat) (signed : Bool) (core : Option Nat) (a n : Nat) : State :=
  let lanes := if dest.width = 512 then 0xFFFF else 1
  let left := if dest = .s 0 then 0 else lanes
  let f : Far := ⟨s.fresh, s.cur.col, dest, size, signed, core, a, s.b.iss, s.now + n, none, false, false,
    left, left, s.b.region.isSome⟩
  (if dest = .s 0 then s else s.supersede dest lanes).modB fun b => { b with fars := b.fars ++ [f] }

/-- FLD (R135). -/
def execFld (c : Ctl) (rs : BitVec 6) (ar : BitVec 5) (fmt : BitVec 3) (arr : BitVec 8) (s : State) : Out :=
  let f := ldFmt fmt
  let a := s.ra ar.toNat
  .next (s.syl (.fld c rs ar fmt arr) c (s.farCheck a f.1) fun s =>
    s.addFar (.s rs.toNat) f.1 f.2 (some (s.farCore a)) (fld a 24 0) arr.toNat)

/-- FLDV (R135). -/
def execFldv (c : Ctl) (vc : Bool) (vr : BitVec 11) (ar : BitVec 5) (arr : BitVec 5) (s : State) : Out :=
  let a := s.ra ar.toNat
  .next (s.syl (.fldv c vc vr ar arr) c (s.farCheck a 64) fun s =>
    let r := s.shadowV (s.clOf vc) (s.vn vr)
    if r.2 then
      r.1.addFar (.v (s.clOf vc) (s.vn vr)) 64 false (some (s.farCore a)) (fld a 24 0) (8 * (arr.toNat + 1))
    else r.1)

/-- Changes a landing entry of a bank. -/
def Bank.modFar (b : Bank) (id : Nat) (f : Far → Far) : Bank :=
  { b with fars := b.fars.map fun x => if x.id = id then f x else x }

/-- FAR_DATA_ARRIVAL: the data reaches the landing buffer; a clock that was frozen for it goes on (R136). -/
def execFarDataArrival (bank far : Nat) (s : State) : Out :=
  .next ((s.focus bank).modB (·.modFar far fun x => { x with here := x.here || x.data.isSome })).thaw

/-- FAR_LOAD_LAND: the entries of the bank that are due write their destinations, or the core's clock freezes because the
data of one is absent (R136). A write issued later keeps its destination (R72), and writes to s0 are discarded. -/
def execFarLoadLand (bank : Nat) (s : State) : Out :=
  let s := s.focus bank
  let now := s.now
  if s.b.starved now then .next (s.modCore s.b.core fun c => { c with frozen := true })
  else
    let ripe := s.b.fars.filter fun f => f.due ≤ now ∧ f.here = true
    let land (b : Bank) (f : Far) : Bank :=
      let d := f.data.getD 0
      b.landFar f (if f.dest.width = 512 then d else (extendTo64 d f.size f.signed).toNat)
    .next (s.modB fun b => { ripe.foldl land b with fars := b.fars.filter fun f => !(decide (f.due ≤ now) && f.here) })

/-- GLD_FAULT: a GLD or a returning atomic has faulted. The fault is reported, a clock frozen for its data goes on, and
the bank stops at its next boundary until the fault's reply (R229). -/
def execGldFault (bank : Nat) (s : State) : Out :=
  let s := s.focus bank
  match s.b.queues.find? fun e => e.2.susp && !e.2.told with
  | none => .next s
  | some (k, q) =>
    let r := s.b.kfr.get 0 k
    let c : Cause := ⟨6, rfld r 62 59, 6, k / 4, q.fa, r, false, .after, rfld r 62 59 == 7, some k⟩
    .next ((s.modB fun b => { b with queues := b.queues.put k { q with told := true } }).report c true).thaw

/-! ### Circular buffers (R138 to R142) -/

/-- A counter change of the buffer that an earlier issue made is still on its way (R141). -/
def State.cbInFlight (s : State) (i : Nat) : Bool :=
  s.b.pend.any fun p => match p.loc with
    | .cbrel col buf _ => 8 * col + buf == i
    | _ => false

/-- Releases of the buffer on their way, whose condition later syllables must count. -/
def State.cbComing (s : State) (i : Nat) : Nat :=
  (s.b.pend.filter fun p => match p.loc with
    | .cbrel col buf _ => 8 * col + buf == i
    | _ => false).length

/-- The condition of a syllable on a buffer: a filled slot of an inbound buffer or a free one of an outbound buffer
(R140, R141). -/
def State.cbOpen (s : State) (i : Nat) : Bool :=
  let r := s.b.cbs.get 0 i
  decide ((if (s.b.cb i).out then rfld r 24 16 else rfld r 33 25) > s.cbComing i)

/-- The share offset of the head or tail slot; undefined while a release is on its way (R70, R140, R141). -/
def State.cbSlot (s : State) (i : Nat) (tail : Bool) : Nat :=
  let r := s.b.cbs.get 0 i
  if s.cbInFlight i then s.undef 32 [140, i]
  else (s.b.cb i).base + (if tail then rfld r 7 0 else rfld r 15 8) * (s.b.cb i).size

/-- The bounds of a buffer's slot: it lies wholly within the share (R138). -/
def State.cbRange (s : State) (i : Nat) (a n : Nat) (slot : Nat) : List Cause :=
  if a + n > slot + (s.b.cb i).size ∨ slot + (s.b.cb i).size > s.shareSize then [s.spaddr 1 a] else []

/-- CBRD of 64 bytes (R140). -/
def execCbrdVector (c : Ctl) (vc : Bool) (vr : BitVec 11) (cb : BitVec 3) (off : BitVec 6) (s : State) : Out :=
  let i := 8 * s.cur.col + cb.toNat
  let slot := s.cbSlot i false
  let a := slot + 64 * off.toNat
  .next (s.syl (.cbrdVector c vc vr cb off) c
    (if !(s.b.cb i).en ∨ (s.b.cb i).out then [s.spaddr 4 a] else s.cbRange i a 64 slot) fun s =>
    if s.cbOpen i then s.putV (s.clOf vc) (s.vn vr) (s.spNat a 64) 0xFFFF 4 (s.spPoison a 64) else s)

/-- CBRD of the head's or the tail's address (R140). -/
def execCbrdAddress (c : Ctl) (ar : BitVec 5) (tl : Bool) (cb : BitVec 3) (s : State) : Out :=
  let i := 8 * s.cur.col + cb.toNat
  let a := s.cbSlot i tl
  .next (s.syl (.cbrdAddress c ar tl cb) c
    (if !(s.b.cb i).en ∨ (s.b.cb i).out ≠ tl then [s.spaddr 4 a] else s.cbRange i a 0 a) fun s =>
    if s.cbOpen i then s.result (.a ar.toNat) a 1 4 else s)

/-- CBREL: the L slot releases an inbound buffer's head, the W slot publishes an outbound buffer's tail, with a bound of 2
(R141). -/
def execCbrel (c : Ctl) (cb : BitVec 3) (s : State) : Out :=
  let i := 8 * s.cur.col + cb.toNat
  let w := s.cur.slot == 2
  .next (s.syl (.cbrel c cb) c (if !(s.b.cb i).en ∨ (s.b.cb i).out ≠ w then [s.spaddr 4 (s.cbSlot i w)] else []) fun s =>
    if s.cbOpen i then s.modB fun b => { b with
      pend := b.pend ++ [⟨.cbrel s.cur.col cb.toNat w, 0, 0, 1, 1, b.iss, s.now + 2, false, false, b.region.isSome⟩] }
    else s)

/-- The bits of CBC and CBS that a write changes (R138). -/
def cbcMask : DWord := 0xFFFFFFC001FFFFC0

/-- A write of CBC: while EN = 1 it takes effect only in EN (R142). -/
def Bank.writeCbc (b : Bank) (i : Nat) (v : DWord) : Bank :=
  if (b.cb i).en then
    if v.getLsbD 63 then b
    else
      let mine (p : Pkt) : Bool := p.kind == .cpyb && p.buf == i % 8
      { b with
        cbc := b.cbc.set 0 i (setFld (b.cbc.get 0 i) 63 63 0)
        filled := b.filled.filter fun f => f.1 != i
        queues := b.queues.map fun e =>
          if e.1 / 4 = i / 8 then (e.1, { e.2 with pkts := e.2.pkts.map fun p => if mine p then { p with orphan := true } else p })
          else e }
  else ({ b with cbc := b.cbc.set 0 i (v &&& cbcMask) }).cbFlag i

/-- A write of CBS, ignored while EN = 1 (R142). -/
def Bank.writeCbs (b : Bank) (i : Nat) (v : DWord) : Bank :=
  if (b.cb i).en then b else { b with cbs := b.cbs.set 0 i (v &&& 0x3FFFFFFFF) }

/-- CBC_WRITE: a SYSWR of CBC reaches the register (R142). -/
def execCbcWrite (bank col buf : Nat) (val : BitVec 64) (s : State) : Out :=
  .next ((s.focus bank).modB fun b =>
    if col < b.cols ∧ buf < 8 then (b.arrived (0x400 + 16 * col + 2 * buf) val).writeCbc (8 * col + buf) val else b)

/-! ### Scale loads and guarded loads (R143, R281, R288) -/

/-- The little-endian number at an address of the share as SCLD reads it: the list of reads to which a region forwards its
held stores does not name SCLD, which reads the scratchpad as it stands (R144, R286). -/
def State.scaleAt (s : State) (a : Nat) : Nat := leNat ((List.range 4).map fun i => s.shareByte (a + i))

/-- Poison of the bytes that SCLD reads. -/
def State.scalePoison (s : State) (a : Nat) : Bool :=
  s.slot.poisoned a 4 || s.b.stores.any fun st => st.poison && st.addr < a + 4 && a < st.addr + st.bytes.length

/-- SCLD (R143). -/
def execScld (c : Ctl) (xs : BitVec 3) (ar : BitVec 5) (all : Bool) (ofs : BitVec 8) (s : State) : Out :=
  let u := if all then 32 else 4
  let a := s.addr8 ar ofs u
  .next (s.syl (.scld c xs ar all ofs) c (s.spCheck a u u).toList fun s =>
    let col := s.cur.col
    let one (s : State) (n a : Nat) : State := s.result (.xs col n) (s.scaleAt a) 1 4 (s.scalePoison a)
    let s := if all then (List.range 8).foldl (fun s j => one s j (a + 4 * j)) s else one s xs.toNat a
    s.postStep ar (ofs8 ofs u).2)

/-- Inside a region a guarded load takes the lowest free entry of its column's guard table; writes of the same issue are
tested too (R288, R289). -/
def State.guard (s : State) (a n : Nat) : State :=
  match s.b.region with
  | none => s
  | some r =>
    match (List.range 64).find? fun g => (r.guards.find (64 * s.cur.col + g)).isNone with
    | none => s.abortSync 4 5 0
    | some g => s.modB fun b => { b with region := some { r with guards := r.guards.put (64 * s.cur.col + g) (a, n) } }

/-- LDG of an element (R281, R288). -/
def execLdgScalar (c : Ctl) (rs : BitVec 6) (ar : BitVec 5) (fmt : BitVec 3) (d : BitVec 7) (s : State) : Out :=
  let u := (ldFmt fmt).1
  let a := addA (s.ra ar.toNat) (d.toInt * u)
  .next (s.syl (.ldgScalar c rs ar fmt d) c (s.spCheck a u u).toList fun s => (s.loadS rs a fmt).guard a u)

/-- LDG of a register (R281, R288). -/
def execLdgVector (c : Ctl) (vc : Bool) (vr : BitVec 11) (ar : BitVec 5) (d : BitVec 4) (s : State) : Out :=
  let a := addA (s.ra ar.toNat) (d.toInt * 64)
  .next (s.syl (.ldgVector c vc vr ar d) c (s.spCheck a 64 64).toList fun s =>
    (s.putV (s.clOf vc) (s.vn vr) (s.spNat a 64) 0xFFFF 4 (s.spPoison a 64)).guard a 64)

end Sys2Proof.Machine
end

