-- ==== Sys2Proof/Machine/Matrix.lean ====
section
/-! DEFINITION. The matrix engine (R181 to R205): panels and images, the tile scoreboard, the X forms, streams, and the
moves that start and finish an operation. -/

namespace Sys2Proof.Machine

open Sys2Proof

/-! ### Tiles, panels and images -/

/-- The tiles of a form's operand: one, or the four of a quad (R182). -/
def quadOf (t : Nat) (qd : Bool) : List Nat := if qd then [t, t + 1, t + 2, t + 3] else [t]

/-- The destination tiles of an X form. -/
def Instr.destTiles : Instr → List Nat
  | .mma _ t qd .. => quadOf t.toNat qd
  | .mmas _ t qd .. => quadOf t.toNat qd
  | .tzero _ t qd => quadOf t.toNat qd
  | .tld _ t qd .. => quadOf t.toNat qd
  | .tadd _ t qd .. => quadOf t.toNat qd
  | .tmov _ t qd _ => quadOf t.toNat qd
  | _ => []

/-- The source tiles of an X form that are no destination by their field. -/
def Instr.srcTiles : Instr → List Nat
  | .tst _ t qd .. => quadOf t.toNat qd
  | .tadd _ _ qd ta src => quadOf ta.toNat qd ++ (if src.getLsbD 13 then [] else quadOf (fld src.toNat 12 2) qd)
  | .tmov _ _ qd ta => quadOf ta.toNat qd
  | _ => []

/-- The quad bit of an X form. -/
def Instr.quad : Instr → Bool
  | .mma _ _ qd .. | .mmas _ _ qd .. | .tzero _ _ qd | .tld _ _ qd .. | .tst _ _ qd .. | .tadd _ _ qd .. | .tmov _ _ qd _ => qd
  | _ => false

/-- The mantissa width of a code of FA or FB (R185). -/
def mantissa (f : BitVec 3) : Nat := if f = 7 then 16 else f.toNat + 2

/-- Rounds up to a multiple of 64. -/
def ceil64 (n : Nat) : Nat := (n + 63) / 64 * 64

/-- The size of an A panel (R184). -/
def aPanel (nc m : Nat) : Nat := nc * 128 * (2 * m + 1)

/-- The size of a B panel (R184). -/
def bPanel (nc m : Nat) (qd : Bool) : Nat :=
  let n := if qd then 128 else 32
  ceil64 (n * nc) + n * nc * 2 * m

/-- The bytes of an image (R183, R201). -/
def imageSize (fmt : Nat) (qd : Bool) : Nat :=
  if isBfp fmt then aPanel (if qd then 8 else 2) (bfpWidth fmt) else fmtWidth fmt / 8 * 4096 * (if qd then 4 else 1)

/-- The scratchpad ranges of an X form: whether they are written, base and size. The operands are the address register
values that the form reads (R184, R186). -/
def Instr.ranges (i : Instr) (aa ab : Nat) : List (Bool × Nat × Nat) :=
  match i with
  | .mma _ _ qd _ _ fa fb ncm _ _ =>
    [(false, aa, aPanel (ncm.toNat + 1) (mantissa fa)), (false, ab, bPanel (ncm.toNat + 1) (mantissa fb) qd)]
  | .mmas _ _ qd _ _ _ fb ncm _ => [(false, ab, bPanel (ncm.toNat + 1) (mantissa fb) qd)]
  | .tld _ _ qd _ fmt _ => [(false, aa, imageSize fmt.toNat qd)]
  | .tst _ _ qd _ fmt .. => [(true, aa, imageSize fmt.toNat qd)]
  | .tadd _ _ qd _ src => if src.getLsbD 13 then [(false, aa, imageSize 8 qd)] else []
  | _ => []

/-- The operation holds its bank locks: from its issue, at which it leaves the scoreboard, to its release (R125); a stream
from its start, and not while it is suspended (R195, R196). -/
def XOp.holding (o : XOp) : Bool := !o.loose && match o.ins with
  | .mmas .. => o.start.isSome
  | _ => true

/-- A range of a share lies in banks that some of a core's operations have locked against the access (R125). -/
def Core.lockedBy (c : Core) (some_ : XOp → Bool) (slotB : Bool) (a n : Nat) (write : Bool) : Bool :=
  c.xops.any fun o => o.slotB == slotB && o.holding && some_ o && (Instr.ranges o.ins o.aa o.ab).any fun r =>
    (r.1 || write) && n != 0 && decide (a / 524288 ≤ (r.2.1 + r.2.2 - 1) / 524288) &&
      decide (r.2.1 / 524288 ≤ (a + n - 1) / 524288)

/-- An access of a syllable, of the copy engine or of a commit's drain waits for a lock (R125, R388). -/
def Core.locked (c : Core) (slotB : Bool) (a n : Nat) (write : Bool) : Bool := c.lockedBy (fun _ => true) slotB a n write

/-- Tile numbers of the bank slot (R122, R181). -/
def SlotMem.tileCount (m : SlotMem) : Nat := rfld (m.partw.setWidth 64) 13 8 * 32

/-- A tile that the form names does not exist, or the form may not name it in its place (R181, R182, R186). -/
def State.xIllegal (s : State) (i : Instr) : Bool :=
  let dst := Instr.destTiles i
  let src := Instr.srcTiles i
  let named := match i with | .tst .. => src | _ => dst
  let q := Instr.quad i
  let own (t : Nat) : Bool := decide (s.b.col ≤ t % 4) && decide (t % 4 < s.b.col + s.b.cols)
  (dst ++ src).any (fun t => decide (t ≥ s.slot.tileCount)) ||
    (if q then s.b.mode != .whole || s.cur.col != 0 || ((dst ++ src).map (· % 4)) != ((dst ++ src).zipIdx.map fun e => e.2 % 4)
     else named.any (fun t => t % 4 != s.b.col + s.cur.col) || src.any fun t => !own t)

/-- The checks of R186 that need the machine's state. -/
def State.xCauses (s : State) (i : Instr) (aa ab : Nat) : List Cause :=
  if s.xIllegal i then [s.illegal]
  else (Instr.ranges i aa ab).filterMap fun r => s.spCheck r.2.1 r.2.2 64

/-- Some tile of the form is busy (R190). -/
def State.tileBusy (s : State) (i : Instr) : Bool :=
  (Instr.destTiles i ++ Instr.srcTiles i).any fun t => s.slot.busy.contains t

/-- A quarter that the form drives already holds eight operations (R189). -/
def State.unitFull (s : State) (i : Instr) : Bool :=
  let quarters (j : Instr) (col : Nat) : List Nat := if Instr.quad j then [0, 1, 2, 3] else [col]
  (quarters i (s.b.col + s.cur.col)).any fun q =>
    decide ((s.core.xops.filter fun o => (quarters o.ins o.col).contains q).length ≥ 8)

/-- The form cannot issue now (R189, R190). -/
def State.xBusy (s : State) (i : Instr) : Bool := s.tileBusy i || s.unitFull i

/-- In a region the first write to a tile shadows it; the ninth of a column overflows (R204, R284). -/
def State.shadowTiles (s : State) (ts : List Nat) : State × Bool :=
  match s.b.region with
  | none => (s, true)
  | some r =>
    let new := ts.filter fun t => (r.tsh.find t).isNone
    let full (c : Nat) : Bool := decide (((r.tsh.map Prod.fst ++ new).filter fun t => t % 4 == c).length > 8)
    if new.any (fun t => full (t % 4)) then (s.abortSync 4 2 0, false)
    else
      let tiles := s.slot.tiles
      (s.modB fun b => { b with region := some { r with
        tsh := new.foldl (fun m t => m.put t (tiles.get tileZero t, s.slot.poisonTiles.contains t)) r.tsh } }, true)

/-- The lines of an image, for the held-store entries that a TST of a region takes (R286); its bytes follow at its
release. -/
def lineAddrs (a n : Nat) : List Nat := (List.range ((n + 63) / 64)).map fun k => a + 64 * k

/-- A TST of a region takes its held-store entries, and its image is tested against the guards (R286, R289). -/
def State.holdImage (s : State) (a n : Nat) : State × Bool :=
  match s.b.region with
  | none => (s, true)
  | some r =>
    let hs : List HStore := (lineAddrs a n).map fun l => ⟨s.cur.col, s.cur.slot, false, l, [], s.b.iss, s.now, 0, false, s.fresh⟩
    let r' : Region := { r with held := r.held ++ hs }
    if r'.entries s.cur.col > 1024 then (s.abortSync 4 3 0, false)
    else ((s.modB fun b => { b with region := some r' }).guardCheck a n, true)

/-- AN X OPERATION ISSUES (R187, R189, R190): its tiles become busy, its operands are read, and it enters its unit. -/
def State.xIssue (s : State) (i : Instr) (aa ab : Nat) (step : Option (BitVec 5 × Nat)) : State :=
  if s.xBusy i then s
  else
    let r := s.shadowTiles (Instr.destTiles i)
    let s := r.1
    let h := match i with
      | .tst _ _ qd _ fmt .. => s.holdImage aa (imageSize fmt.toNat qd)
      | _ => (s, true)
    let s := h.1
    let s := match step with
      | some (ar, n) => s.resA ar.toNat (s.ra ar.toNat + n)
      | none => s
    if !(r.2 && h.2) then s
    else
      let k := match i with | .tst _ _ _ _ _ xs .. => xs.toNat | _ => 0
      let cols := if Instr.quad i then [0, 1, 2, 3] else [s.cur.col]
      let o : XOp := ⟨s.core.xser, s.b.key, s.b.slotB, s.b.col + s.cur.col, i, aa, ab, cols.map fun c => s.rxs c k, none,
        none, s.b.iss, s.now, s.b.region.isSome, false, []⟩
      let s := s.modSlot fun m => { m with busy := m.busy ++ Instr.destTiles i ++ Instr.srcTiles i }
      s.modCore s.b.core fun c => { c with xops := c.xops ++ [o], xser := c.xser + 1 }

/-- Stores still on their way into the share of the bank in focus, from every bank of it, in their order. -/
def State.flying (s : State) : List Store :=
  let others := (s.banks.map Prod.snd).filter fun x => x.bound && x.core == s.b.core && x.slotB == s.b.slotB
  (others.flatMap fun x => sortStores x.stores) ++ sortStores s.b.stores

/-- The operation writes the scratchpad. -/
def XOp.writes (o : XOp) : Bool := match o.ins with
  | .tst .. => true
  | _ => false

/-- The order of two operations: that of their issues, and within one issue those that read the scratchpad before those that
write it (R189, R380). -/
def XOp.precedes (x o : XOp) : Bool :=
  if x.bank == o.bank && x.iss == o.iss && x.writes != o.writes then o.writes else decide (x.id < o.id)

/-- What an operation reads at its issue of the bytes of its operands that may still change until it is performed: those under
stores in flight, and all of a stream's B panel, which is not locked before the stream starts (R193, R195, R377). It reads as
an L access does, so that a store of its own issue is not seen (R380); bytes that an earlier operation still has to write it
reads after that one's release. -/
def State.operandsNow (s : State) (o : XOp) : Smap Byte :=
  let reads := (Instr.ranges o.ins o.aa o.ab).filter fun r => !r.1
  let inside (a : Nat) : Bool := reads.any fun r => decide (r.2.1 ≤ a) && decide (a < r.2.1 + r.2.2)
  let later (a : Nat) : Bool := s.core.xops.any fun x => x.slotB == o.slotB && x.writes && x.precedes o &&
    (Instr.ranges x.ins x.aa x.ab).any fun r => decide (r.2.1 ≤ a) && decide (a < r.2.1 + r.2.2)
  let held : List HStore := match s.b.region with
    | some r => if o.reg then r.held.filter fun h => !h.spill && decide (s.now < h.cyc + h.lat) else []
    | none => []
  let span (x : Nat × Nat) : List Nat := (List.range x.2).map (x.1 + ·)
  let covered : List Nat := match o.ins with
    | .mmas .. => reads.flatMap fun (r : Bool × Nat × Nat) => span r.2
    | _ => ((s.flying.map fun (st : Store) => (st.addr, st.bytes.length)) ++
        held.map fun (h : HStore) => (h.addr, h.bytes.length)).flatMap span |>.filter inside
  let v := if o.reg then s else s.modB fun b => { b with region := none }
  (covered.filter fun a => !(later a)).foldl (fun m a => m.put a (v.spByte a)) []

/-- The X operations of an issue read their operands at issue, as far as stores in flight could still change them; the
locks keep everything later away (R125, R193, R377). -/
def State.fixOperands (s : State) : State :=
  let mine (o : XOp) : Bool := o.bank == s.b.key && o.iss == s.b.iss && o.start.isNone && !o.loose
  if s.core.xops.any mine then
    s.modCore s.b.core fun c => { c with xops := c.xops.map fun o => if mine o then { o with fix := s.operandsNow o } else o }
  else s

/-- The stepped tile number of the j-th issue (R187); numbers past 2047 name no tile and stay past the share. -/
def State.stepT (s : State) (t : BitVec 11) : BitVec 11 := .ofNat 11 (min 2047 (t.toNat + 4 * s.cur.j))

/-- An X form with its destination as the j-th issue names it (R187). -/
def State.stepX (s : State) : Instr → Instr
  | .mma c t qd aa ab fa fb ncm z ps => .mma c (s.stepT t) qd aa ab fa fb ncm z ps
  | .mmas c t qd sp ab fa fb ncm z => .mmas c (s.stepT t) qd sp ab fa fb ncm z
  | .tzero c t qd => .tzero c (s.stepT t) qd
  | .tld c t qd ar fmt ps => .tld c (s.stepT t) qd ar fmt ps
  | .tst c t qd ar fmt xs sat ps => .tst c (s.stepT t) qd ar fmt xs sat ps
  | .tadd c t qd ta src => .tadd c (s.stepT t) qd ta src
  | .tmov c t qd ta => .tmov c (s.stepT t) qd ta
  | i => i

/-- MMA (R194). -/
def execMma (c : Ctl) (t : BitVec 11) (qd : Bool) (aa ab : BitVec 5) (fa fb : BitVec 3) (ncm : BitVec 7) (z ps : Bool)
    (s : State) : Out :=
  let i := s.stepX (.mma c t qd aa ab fa fb ncm z ps)
  .next (s.syl (.mma c t qd aa ab fa fb ncm z ps) c (s.xCauses i (s.ra aa.toNat) (s.ra ab.toNat)) fun s =>
    s.xIssue i (s.ra aa.toNat) (s.ra ab.toNat)
      (if ps then some (ab, bPanel (ncm.toNat + 1) (mantissa fb) qd) else none))

/-- MMAS enters k3 of its column as one packet and its unit as one operation (R195). -/
def execMmas (c : Ctl) (t : BitVec 11) (qd : Bool) (sp ab : BitVec 5) (fa fb : BitVec 3) (ncm : BitVec 7) (z : Bool)
    (s : State) : Out :=
  let i := s.stepX (.mmas c t qd sp ab fa fb ncm z)
  .next (s.syl (.mmas c t qd sp ab fa fb ncm z) c (s.xCauses i 0 (s.ra ab.toNat)) fun s =>
    let k := 4 * s.cur.col + 3
    if s.xBusy i ∨ (s.b.queues.get .empty k).pkts.length ≥ 16 then s
    else
      let id := s.core.xser
      let s' := s.xIssue i 0 (s.ra ab.toNat) none
      if s'.core.xser = id then s'
      else
        let st : Stream := ⟨s.cur.col, (s.stepT t).toNat, qd, s.ra ab.toNat, mantissa fa, mantissa fb, ncm.toNat + 1, z,
          s.rs (2 * sp.toNat), s.rs (2 * sp.toNat + 1), 0, false, id, s.b.snapTs, false, s.b.region.isSome⟩
        let p : Pkt := ⟨.mmas id, s.fresh, s.rs (2 * sp.toNat), s.rs (2 * sp.toNat + 1), 0, 0, false, 0, false, false,
          0, none, none, false, false, 0, 0, false, 0, [], false, none, s.b.snapTs, s.b.iss, s.now, s.b.region.isSome⟩
        s'.modB fun b => { b with
          streams := b.streams.put id st
          queues := b.queues.upd .empty k fun q => { q with pkts := q.pkts ++ [p] } })

/-- TZERO (R199). -/
def execTzero (c : Ctl) (t : BitVec 11) (qd : Bool) (s : State) : Out :=
  let i := s.stepX (.tzero c t qd)
  .next (s.syl (.tzero c t qd) c (s.xCauses i 0 0) fun s => s.xIssue i 0 0 none)

/-- TLD (R200). -/
def execTld (c : Ctl) (t : BitVec 11) (qd : Bool) (ar fmt : BitVec 5) (ps : Bool) (s : State) : Out :=
  let i := s.stepX (.tld c t qd ar fmt ps)
  .next (s.syl (.tld c t qd ar fmt ps) c (s.xCauses i (s.ra ar.toNat) 0) fun s =>
    s.xIssue i (s.ra ar.toNat) 0 (if ps then some (ar, imageSize fmt.toNat qd) else none))

/-- TST (R201). -/
def execTst (c : Ctl) (t : BitVec 11) (qd : Bool) (ar fmt : BitVec 5) (xs : BitVec 3) (sat ps : Bool) (s : State) : Out :=
  let i := s.stepX (.tst c t qd ar fmt xs sat ps)
  let cols := if qd then [0, 1, 2, 3] else [s.cur.col]
  .next (s.syl (.tst c t qd ar fmt xs sat ps) c
    ((if cols.any (fun k => s.b.poison.contains (.xs k xs.toNat)) then [s.cause 3 0] else []) ++
      s.xCauses i (s.ra ar.toNat) 0) fun s =>
    s.xIssue i (s.ra ar.toNat) 0 (if ps then some (ar, imageSize fmt.toNat qd) else none))

/-- TADD (R202). -/
def execTadd (c : Ctl) (t : BitVec 11) (qd : Bool) (ta : BitVec 11) (src : BitVec 14) (s : State) : Out :=
  let i := s.stepX (.tadd c t qd ta src)
  let ar : BitVec 5 := .ofNat 5 (fld src.toNat 12 8)
  .next (s.syl (.tadd c t qd ta src) c
    ((if src.getLsbD 13 && s.b.poison.contains (.a ar.toNat) then [s.cause 3 0] else []) ++
      s.xCauses i (s.ra ar.toNat) 0) fun s =>
    s.xIssue i (s.ra ar.toNat) 0 (if src.getLsbD 13 && src.getLsbD 7 then some (ar, imageSize 8 qd) else none))

/-- TMOV (R202). -/
def execTmov (c : Ctl) (t : BitVec 11) (qd : Bool) (ta : BitVec 11) (s : State) : Out :=
  let i := s.stepX (.tmov c t qd ta)
  .next (s.syl (.tmov c t qd ta) c (s.xCauses i 0 0) fun s => s.xIssue i 0 0 none)

/-- TROW reads the row register, and with CL abandons every suspended stream (R198). -/
def execTrow (c : Ctl) (rd : BitVec 6) (cl : Bool) (s : State) : Out :=
  .next (s.syl (.trow c rd cl) c [] fun s =>
    let s := s.resS rd.toNat s.b.trow 2
    if cl && s.cur.phase != .commit then s.dropStreams else s)

/-! ### Starting an operation (R191 to R193) -/

/-- The array unit runs MMA and MMAS; the tile port runs the others (R189). -/
def Instr.onArray : Instr → Bool
  | .mma .. | .mmas .. => true
  | _ => false

/-- Cycles a chunk takes, by the width of A (R192). -/
def chunkCycles (fa : BitVec 3) : Nat :=
  match fa.toNat with
  | 0 => 2 | 1 | 2 => 4 | 7 => 16 | _ => 8

/-- Lines of one quarter's part of an image (R191). -/
def imageLines (fmt : Nat) : Nat := if isBfp fmt then 4 + 8 * bfpWidth fmt else 8 * fmtWidth fmt

/-- Occupancy of the unit and release after the start; none for a stream, which ends with its last row (R191). -/
def Instr.xTime : Instr → Option (Nat × Nat)
  | .mma _ _ _ _ _ fa _ ncm .. => let n := (ncm.toNat + 1) * chunkCycles fa; some (n, n + 6)
  | .tzero .. => some (4, 4)
  | .tld _ _ _ _ fmt _ => let l := imageLines fmt.toNat; some (l, l + 4)
  | .tst _ _ _ _ fmt .. => let l := imageLines fmt.toNat; some (l, l + 4)
  | .tadd _ _ _ _ src => if src.getLsbD 13 then some (256, 260) else some (128, 132)
  | .tmov .. => some (128, 132)
  | _ => none

/-- The quarters an operation drives (R182). -/
def XOp.quarters (o : XOp) : List Nat := if Instr.quad o.ins then [0, 1, 2, 3] else [o.col]

/-- X_OP_START: the oldest operation of its unit starts when the unit is free and no operation before it, or already at work,
locks its banks against it (R189, R191, R125). -/
def execXOpStart (core op : Nat) (s : State) : Out :=
  let c := s.cores.get .reset core
  match c.xops.find? fun o => o.id == op && o.start.isNone with
  | none => .next s
  | some o =>
    let same (x : XOp) : Bool :=
      Instr.onArray x.ins == Instr.onArray o.ins && x.id != o.id && x.quarters.any fun q => o.quarters.contains q
    let busy (x : XOp) : Bool := same x && match x.start with
      | none => x.precedes o
      | some t => match Instr.xTime x.ins with
        | some (n, _) => decide (c.cyc < t + n)
        | none => x.due.isNone
    let first (x : XOp) : Bool := x.id != op && (x.precedes o || x.start.isSome)
    let blocked := (Instr.ranges o.ins o.aa o.ab).any fun r => c.lockedBy first o.slotB r.2.1 r.2.2 r.1
    let streamSusp := match s.bank? o.bank with
      | some b => b.streams.any fun e => e.2.xop == o.id && e.2.susp
      | none => false
    if c.xops.any busy || blocked || streamSusp || decide (c.cyc < o.cyc) then .next s
    else
      let due := (Instr.xTime o.ins).map fun n => c.cyc + n.2
      .next (s.modCore core fun c => { c with xops := c.xops.map fun x =>
        if x.id = op then { x with start := some c.cyc, due := due, loose := false } else x })

/-! ### What an operation does (R194 to R202) -/

/-- A byte of an operation's operand: as it was fixed at issue, or else as the share, or the region, has it (R193, R286). -/
def State.opByte (s : State) (fix : Smap Byte) (a : Nat) : Byte := match fix.find a with
  | some x => x
  | none => s.spByte a

/-- A little-endian number of an operation's operand. -/
def State.opNat (s : State) (fix : Smap Byte) (a n : Nat) : Nat := leNat ((List.range n).map fun i => s.opByte fix (a + i))

/-- Blocks of a panel as exponent and mantissas. -/
abbrev Block := Nat × List Nat

/-- A block of a panel: exponent byte at one address, mantissa field at another (R89, R184). -/
def State.panelBlock (s : State) (fix : Smap Byte) (ea ma m : Nat) : Block :=
  ((s.opByte fix ea).toNat, (List.range 16).map (elem (s.opNat fix ma (2 * m)) m))

/-- The blocks of row `r` of an A panel. -/
def State.aBlocks (s : State) (fix : Smap Byte) (base nc m r : Nat) : List Block :=
  (List.range nc).map fun c => s.panelBlock fix (base + 128 * c + r) (base + 128 * nc + (128 * c + r) * (2 * m)) m

/-- The blocks of column `j` of a B panel of `n` columns. -/
def State.bBlocks (s : State) (fix : Smap Byte) (base nc m n j : Nat) : List Block :=
  (List.range nc).map fun c => s.panelBlock fix (base + n * c + j) (base + ceil64 (n * nc) + (n * c + j) * (2 * m)) m

/-- One element: the chunks of a row and a column accumulated in order (R194). -/
def dotAcc (ma mb : Nat) (acc : Word) (a b : List Block) : Word :=
  (a.zip b).foldl (fun acc p => accStep acc (chunk p.1.1 ma p.2.1 mb p.1.2 p.2.2)) acc

/-- A tile of the slot: its 4,096 elements, row by row (R181). -/
def SlotMem.tile (m : SlotMem) (t : Nat) : List Word :=
  let l := m.tiles.get tileZero t
  if l.length = 4096 then l else (l ++ List.replicate 4096 0).take 4096

/-- Writes a tile of the slot. -/
def SlotMem.putTile (m : SlotMem) (t : Nat) (v : List Word) : SlotMem := { m with tiles := m.tiles.set tileZero t v }

/-- Marks a tile poisoned or clean. -/
def SlotMem.poisonTile (m : SlotMem) (t : Nat) (bad : Bool) : SlotMem :=
  { m with poisonTiles := if bad then t :: m.poisonTiles.filter (· != t) else m.poisonTiles.filter (· != t) }

/-- One row of a product: 32 elements from old ones. -/
def rowProduct (ma mb : Nat) (z : Bool) (a : List Block) (cols : List (List Block)) (old : List Word) : List Word :=
  (cols.zip old).map fun p => dotAcc ma mb (if z then 0 else p.2) a p.1

/-- The address of element [r][j] of quarter `q`'s part of an image with elements of `n` bytes (R183). -/
def imageAddr (base n : Nat) (qd : Bool) (q r j : Nat) : Nat :=
  base + n * (if qd then 128 * r + 32 * q + j else 32 * r + j)

/-- A tile read from an image, element by element, by `f` of the bits (R200). -/
def State.imageTile (s : State) (fix : Smap Byte) (base fmt : Nat) (qd : Bool) (q : Nat) (f : Nat → Word) : List Word :=
  let n := fmtWidth fmt / 8
  (List.range 4096).map fun k => f (s.opNat fix (imageAddr base n qd q (k / 32) (k % 32)) n)

/-- TLD's conversion: .f32 unchanged, narrower formats widened with canonical NaNs (R200). -/
def widen (fmt n : Nat) : Word := if fmt = 8 then .ofNat 32 n else .ofNat 32 (deliver 8 0 false (fval fmt n)).1

/-- TADD's sum (R202). -/
def tileSum (a b : Word) : Word := .ofNat 32 (deliver 8 0 false (addV 0 (fval 8 a.toNat) (fval 8 b.toNat)).1).1

/-- The exact scaled value of an accumulator (R95). -/
def scaled (acc xs : Word) : FVal := (mulV (fval 8 acc.toNat) (fval 8 xs.toNat)).1

/-- The bytes of a TST, as pieces: each quarter's rows, or the exponents and mantissa fields of an A panel (R183, R201). -/
def storeImage (base fmt : Nat) (qd sat : Bool) (tiles : List (List Word × Word)) : List (Nat × List Byte) :=
  let qs := tiles.zipIdx
  if isBfp fmt then
    let m := bfpWidth fmt
    let nc := if qd then 8 else 2
    qs.flatMap fun e => (List.range 256).flatMap fun k =>
      let r := k / 2
      let c := 2 * e.2 + k % 2
      let v := quantise m (((e.1.1.drop (32 * r + 16 * (k % 2))).take 16).map fun a => scaled a e.1.2)
      [(base + 128 * c + r, toBytes 1 v.1), (base + 128 * nc + (128 * c + r) * (2 * m), toBytes (2 * m) (ofElems m v.2.1))]
  else
    let n := fmtWidth fmt / 8
    qs.flatMap fun e => (List.range 128).map fun r =>
      (imageAddr base n qd e.2 r 0,
        ((e.1.1.drop (32 * r)).take 32).flatMap fun a => toBytes n (scaleStore fmt sat a e.1.2))

/-- The bytes that some pieces give to one line. -/
def gatherLine (pieces : List (Nat × List Byte)) (a : Nat) : List Byte :=
  (List.range 64).map fun i => ((pieces.findSome? fun p => byteIn p.1 p.2 (a + i))).getD 0

/-- A TST's image reaches the share, or in a region the held-store entries it took (R193, R286). -/
def State.putImage (s : State) (o : XOp) (pieces : List (Nat × List Byte)) (a n : Nat) (bad : Bool) : State :=
  if o.reg then
    s.modB fun b => { b with region := b.region.map fun r => { r with held := r.held.map fun h =>
      if h.iss = o.iss ∧ h.slot = 5 ∧ h.col = o.col - s.b.col ∧ h.bytes = [] ∧ a ≤ h.addr ∧ h.addr < a + n then
        { h with bytes := gatherLine pieces h.addr, bad := bad }
      else h } }
  else
    s.modSlot fun m => { m with
      share := pieces.foldl (fun sh p => sh.writeN p.1 p.2) m.share
      poisonLines := (if bad then (List.range ((a + n + 127) / 128 - a / 128)).map fun i => a / 128 + i else []) ++
        m.poisonLines.filter fun l => !(decide ((a + 127) / 128 ≤ l) && decide (l < (a + n) / 128)) }

/-- WHAT AN OPERATION DOES to its tiles and the scratchpad, as it stands complete at its release (R194, R199 to R202,
R205). A stream's rows are performed one by one (`MMAS_ROW`), and nothing is left to do here. -/
def State.xPerform (s : State) (o : XOp) : State :=
  let m := s.slot
  let bad (t : Nat) : Bool := m.poisonTiles.contains t
  let put (s : State) (t : Nat) (v : List Word) (p : Bool) : State := s.modSlot fun m => (m.putTile t v).poisonTile t p
  match o.ins with
  | .mma _ t qd _ _ fa fb ncm z _ =>
    let nc := ncm.toNat + 1
    let ma := mantissa fa
    let mb := mantissa fb
    let n := if qd then 128 else 32
    let rows := (List.range 128).map fun r => s.aBlocks o.fix o.aa nc ma r
    let lines := s.spPoison o.aa (aPanel nc ma) || s.spPoison o.ab (bPanel nc mb qd)
    (quadOf t.toNat qd).zipIdx.foldl (fun s e =>
      let cols := (List.range 32).map fun j => s.bBlocks o.fix o.ab nc mb n (32 * e.2 + j)
      let old := m.tile e.1
      let v := rows.zipIdx.flatMap fun x => rowProduct ma mb z x.1 cols ((old.drop (32 * x.2)).take 32)
      put s e.1 v (lines || (!z && bad e.1))) s
  | .tzero _ t qd => (quadOf t.toNat qd).foldl (fun s t => put s t tileZero false) s
  | .tld _ t qd _ fmt _ =>
    let p := s.spPoison o.aa (imageSize fmt.toNat qd)
    (quadOf t.toNat qd).zipIdx.foldl (fun s e => put s e.1 (s.imageTile o.fix o.aa fmt.toNat qd e.2 (widen fmt.toNat)) p) s
  | .tst _ t qd _ fmt _ sat _ =>
    let ts := quadOf t.toNat qd
    let pieces := storeImage o.aa fmt.toNat qd sat ((ts.map m.tile).zip o.xs)
    s.putImage o pieces o.aa (imageSize fmt.toNat qd) (ts.any bad)
  | .tadd _ t qd ta src =>
    let img := src.getLsbD 13
    let p := img && s.spPoison o.aa (imageSize 8 qd)
    (quadOf t.toNat qd).zipIdx.foldl (fun s e =>
      let a := m.tile (ta.toNat + e.2)
      let tb := fld src.toNat 12 2 + e.2
      let b := if img then s.imageTile o.fix o.aa 8 qd e.2 fun n => .ofNat 32 n else m.tile tb
      put s e.1 ((a.zip b).map fun x => tileSum x.1 x.2) (p || bad (ta.toNat + e.2) || (!img && bad tb))) s
  | .tmov _ t qd ta =>
    (quadOf t.toNat qd).zipIdx.foldl (fun s e => put s e.1 (m.tile (ta.toNat + e.2)) (bad (ta.toNat + e.2))) s
  | _ => s

/-- The operation has been performed. One issued before an open region reads and writes the share itself (R204). -/
def State.performed (s : State) (o : XOp) : State :=
  let r := s.b.region
  if o.reg then s.xPerform o
  else (State.xPerform (s.modB fun b => { b with region := none }) o).modB fun b => { b with region := r }

/-- The lines of a TST's image that another core may already see: each is written at some cycle between the operation's start
and its release, which one unspecified (R125, R377, R384). -/
def Core.lineWritten (c : Core) (o : XOp) (a : Nat) : Bool :=
  match o.start, o.due with
  | some t, some d => decide (t + Config.pick [384, o.id, a / 64] % (d - t + 1) ≤ c.cyc)
  | _, _ => false

/-- A byte of a slot's share, and whether its line is poison, as another core reads them: under the TSTs in progress
(R384). -/
def Core.farByte (c : Core) (slotB : Bool) (a : Nat) : Byte × Bool :=
  let m := c.slot slotB
  c.xops.foldl (fun r o => match o.ins with
    | .tst _ t qd _ fmt _ sat _ =>
      if o.slotB == slotB && !o.reg && c.lineWritten o a then
        let ts := quadOf t.toNat qd
        match (storeImage o.aa fmt.toNat qd sat ((ts.map m.tile).zip o.xs)).findSome? fun p => byteIn p.1 p.2 a with
        | some x => (x, ts.any m.poisonTiles.contains)
        | none => r
      else r
    | _ => r) (m.share.read a, m.poisoned a 1)

/-- FAR_READ: the target's share is read at one instant (R135). A share that is no longer there gives an undefined value
(assumption log, entry 86). -/
def execFarRead (bank far : Nat) (s : State) : Out :=
  let s := s.draw.focus bank
  match s.b.fars.find? (fun f => f.id == far && f.data.isNone) with
  | none => .next s
  | some f => match f.core with
    | none => .next s
    | some k => match s.mate k with
      | none => .next (s.modB (·.modFar far fun x => { x with data := some (s.undef (8 * x.size) [137, far]) }))
      | some m =>
        let c := s.cores.get .reset k
        let bs := (List.range f.size).map fun i => c.farByte m.slotB (f.addr + i)
        .next (s.modB (·.modFar far fun x => { x with data := some (leNat (bs.map Prod.fst)), poison := bs.any Prod.snd }))

/-- TILE_RELEASE: an operation whose time has come has been performed, and releases its tiles and its locks (R190,
R191). -/
def execTileRelease (core op : Nat) (s : State) : Out :=
  let c := s.cores.get .reset core
  match c.xops.find? fun o => o.id == op && (match o.due with | some d => decide (d ≤ c.cyc) | none => false) with
  | none => .next s
  | some o =>
    let s := s.draw.focus o.bank
    let s := s.performed o
    let ts := Instr.destTiles o.ins ++ Instr.srcTiles o.ins
    let s := s.modCore core fun c => { c with xops := c.xops.filter fun x => x.id != op }
    .next (s.modCore core fun c => c.modSlot o.slotB fun m => { m with busy := m.busy.filter fun t => !ts.contains t })

/-! ### Streams (R195, R196) -/

/-- Reads bytes of the bank's context for one engine, piece by piece within aligned lines of 128 bytes: the bytes, whether
any line was poison, and the leaf of each piece; or the fault with its address, or none where a transaction (`txn`) would
read another package's memory (R307). -/
def State.readGlobal (s : State) (eng : Eng) (txn : Bool) (snap : Option Nat) :
    Nat → Nat → Nat → Except (Option (WalkFault × Nat)) (List Byte × Bool × List (Leaf × Nat))
  | 0, _, _ => .ok ([], false, [])
  | fuel + 1, va, n =>
    if n = 0 then .ok ([], false, [])
    else
      let k := min n (128 - va % 128)
      match s.translate eng false s.b.ctx va with
      | .error f => .error (some (f, va))
      | .ok l =>
        if txn && foreign (s.canon (Leaf.pa l va)) then .error none
        else if s.unlinked l va then .error (some (.of 6, va))
        else match State.readGlobal s eng txn snap fuel (va + k) (n - k) with
          | .error f => .error f
          | .ok r => .ok (s.readVia l va k snap ++ r.1, s.badVia l va snap || r.2.1, (l, va) :: r.2.2)

/-- A read through these leaves by queue `k` waits for a commit (R303), or at its core's memory port (R225, R377). -/
def State.readWaits (s : State) (k : Nat) (ls : List (Leaf × Nat)) (snap : Option Nat) : Bool :=
  ls.any fun e => s.portWaits k e.1 e.2 || (Tlb.ver e.1 && s.lockedFor (s.lineOf e.1 e.2) snap)

/-- Block images laid back to back (R195): exponent byte, then the mantissa field. -/
def blockImages (m : Nat) (bs : List Byte) (nc : Nat) : List Block :=
  (List.range nc).map fun c =>
    let b := bs.drop (c * (2 * m + 1))
    (leNat (b.take 1), (List.range 16).map (elem (leNat ((b.drop 1).take (2 * m))) m))

/-- A stream's fault (R196): the stream suspends, its locks are released, TROW is set, and k3's fault is reported. A fault of
a region aborts it (R204). -/
def State.streamFault (s : State) (col : Nat) (st : Stream) (f : WalkFault) (va : Nat) : State :=
  if st.reg then (s.copyFault (4 * col + 3) true false f false va)
  else
    let s := s.modB fun b => { b with
      streams := b.streams.put st.xop { st with susp := true }
      trow := setFld b.trow (16 * col + 15) (16 * col) (pack [(1, 1), (1, st.qd.toNat), (7, st.row), (7, 0)]) }
    let s := s.modCore s.b.core fun c => { c with xops := c.xops.map fun o =>
      if o.id = st.xop then { o with start := none, loose := true, fix := [] } else o }
    let s := s.copyFault (4 * col + 3) false false f false va
    s.modB Bank.stopAgain

/-- A packet has been issued to memory as far as a stream behind it waits for it (R195): all its accesses have been, or the
rest wait for a lock of a bank of the share. -/
def State.toMemory (s : State) (p : Pkt) : Bool :=
  let side : Option (Nat × Bool) := match p.kind with
    | .cpyIn => some (rfld p.p1 31 0, true)
    | .cpyOut | .cred .. => some (rfld p.p1 31 0, false)
    | .cpyb => p.side0.map fun x => (x.1 + p.slot.getD 0 * x.2.1, !x.2.2)
    | _ => none
  p.done || p.sent || (p.started && match side with
    | some (base, write) =>
      let a := (base + p.row * sval 32 (rfld p.p3 31 0)).toNat + p.pos
      s.core.locked s.b.slotB a (min 32 (rfld p.p2 31 0 - p.pos)) write
    | none => false)

/-- MMAS_ROW: the next row of the stream of a column is read through k3 and performed (R195). -/
def execMmasRow (bank col : Nat) (s : State) : Out :=
  let s := s.draw.focus bank
  match s.b.streams.find? fun e => e.2.col == col with
  | none => .next s
  | some (_, st) =>
    let q := s.b.queues.get .empty (4 * col + 3)
    let ahead := q.pkts.takeWhile fun p => match p.kind with | .mmas _ => false | _ => true
    let running := s.core.xops.any fun o => o.id == st.xop && o.start.isSome && o.due.isNone
    if st.susp ∨ q.susp ∨ !running ∨ ahead.any (fun p => !(s.toMemory p)) then .next s
    else
      let va := (st.va.toNat + st.row * st.str.toNat) % 2 ^ 64
      let n := st.nc * (2 * st.fa + 1)
      match s.readGlobal .mmas (st.reg && s.b.region.any (·.txn)) st.snap (n / 128 + 2) va n with
      | .error (some (f, a)) => .next (s.streamFault col st f a)
      | .error none => .next (s.modB (·.abortAsync 11 0))
      | .ok (bs, bad, ls) =>
        if s.readWaits (4 * col + 3) ls st.snap then .next s
        else
          let s := ls.foldl (fun s e => ((s.fillTlb e.1).charge e.1 e.2).unversion e.1 e.2) s
          let m := s.slot
          let a := blockImages st.fa bs st.nc
          let nb := if st.qd then 128 else 32
          let fix := ((s.core.xops.find? fun o => o.id == st.xop).map (·.fix)).getD []
          let v := if st.reg then s else s.modB fun b => { b with region := none }
          let bad := st.bad || bad || v.spPoison st.ab (bPanel st.nc st.fb st.qd)
          let last := st.row == 127
          let s := (quadOf st.t st.qd).zipIdx.foldl (fun s e =>
            let cols := (List.range 32).map fun j => v.bBlocks fix st.ab st.nc st.fb nb (32 * e.2 + j)
            let old := m.tile e.1
            let row := rowProduct st.fa st.fb st.z a cols ((old.drop (32 * st.row)).take 32)
            s.modSlot fun m =>
              (m.putTile e.1 (old.take (32 * st.row) ++ row ++ old.drop (32 * st.row + 32))).poisonTile e.1
                (bad || (m.poisonTiles.contains e.1 && !(st.z && last)))) s
          let now := s.now
          if last then
            let s := s.modB fun b => { b with
              streams := b.streams.del st.xop
              queues := b.queues.upd .empty (4 * col + 3) fun q => { q with pkts := q.pkts.map fun p =>
                if p.kind == (.mmas st.xop) then { p with done := true } else p } }
            .next (s.modCore s.b.core fun c => { c with xops := c.xops.map fun o =>
              if o.id = st.xop then { o with due := some (now + 6) } else o })
          else .next (s.modB fun b => { b with streams := b.streams.put st.xop { st with row := st.row + 1, bad := bad } })

end Sys2Proof.Machine
end

