-- ==== Sys2Proof/Machine/Vector.lean ====
section
/-! DEFINITION. The vector clusters and the reduction slot (R147 to R180): every element-wise form through R154, lane
movement, sticky flags, VCWLD, and the latches. -/

namespace Sys2Proof.Machine

open Sys2Proof

/-! ### Operand fields of an entry -/

/-- The cluster of a vector syllable (R147). -/
def State.clV (s : State) : Nat := 2 * s.cur.col + (s.cur.slot - 3)

/-- The effective number of a register field on this issue (R44). -/
def State.eff (s : State) (field : BitVec 11) (step : BitVec 8) : Nat :=
  (((field.toNat : Int) + s.cur.j * step.toInt + 32 * s.cur.slide) % (s.vcount : Int)).toNat

/-- The lanes that take part (R151). -/
def State.laneMask (s : State) (e : Vcw) : Nat :=
  if e.lp then
    let v := s.rv s.clV 0
    ((List.range 16).map fun l => if v.testBit (32 * l) then 2 ^ l else 0).foldl (· + ·) 0
  else 0xFFFF

/-- The vector registers that a form reads, for poison: RA, RB and RC as used, and v0 under LP (R145, R422). -/
def State.vecCauses (s : State) (e : Vcw) (useA useB useC : Bool) : List Cause :=
  let cl := s.clV
  (if useA then s.vPoison cl (s.eff e.ra e.sta) else []) ++ (if useB && !e.sbe then s.vPoison cl (s.eff e.rb e.stb) else []) ++
    (if useC then s.vPoison cl (s.eff e.rc e.stc) else []) ++ (if e.lp then s.vPoison cl 0 else [])

/-- The control fields of an entry. -/
def vctl (e : Vcw) : Ctl := ⟨false, e.pf, e.pi⟩

/-- The rounding mode as a number. -/
def vrnd (e : Vcw) : Nat := e.rm.toNat

/-- The elements of a register that lie in lanes that take part. -/
def activeElems (w lanes : Nat) (xs : List Nat) : List Nat :=
  (((List.range xs.length).zip xs).filter fun p => lanes.testBit (p.1 * w / 32)).map Prod.snd

/-- The flags of a register's elements gathered by lane (R82, R84). -/
def laneFlags (w lanes : Nat) (fls : List Nat) : Nat :=
  ofElems 5 ((List.range 16).map fun l =>
    if lanes.testBit l then ((fls.drop (l * (32 / w))).take (32 / w)).foldl (· ||| ·) 0 else 0)

/-- A to-Q operation offers the elements it writes to the column's tree; the accept comes at its bound (R174, R175). -/
def State.contribute (s : State) (fmt bound : Nat) (xs : List Nat) : State :=
  s.modB fun b => { b with contribs := b.contribs ++
    [⟨s.cur.col, s.cur.slot - 3, none, false, 0, xs.map fun x => (fmt, x), b.iss, s.now, s.now + bound, false, false,
      b.region.isSome⟩] }

/-- The results of an operation: elements of width `w` in the destination format `fmt` to RD′, flags to VFL, and the
contribution (R154). An operation whose lanes are all switched off contributes nothing (assumption log, entry 115). -/
def State.vdeliver (s : State) (e : Vcw) (fmt bound : Nat) (res fls : List Nat) : State :=
  let w := fmtWidth fmt
  let cl := s.clV
  let lanes := s.laneMask e
  let s := s.putV cl (s.eff e.rd e.std) (ofElems w res) lanes bound
  let s := if e.nf then s else s.resVfl cl (laneFlags w lanes fls) bound
  if e.tq ∧ lanes ≠ 0 then s.contribute fmt bound (activeElems w lanes res) else s

/-- The B operand's elements (R151). -/
def State.bElems (s : State) (e : Vcw) (w : Nat) : List Nat :=
  if e.sbe then List.replicate (512 / w) ((s.rs e.sbs.toNat).toNat % 2 ^ w) else elems w (s.rv s.clV (s.eff e.rb e.stb))

/-- WHAT EVERY ELEMENT-WISE OPERATION SHARES (R154): `op` of the elements of RA′, B and RC′, with flags. -/
def State.vmap (s : State) (e : Vcw) (bound : Nat) (op : Nat → Nat → Nat → Nat × Nat) : State :=
  let w := fmtWidth e.fmt.toNat
  let as := elems w (s.rv s.clV (s.eff e.ra e.sta))
  let bs := s.bElems e w
  let cs := elems w (s.rv s.clV (s.eff e.rc e.stc))
  let rs := (as.zip (bs.zip cs)).map fun x => op x.1 x.2.1 x.2.2
  s.vdeliver e e.fmt.toNat bound (rs.map Prod.fst) (rs.map Prod.snd)

/-! ### Arithmetic and logic (R155, R156) -/

/-- A floating result: the exact value delivered once, NV for signalling inputs (R81, R83). -/
def fltResult (f rm : Nat) (sat : Bool) (r : FVal × Nat) (ins : List FVal) : Nat × Nat :=
  let d := deliver f rm sat r.1
  (d.1, d.2 ||| r.2 ||| snanFlag ins)

/-- a + b, a − b, a × b, a × b + c or a × b − c, by operation 0 to 4 (R155). -/
def arith (op : Nat) (e : Vcw) (a b c : Nat) : Nat × Nat :=
  let f := e.fmt.toNat
  if isFlt f then
    let x := fval f a
    let y := fval f b
    let z := fval f c
    match op with
    | 0 => fltResult f (vrnd e) e.sat (addV (vrnd e) x y) [x, y]
    | 1 => fltResult f (vrnd e) e.sat (addV (vrnd e) x y.neg) [x, y]
    | 2 => fltResult f (vrnd e) e.sat (mulV x y) [x, y]
    | 3 => fltResult f (vrnd e) e.sat (fmaV (vrnd e) x y z) [x, y, z]
    | _ => fltResult f (vrnd e) e.sat (fmaV (vrnd e) x y z.neg) [x, y, z]
  else
    let x := intVal f a
    let y := intVal f b
    let z := intVal f c
    intDeliver f e.sat (match op with | 0 => x + y | 1 => x - y | 2 => x * y | 3 => x * y + z | _ => x * y - z)

/-- The smaller or the larger of two elements (R156). -/
def pickOrder (f : Nat) (larger : Bool) (a b : Nat) : Nat × Nat :=
  if isFlt f then
    let x := fval f a
    let y := fval f b
    let fl := snanFlag [x, y]
    if x.isNan && y.isNan then (canonNan f, fl)
    else if x.isNan then (b, fl)
    else if y.isNan then (a, fl)
    else (if below x y != larger then a else b, fl)
  else (if (decide (intVal f a < intVal f b)) != larger then a else b, 0)

/-- |a| and −a (R156). -/
def signOp (f : Nat) (sat neg : Bool) (a : Nat) : Nat × Nat :=
  if isFlt f then
    let x := fval f a
    let top := 2 ^ (fmtWidth f - 1)
    if x.isNan then (canonNan f, snanFlag [x])
    else (if neg then (if a < top then a + top else a - top) else a % top, 0)
  else
    let i := intVal f a
    intDeliver f sat (if neg then -i else i.natAbs)

/-- VADD (R155). -/
def execVadd (e : Vcw) (s : State) : Out :=
  .next (s.syl (.vadd e) (vctl e) (s.vecCauses e true true false) fun s => s.vmap e 2 (arith 0 e))

/-- VSUB (R155). -/
def execVsub (e : Vcw) (s : State) : Out :=
  .next (s.syl (.vsub e) (vctl e) (s.vecCauses e true true false) fun s => s.vmap e 2 (arith 1 e))

/-- VMUL (R155). -/
def execVmul (e : Vcw) (s : State) : Out :=
  .next (s.syl (.vmul e) (vctl e) (s.vecCauses e true true false) fun s => s.vmap e 4 (arith 2 e))

/-- VFMA (R155). -/
def execVfma (e : Vcw) (s : State) : Out :=
  .next (s.syl (.vfma e) (vctl e) (s.vecCauses e true true true) fun s => s.vmap e 4 (arith 3 e))

/-- VFMS (R155). -/
def execVfms (e : Vcw) (s : State) : Out :=
  .next (s.syl (.vfms e) (vctl e) (s.vecCauses e true true true) fun s => s.vmap e 4 (arith 4 e))

/-- VMIN (R156). -/
def execVmin (e : Vcw) (s : State) : Out :=
  .next (s.syl (.vmin e) (vctl e) (s.vecCauses e true true false) fun s =>
    s.vmap e 2 fun a b _ => pickOrder e.fmt.toNat false a b)

/-- VMAX (R156). -/
def execVmax (e : Vcw) (s : State) : Out :=
  .next (s.syl (.vmax e) (vctl e) (s.vecCauses e true true false) fun s =>
    s.vmap e 2 fun a b _ => pickOrder e.fmt.toNat true a b)

/-- VABS (R156). -/
def execVabs (e : Vcw) (s : State) : Out :=
  .next (s.syl (.vabs e) (vctl e) (s.vecCauses e true false false) fun s =>
    s.vmap e 2 fun a _ _ => signOp e.fmt.toNat e.sat false a)

/-- VNEG (R156). -/
def execVneg (e : Vcw) (s : State) : Out :=
  .next (s.syl (.vneg e) (vctl e) (s.vecCauses e true false false) fun s =>
    s.vmap e 2 fun a _ _ => signOp e.fmt.toNat e.sat true a)

/-- VAND (R155). -/
def execVand (e : Vcw) (s : State) : Out :=
  .next (s.syl (.vand e) (vctl e) (s.vecCauses e true true false) fun s => s.vmap e 2 fun a b _ => (a &&& b, 0))

/-- VOR (R155). -/
def execVor (e : Vcw) (s : State) : Out :=
  .next (s.syl (.vor e) (vctl e) (s.vecCauses e true true false) fun s => s.vmap e 2 fun a b _ => (a ||| b, 0))

/-- VXOR (R155). -/
def execVxor (e : Vcw) (s : State) : Out :=
  .next (s.syl (.vxor e) (vctl e) (s.vecCauses e true true false) fun s => s.vmap e 2 fun a b _ => (a ^^^ b, 0))

/-- VSHL: b mod w (R155). -/
def execVshl (e : Vcw) (s : State) : Out :=
  .next (s.syl (.vshl e) (vctl e) (s.vecCauses e true true false) fun s =>
    let w := fmtWidth e.fmt.toNat
    s.vmap e 2 fun a b _ => (a * 2 ^ (b % w) % 2 ^ w, 0))

/-- VSHR, zero-filled (R155). -/
def execVshr (e : Vcw) (s : State) : Out :=
  .next (s.syl (.vshr e) (vctl e) (s.vecCauses e true true false) fun s =>
    let w := fmtWidth e.fmt.toNat
    s.vmap e 2 fun a b _ => (a / 2 ^ (b % w), 0))

/-- VSRA, filled with the top bit for signed and unsigned formats alike (R155). -/
def execVsra (e : Vcw) (s : State) : Out :=
  .next (s.syl (.vsra e) (vctl e) (s.vecCauses e true true false) fun s =>
    let w := fmtWidth e.fmt.toNat
    s.vmap e 2 fun a b _ => (ofInt w (sval w a / ((2 ^ (b % w) : Nat) : Int)), 0))

/-! ### Compare and select (R157, R158) -/

/-- A VCMP condition on two elements, with its flags (R157). -/
def vcmpCond (f cc a b : Nat) : Bool × Nat :=
  if isFlt f then
    let x := fval f a
    let y := fval f b
    let un := x.isNan || y.isNan
    let nv := if x.isSnan || y.isSnan || (un && 2 ≤ cc && cc ≤ 5) then NV else 0
    let o := cmpV x y
    (match cc with
      | 0 => !un && o == .eq
      | 1 => un || o != .eq
      | 2 => !un && o == .lt
      | 3 => !un && o != .gt
      | 4 => !un && o == .gt
      | 5 => !un && o != .lt
      | 6 => un
      | _ => !un, nv)
  else
    let x := intVal f a
    let y := intVal f b
    (match cc with
      | 0 => x == y
      | 1 => x != y
      | 2 => decide (x < y)
      | 3 => decide (x ≤ y)
      | 4 => decide (x > y)
      | _ => decide (x ≥ y), 0)

/-- VCMP (R157). -/
def execVcmp (e : Vcw) (s : State) : Out :=
  .next (s.syl (.vcmp e) (vctl e) (s.vecCauses e true true false) fun s =>
    let f := e.fmt.toNat
    s.vmap e 2 fun a b _ =>
      let r := vcmpCond f (e.imm.toNat % 8) a b
      (if r.1 then 2 ^ fmtWidth f - 1 else 0, r.2))

/-- VSEL (R158). -/
def execVsel (e : Vcw) (s : State) : Out :=
  .next (s.syl (.vsel e) (vctl e) (s.vecCauses e true true true) fun s =>
    s.vmap e 2 fun a b c => (if c ≠ 0 then a else b, 0))

/-! ### Conversions (R159 to R161) -/

/-- VCVT (R159): a narrowing conversion fills part p of each lane and leaves the rest; a widening one takes part p. -/
def execVcvt (e : Vcw) (s : State) : Out :=
  .next (s.syl (.vcvt e) (vctl e) (s.vecCauses e true false false ++
      (if fmtWidth e.fmt2.toNat < fmtWidth e.fmt.toNat then s.vPoison s.clV (s.eff e.rd e.std) else [])) fun s =>
    let f := e.fmt.toNat
    let g := e.fmt2.toNat
    let ws := fmtWidth f
    let wd := fmtWidth g
    let ns := 32 / ws
    let nd := 32 / wd
    let p := e.imm.toNat % 4
    let cl := s.clV
    let src := s.rv cl (s.eff e.ra e.sta)
    let old := s.rv cl (s.eff e.rd e.std)
    let one (x : Nat) := cvt f g (vrnd e) e.sat x
    let lanes := s.laneMask e
    if nd ≥ ns then
      let cell (k : Nat) : Nat × Nat × Bool :=
        let l := k / nd
        let j := k % nd
        if p * ns ≤ j ∧ j < p * ns + ns then
          let r := one (elem src ws (l * ns + (j - p * ns)))
          (r.1, r.2, true)
        else (elem old wd k, 0, false)
      let rs := (List.range (512 / wd)).map cell
      let s := s.putV cl (s.eff e.rd e.std) (ofElems wd (rs.map (·.1))) lanes 3
      let s := if e.nf then s else s.resVfl cl (laneFlags wd lanes (rs.map (·.2.1))) 3
      if e.tq ∧ lanes ≠ 0 then
        let done := ((List.range rs.length).zip rs).filter fun q => q.2.2.2 && lanes.testBit (q.1 * wd / 32)
        s.contribute g 3 (done.map (·.2.1))
      else s
    else
      let rs := (List.range (512 / wd)).map fun k => one (elem src ws (k / nd * ns + p * nd + k % nd))
      s.vdeliver e g 3 (rs.map Prod.fst) (rs.map Prod.snd))

/-- Replaces `w` bits at position `at_` of a 512-bit register. -/
def putBits (r at_ w v : Nat) : Nat := r / 2 ^ (at_ + w) * 2 ^ (at_ + w) + v % 2 ^ w * 2 ^ at_ + r % 2 ^ at_

/-- VQBFP: one block of mantissas to field p of RD′ and its exponent to byte p of RC′ (R160). -/
def execVqbfp (e : Vcw) (s : State) : Out :=
  .next (s.syl (.vqbfp e) (vctl e) (s.vecCauses e true false true ++ s.vPoison s.clV (s.eff e.rd e.std)) fun s =>
    let m := bfpWidth e.fmt2.toNat
    let p := e.imm.toNat
    let cl := s.clV
    let q := quantise m ((elems 32 (s.rv cl (s.eff e.ra e.sta))).map (fval 8))
    let rd := s.eff e.rd e.std
    let rc := s.eff e.rc e.stc
    let vd := putBits (s.rv cl rd) (16 * m * p) (16 * m) (ofElems m q.2.1)
    let vc := putBits (s.rv cl rc) (8 * p) 8 q.1
    let s := (s.putV cl rd vd 0xFFFF 3).putV cl rc vc 0xFFFF 3
    if e.nf then s else s.resVfl cl (ofElems 5 q.2.2) 3)

/-- VXBFP: the block of field p, its exponent from byte p of RB′, expanded to .f32 (R91, R161). -/
def execVxbfp (e : Vcw) (s : State) : Out :=
  .next (s.syl (.vxbfp e) (vctl e) (s.vecCauses e true true false) fun s =>
    let m := bfpWidth e.fmt2.toNat
    let p := e.imm.toNat
    let cl := s.clV
    let field := s.rv cl (s.eff e.ra e.sta) / 2 ^ (16 * m * p)
    let x := elem (s.rv cl (s.eff e.rb e.stb)) 8 p
    let rs := (List.range 16).map fun i => deliver 8 (vrnd e) e.sat (bfpVal m x (elem field m i))
    s.vdeliver e 8 3 (rs.map Prod.fst) (rs.map Prod.snd))

/-! ### Special functions (R162) -/

/-- The operation of a special function; where the evaluation cannot separate two results the value stays free. -/
def State.vspecial (s : State) (e : Vcw) (fn : Nat) : State :=
  let f := e.fmt.toNat
  s.vmap e 8 fun a _ _ => match special fn f (vrnd e) e.sat a with
    | some r => r
    | none => (s.undef (fmtWidth f) [162, fn, a], NX)

/-- VRCP (R162). -/
def execVrcp (e : Vcw) (s : State) : Out :=
  .next (s.syl (.vrcp e) (vctl e) (s.vecCauses e true false false) fun s => s.vspecial e 0)

/-- VRSQ (R162). -/
def execVrsq (e : Vcw) (s : State) : Out :=
  .next (s.syl (.vrsq e) (vctl e) (s.vecCauses e true false false) fun s => s.vspecial e 1)

/-- VEXP2 (R162). -/
def execVexp2 (e : Vcw) (s : State) : Out :=
  .next (s.syl (.vexp2 e) (vctl e) (s.vecCauses e true false false) fun s => s.vspecial e 2)

/-- VLOG2 (R162). -/
def execVlog2 (e : Vcw) (s : State) : Out :=
  .next (s.syl (.vlog2 e) (vctl e) (s.vecCauses e true false false) fun s => s.vspecial e 3)

/-- VTANH (R162). -/
def execVtanh (e : Vcw) (s : State) : Out :=
  .next (s.syl (.vtanh e) (vctl e) (s.vecCauses e true false false) fun s => s.vspecial e 4)

/-! ### Lane movement and generation (R163 to R168) -/

/-- VPERM: lanes of RA′ and RC′ by the index lanes of RB′, with a bound of 3 (R163). -/
def execVperm (e : Vcw) (s : State) : Out :=
  .next (s.syl (.vperm e) (vctl e) (s.vecCauses e true true true) fun s =>
    let cl := s.clV
    let a := s.rv cl (s.eff e.ra e.sta)
    let x := s.rv cl (s.eff e.rb e.stb)
    let c := s.rv cl (s.eff e.rc e.stc)
    let rs := (elems 32 x).map fun n => if n.testBit 4 then elem c 32 (n % 16) else elem a 32 (n % 16)
    s.vdeliver e 6 3 rs [])

/-- VXC copies the lanes that take part to another cluster of the sequencer, with a bound of 6 (R168). -/
def execVxc (e : Vcw) (s : State) : Out :=
  let tgt := e.imm.toNat % 8
  .next (s.syl (.vxc e) (vctl e) (if tgt < 2 * s.b.cols then s.vecCauses e true false false else [s.illegal]) fun s =>
    s.putV tgt (s.eff e.rd e.std) (s.rv s.clV (s.eff e.ra e.sta)) (s.laneMask e) 6)

/-- VBC (R164). -/
def execVbc (e : Vcw) (s : State) : Out :=
  .next (s.syl (.vbc e) (vctl e) (s.vecCauses e (!e.sbe) false false) fun s =>
    let w := fmtWidth e.fmt.toNat
    let x := if e.sbe then (s.rs e.sbs.toNat).toNat % 2 ^ w else elem (s.rv s.clV (s.eff e.ra e.sta)) w e.imm.toNat
    s.vdeliver e e.fmt.toNat 2 (List.replicate (512 / w) x) [])

/-- VEXT (R165). -/
def execVext (e : Vcw) (s : State) : Out :=
  .next (s.syl (.vext e) (vctl e) (s.vecCauses e true true false) fun s =>
    let w := fmtWidth e.fmt.toNat
    let run := elems w (s.rv s.clV (s.eff e.ra e.sta)) ++ s.bElems e w
    s.vdeliver e e.fmt.toNat 2 ((run.drop e.imm.toNat).take (512 / w)) [])

/-- VIOTA (R166). -/
def execViota (e : Vcw) (s : State) : Out :=
  .next (s.syl (.viota e) (vctl e) (s.vecCauses e false false false) fun s =>
    let w := fmtWidth e.fmt.toNat
    let base : Int := if e.sbe then ((s.rs e.sbs.toNat).toNat : Int) else e.imm.toInt
    s.vdeliver e e.fmt.toNat 2 ((List.range (512 / w)).map fun i => ofInt w (base + (i : Nat))) [])

/-- One step of a scan (R167). -/
def scanStep (e : Vcw) (y : Option Nat) (x : Nat) : Nat × Nat :=
  let f := e.fmt.toNat
  match y with
  | none => if isFlt f ∧ (fval f x).isNan then (canonNan f, snanFlag [fval f x]) else (x, 0)
  | some y => match e.imm.toNat % 4 with
    | 0 => arith 0 e y x 0
    | 1 => pickOrder f true y x
    | _ => pickOrder f false y x

/-- The scan over the elements, lane by lane; an element that takes no part is passed over (R167). -/
def scanFrom (e : Vcw) (w lanes : Nat) : Nat → Option Nat → List Nat → List (Nat × Nat)
  | _, _, [] => []
  | i, y, x :: xs =>
    if lanes.testBit (i * w / 32) then
      let r := scanStep e y x
      r :: scanFrom e w lanes (i + 1) (some r.1) xs
    else (0, 0) :: scanFrom e w lanes (i + 1) y xs

/-- VSCAN, with a bound of 6 (R167). -/
def execVscan (e : Vcw) (s : State) : Out :=
  .next (s.syl (.vscan e) (vctl e) (s.vecCauses e true false false) fun s =>
    let w := fmtWidth e.fmt.toNat
    let rs := scanFrom e w (s.laneMask e) 0 none (elems w (s.rv s.clV (s.eff e.ra e.sta)))
    s.vdeliver e e.fmt.toNat 6 (rs.map Prod.fst) (rs.map Prod.snd))

/-! ### Sticky flags (R169, R170) -/

/-- VFL as a VFLG.rd sees it: flags not yet landed are included or not, which one unspecified (R170). -/
def State.rvfl (s : State) (cl : Nat) : BitVec 80 :=
  s.b.pend.foldl (fun acc p =>
    if p.loc = .vfl cl ∧ p.iss < s.b.iss ∧ p.lanes ≠ 0 then
      if p.orIn then (if p.due ≤ s.now ∨ s.pick 2 [170, cl, p.iss] = 0 then vflWrite acc p.val p.lanes true else acc)
      else if p.due ≤ s.now then vflWrite acc p.val p.lanes false
      else vflWrite acc (s.undef 80 [171, cl]) p.lanes false
    else acc) (s.b.vfl.get 0 cl)

/-- The bits of VFL in which a 5-bit pattern stands in every lane of a set. -/
def vflBits (lanes : Nat) (f : Nat → Nat) : Nat :=
  ofElems 5 ((List.range 16).map fun l => if lanes.testBit l then f l else 0)

/-- VFLG (R169). -/
def execVflg (e : Vcw) (s : State) : Out :=
  let n := e.imm.toNat
  let cl := s.clV
  .next (s.syl (.vflg e) (vctl e) (s.vecCauses e (n % 4 == 2) false false) fun s =>
    let lanes := s.laneMask e
    match n % 4 with
    | 0 =>
      let v := (s.rvfl cl).toNat
      s.putV cl (s.eff e.rd e.std) (ofElems 32 ((List.range 16).map fun l => elem v 5 l)) lanes 2
    | 1 => if lanes = 0 then s
      else s.result (.vfl cl) 0 (vflBits lanes (fun _ => fld n 6 2) + 2 ^ 80 * lanes) 2
    | _ => if lanes = 0 then s
      else
        let v := s.rv cl (s.eff e.ra e.sta)
        s.result (.vfl cl) (vflBits lanes fun l => elem v 32 l % 32) (vflBits lanes (fun _ => 31) + 2 ^ 80 * lanes) 2)

/-! ### VCWLD (R153) -/

/-- VCWLD loads entries from the share; they are there from issue + 4 (R153). -/
def execVcwld (c : Ctl) (idx : BitVec 9) (ra : BitVec 6) (cnt : BitVec 4) (s : State) : Out :=
  let a := (s.rs ra.toNat).toNat % 2 ^ 32
  let n := cnt.toNat + 1
  .next (s.syl (.vcwld c idx ra cnt) c
    (if idx.toNat + cnt.toNat > 511 then [s.illegal] else (s.spCheck a (32 * n) 32).toList) fun s =>
    (List.range n).foldl (fun s k =>
      s.result (.vcw (idx.toNat + k)) (s.spNat (a + 32 * k) 32) 1 4 (s.spPoison (a + 32 * k) 32)) s)

/-! ### The reduction slot (R172 to R180) -/

/-- An accumulate pairs with the to-Q operations of its column and its selected clusters that executed in its cycle;
those accepted in one cycle are accepted as one (R174, R175). -/
def State.accumulate (s : State) (op : Nat) (ql cls : BitVec 2) (lm : Bool) : State :=
  let b := s.b
  let mine (k : Contrib) : Bool :=
    k.ql.isNone && k.col == s.cur.col && k.cyc == s.now && k.iss == b.iss && (cls == 2 || k.half == cls.toNat)
  let paired := (b.contribs.filter mine).map fun k => { k with ql := some ql.toNat, i64 := lm, op := op }
  let joined := match paired with
    | [x, y] => if x.acc = y.acc then [{ x with elems := x.elems ++ y.elems }] else if x.acc < y.acc then [x, y] else [y, x]
    | l => l
  s.modB fun b => { b with contribs := (b.contribs.filter fun k => !mine k) ++ joined }

/-- QADD (R174, R176). -/
def execQadd (c : Ctl) (ql cls : BitVec 2) (lm : Bool) (s : State) : Out :=
  .next (s.syl (.qadd c ql cls lm) c [] fun s => s.accumulate 0 ql cls lm)

/-- QMAX (R174, R176). -/
def execQmax (c : Ctl) (ql cls : BitVec 2) (lm : Bool) (s : State) : Out :=
  .next (s.syl (.qmax c ql cls lm) c [] fun s => s.accumulate 1 ql cls lm)

/-- QMIN (R174, R176). -/
def execQmin (c : Ctl) (ql cls : BitVec 2) (lm : Bool) (s : State) : Out :=
  .next (s.syl (.qmin c ql cls lm) c [] fun s => s.accumulate 2 ql cls lm)

/-- A write of a latch, with a bound of 1; the updates of accumulates issued before it that have not landed are discarded
(R177). -/
def State.writeLatch (s : State) (ql : BitVec 2) (v : Nat) : State :=
  let col := s.cur.col
  (s.modB fun b => { b with contribs := b.contribs.map fun k =>
    if k.col = col ∧ k.ql = some ql.toNat ∧ k.iss < b.iss then
      { k with dead := true, ckDead := k.ckDead || !(b.region.isSome && !k.reg) }
    else k }).result (.q col ql.toNat) v 1 1

/-- QDRN (R178). -/
def execQdrn (c : Ctl) (ql : BitVec 2) (rd : BitVec 6) (cl : Bool) (s : State) : Out :=
  .next (s.syl (.qdrn c ql rd cl) c [] fun s =>
    let s := s.resS rd.toNat (s.rq s.cur.col ql.toNat) 3
    if cl then s.writeLatch ql 0 else s)

/-- The values of QCLR (R179). -/
def qclrValue (iv : BitVec 2) (lm : Bool) : Nat :=
  match iv.toNat, lm with
  | 1, false => 0xFF800000
  | 1, true => 0x8000000000000000
  | 2, false => 0x7F800000
  | 2, true => 0x7FFFFFFFFFFFFFFF
  | _, _ => 0

/-- QCLR (R179). -/
def execQclr (c : Ctl) (ql iv : BitVec 2) (lm : Bool) (s : State) : Out :=
  .next (s.syl (.qclr c ql iv lm) c [] fun s => s.writeLatch ql (qclrValue iv lm))

/-- The extreme of some values, NaNs left out (R176). -/
def extreme (larger : Bool) : List FVal → Option FVal
  | [] => none
  | v :: vs =>
    let r := extreme larger vs
    if v.isNan then r
    else match r with
      | none => some v
      | some w => some (if below v w != larger then v else w)

/-- One update of a latch; none where the result is undefined (R176). -/
def foldLatch (q : DWord) (k : Contrib) : Option DWord :=
  if k.i64 then
    if k.elems.any fun x => isFlt x.1 then none
    else
      let xs := k.elems.map fun x => intVal x.1 x.2
      some (match k.op with
        | 0 => q + .ofInt 64 (xs.foldl (· + ·) 0)
        | 1 => .ofInt 64 (xs.foldl max q.toInt)
        | _ => .ofInt 64 (xs.foldl min q.toInt))
  else
    let v := fval 8 (q.toNat % 2 ^ 32)
    let xs := v :: k.elems.map fun x => anyVal x.1 x.2
    match k.op with
    | 0 =>
      let r := xs.tail.foldl (fun a x => (addV 0 a x).1) v
      some (.ofNat 64 (deliver 8 0 false r).1)
    | op => some (.ofNat 64 (match extreme (op == 1) xs with
      | some x => (deliver 8 0 false x).1
      | none => 0x7FC00000))

/-- LATCH_UPDATE: the updates accepted six cycles ago are folded in, in the order of acceptance, into the latch and, for
those of before an open region, into the checkpoint's copy (R176, R177, R285). Contributions that no accumulate took are
dropped (R174). -/
def execLatchUpdate (bank : Nat) (s : State) : Out :=
  let s := s.focus bank
  let now := s.now
  let due (k : Contrib) : Bool := k.ql.isSome && decide (k.acc + 6 ≤ now)
  let ripe := s.b.contribs.filter due
  let apply (s : State) (q : DWord) (k : Contrib) : DWord :=
    (foldLatch q k).getD (.ofNat 64 (s.undef 64 [176, k.col, k.iss]))
  let one (s : State) (k : Contrib) : State :=
    let i := 4 * k.col + k.ql.getD 0
    let s := if k.dead then s else s.modB fun b => { b with q := b.q.set 0 i (apply s (b.q.get 0 i) k) }
    if k.reg || k.ckDead then s
    else s.modB fun b => { b with region := b.region.map fun r =>
      { r with ck := { r.ck with q := r.ck.q.set 0 i (apply s (r.ck.q.get 0 i) k) } } }
  let s := ripe.foldl one s.draw
  .next (s.modB fun b => { b with contribs := b.contribs.filter fun k =>
    !(due k) && (k.ql.isSome || decide (now ≤ k.cyc)) })

/-! ### Microcode (R67, R359) -/

/-- A microcode entry as the bank in focus finds it in this issue. While an MCLD rewrites it, it is not valid or it is the new
entry, which one unspecified (R67, R360). -/
def State.microAt (s : State) (ent : Nat) : Option Micro :=
  let loads (k : Nat) : Bool := match s.bank? k with
    | some b => b.forms.any fun f => f.kind == .mcld && f.phase == 1
    | none => false
  match s.rewrites.find? fun e => e.2.1 == ent && loads e.1 with
  | none => s.micro.find ent
  | some e => if Config.pick [360, ent, s.b.key, s.b.iss, s.now] % 2 = 0 then none else some e.2.2

/-- The registers that a microcode entry writes, with the entry's bound; the body's meaning is the firmware's. -/
def State.micro1 (s : State) (ent arg : Nat) : State :=
  match s.microAt ent with
  | none => s
  | some m => (Config.microcode m.body arg).foldl (fun s w => match w.1 with
      | 0 => s.resS (w.2.1 % 64) (.ofNat 64 w.2.2) m.bound
      | 1 => s.result (.a (w.2.1 % 32)) (w.2.2 % 2 ^ 32) 1 m.bound
      | 2 => if w.2.1 % 16 = 0 then s else s.result (.f (w.2.1 % 16)) (w.2.2 % 2) 1 m.bound
      | 3 => s.putV (s.clV % (2 * s.b.cols)) (w.2.1 % s.vcount) (w.2.2 % 2 ^ 512) 0xFFFF m.bound
      | _ => s) s

/-- The entry is valid (R67). -/
def State.microCause (s : State) (ent : Nat) : List Cause := if (s.microAt ent).isNone then [s.illegal] else []

/-- A microcode operation of the S slot (R67). -/
def execMicrocodeS (c : Ctl) (ent : BitVec 4) (arg : BitVec 20) (s : State) : Out :=
  .next (s.syl (.microcodeS c ent arg) c (s.microCause ent.toNat) fun s => s.micro1 ent.toNat arg.toNat)

/-- A microcode operation of a vector entry; the entry's fields are its argument (R67). -/
def execMicrocodeVcw (e : Vcw) (ent : BitVec 4) (s : State) : Out :=
  .next (s.syl (.microcodeVcw e ent) (vctl e) (s.microCause (16 + ent.toNat)) fun s =>
    s.micro1 (16 + ent.toNat) (pack [(11, s.eff e.rd e.std), (11, s.eff e.ra e.sta), (11, s.eff e.rb e.stb),
      (11, s.eff e.rc e.stc), (5, e.fmt.toNat), (5, e.fmt2.toNat), (16, e.imm.toNat), (6, e.sbs.toNat)]))

end Sys2Proof.Machine
end

