-- ==== Sys2Proof/Machine/Copy.lean ====
section
/-! DEFINITION. The C slot and the copy engine (R206 to R234): the checks and the enqueueing of every form, and the moves
that start, carry out and complete a packet. -/

namespace Sys2Proof.Machine

open Sys2Proof

/-! ### Packets (R207) -/

/-- The bytes of a row. -/
def Pkt.len (p : Pkt) : Nat := rfld p.p2 31 0

/-- The number of rows. -/
def Pkt.rows (p : Pkt) : Nat := rfld p.p2 47 32 + 1

/-- The virtual address of a row, modulo 2^64. -/
def Pkt.va (p : Pkt) (i : Nat) : Nat := ofInt 64 (p.p0.toNat + i * sval 32 (rfld p.p3 63 32))

/-- The other side of a row: P1, or the slot of a CPYB, plus its stride. -/
def Pkt.side (p : Pkt) (base i : Nat) : Int := base + i * sval 32 (rfld p.p3 31 0)

/-- A copy-packet cause (R208). -/
def State.copypkt (s : State) (code : Nat) : Cause := s.cause 5 code

/-- A copy packet with the group's scalars, before it enters its queue. -/
def State.packet (s : State) (k : PktKind) (p0 p1 p2 p3 : DWord) (ce : Bool) (co : Nat) : Pkt :=
  ⟨k, s.fresh, p0, p1, p2, p3, ce, co, false, false, 0, none, none, false, false, 0, 0, false, 0, [], false, none, s.b.snapTs,
    s.b.iss, s.now, s.b.region.isSome⟩

/-- A copy packet of a group (R207). -/
def State.groupPkt (s : State) (k : PktKind) (sp : BitVec 4) (ce : Bool) (co : BitVec 4) : Pkt :=
  s.packet k (s.grp sp 0) (s.grp sp 1) (s.grp sp 2) (s.grp sp 3) ce co.toNat

/-- Address checks of a virtual address that must be a multiple of `n` (R208). -/
def State.vaCauses (s : State) (va : DWord) (n : Nat) : List Cause :=
  (if rfld va 63 56 ≠ 0 then [s.copypkt 1] else []) ++ (if va.toNat % n ≠ 0 then [s.copypkt 2] else [])

/-- The strides of a packet group, read where it has more than one row, are poison (R145, R207). -/
def State.strideCauses (s : State) (sp : BitVec 4) : List Cause :=
  if rfld (s.grp sp 2) 47 32 ≠ 0 ∧ s.b.poison.contains (.s (4 * sp.toNat + 3)) then [s.cause 3 0] else []

/-- The checks of a block form's global side and of its fields (R207, R208); `two` says that P1 is a global address too. -/
def State.blockCauses (s : State) (p : Pkt) (two : Bool) : List Cause :=
  let strided := p.rows != 1
  s.vaCauses p.p0 32 ++ (if two then s.vaCauses p.p1 32 else []) ++
    (if strided && rfld p.p3 63 32 % 32 != 0 then [s.copypkt 2] else []) ++
    (if strided && two && rfld p.p3 31 0 % 32 != 0 then [s.copypkt 2] else []) ++
    (if rfld p.p2 63 48 ≠ 0 then [s.copypkt 3] else [])

/-- The checks of a block form's scratchpad side (R207, R208): every row lies within the share. -/
def State.sideCauses (s : State) (p : Pkt) : List Cause :=
  let base := rfld p.p1 31 0
  let rowsAt := [p.side base 0, p.side base (p.rows - 1)]
  (if rfld p.p1 63 32 ≠ 0 then [s.copypkt 3] else []) ++
    (if p.len ≠ 0 ∧ rowsAt.any (fun a => a < 0 || a + p.len > s.shareSize) then [s.spaddr 1 base] else []) ++
    (if base % 32 ≠ 0 ∨ (p.rows ≠ 1 ∧ rfld p.p3 31 0 % 32 ≠ 0) then [s.spaddr 2 base] else [])

/-! ### Entering a queue (R206, R233) -/

/-- The queue of a C syllable within the bank. -/
def State.queueOf (s : State) (q : BitVec 2) : Nat := 4 * s.cur.col + q.toNat

/-- A packet enters its queue; a full queue lets nothing in (R206). In a region a copy write is held (R233, R287). -/
def State.enqueue (s : State) (q : BitVec 2) (p : Pkt) (held : Bool) : State :=
  let k := s.queueOf q
  match (if held then s.b.region else none) with
  | some r =>
    if (r.pkts.filter fun e => e.1 == s.cur.col).length ≥ 32 then s.abortSync 4 4 0
    else s.modB fun b => { b with region := some { r with pkts := r.pkts ++ [(s.cur.col, q.toNat, p)] } }
  | none =>
    if (s.b.queues.get .empty k).pkts.length ≥ 16 then s
    else s.modB fun b => { b with queues := b.queues.upd .empty k fun x => { x with pkts := x.pkts ++ [p] } }

/-- The guard check of the rows that a copy read will write (R289). -/
def State.guardRows (s : State) (p : Pkt) : State :=
  if p.len = 0 then s
  else (List.range p.rows).foldl (fun s i => s.guardCheck (p.side (rfld p.p1 31 0) i).toNat p.len) s

/-! ### The C forms -/

/-- CPY.in (R212). -/
def execCpyIn (c : Ctl) (q : BitVec 2) (sp : BitVec 4) (ce : Bool) (co : BitVec 4) (s : State) : Out :=
  let p := s.groupPkt .cpyIn sp ce co
  .next (s.syl (.cpyIn c q sp ce co) c (s.strideCauses sp ++ s.blockCauses p false ++ s.sideCauses p) fun s =>
    (s.enqueue q (s.groupPkt .cpyIn sp ce co) false).guardRows p)

/-- CPY.out (R212). -/
def execCpyOut (c : Ctl) (q : BitVec 2) (sp : BitVec 4) (ce : Bool) (co : BitVec 4) (s : State) : Out :=
  let p := s.groupPkt .cpyOut sp ce co
  .next (s.syl (.cpyOut c q sp ce co) c (s.strideCauses sp ++ s.blockCauses p false ++ s.sideCauses p) fun s =>
    s.enqueue q (s.groupPkt .cpyOut sp ce co) true)

/-- CPYG (R212). -/
def execCpyg (c : Ctl) (q : BitVec 2) (sp : BitVec 4) (ce : Bool) (co : BitVec 4) (s : State) : Out :=
  .next (s.syl (.cpyg c q sp ce co) c (s.strideCauses sp ++ s.blockCauses (s.groupPkt .cpyg sp ce co) true) fun s =>
    s.enqueue q (s.groupPkt .cpyg sp ce co) true)

/-- The checks of a CPYB: the buffer is enabled, and the packet's rows lie within one slot (R207, R208). -/
def State.cpybCauses (s : State) (p : Pkt) (i : Nat) : List Cause :=
  let b := s.b.cb i
  let rowsAt := [p.side 0 0, p.side 0 (p.rows - 1)]
  (if !b.en then [s.spaddr 4 b.base] else []) ++ (if p.p1 ≠ 0 then [s.copypkt 3] else []) ++
    (if p.len ≠ 0 ∧ rowsAt.any (fun a => a < 0 || a + p.len > b.size) then [s.copypkt 3] else []) ++
    (if p.rows ≠ 1 ∧ rfld p.p3 31 0 % 32 ≠ 0 then [s.spaddr 2 b.base] else []) ++
    (if b.base + b.nsl * b.size > s.shareSize then [s.spaddr 1 b.base] else [])

/-- CPYB: it takes the direction of the buffer (R212); an inbound one is tested against the guards with every slot (R289). -/
def execCpyb (c : Ctl) (q : BitVec 2) (sp : BitVec 4) (ce : Bool) (co : BitVec 4) (cb : BitVec 3) (s : State) : Out :=
  let i := 8 * s.cur.col + cb.toNat
  .next (s.syl (.cpyb c q sp ce co cb) c (s.strideCauses sp ++ s.blockCauses (s.groupPkt .cpyb sp ce co) false ++
      s.cpybCauses (s.groupPkt .cpyb sp ce co) i) fun s =>
    let p := { s.groupPkt .cpyb sp ce co with buf := cb.toNat }
    let out := (s.b.cb i).out
    let s := s.enqueue q p out
    if out then s else s.guardCheck (s.b.cb i).base ((s.b.cb i).nsl * (s.b.cb i).size))

/-- FILL (R212). -/
def execFill (c : Ctl) (q : BitVec 2) (sp : BitVec 4) (ce : Bool) (co : BitVec 4) (s : State) : Out :=
  .next (s.syl (.fill c q sp ce co) c (s.strideCauses sp ++ s.blockCauses (s.groupPkt .fill sp ce co) false) fun s =>
    s.enqueue q (s.groupPkt .fill sp ce co) true)

/-- CRED (R216). -/
def execCred (c : Ctl) (q : BitVec 2) (sp : BitVec 4) (ce : Bool) (co : BitVec 4) (rop : BitVec 3) (fmt : BitVec 4)
    (s : State) : Out :=
  let k : PktKind := .cred rop.toNat fmt.toNat
  let p := s.groupPkt k sp ce co
  .next (s.syl (.cred c q sp ce co rop fmt) c (s.strideCauses sp ++ s.blockCauses p false ++ s.sideCauses p ++
      (if p.len % (fmtWidth fmt.toNat / 8) ≠ 0 then [s.copypkt 3] else [])) fun s =>
    s.enqueue q (s.groupPkt k sp ce co) true)

/-- GLD: a far load through a copy queue (R217). -/
def execGld (c : Ctl) (q : BitVec 2) (rd ra : BitVec 6) (sz : BitVec 2) (aq : Bool) (arr : BitVec 4) (s : State) : Out :=
  let n := 2 ^ sz.toNat
  .next (s.syl (.gld c q rd ra sz aq arr) c (s.vaCauses (s.rs ra.toNat) n) fun s =>
    if (s.b.queues.get .empty (s.queueOf q)).pkts.length ≥ 16 then s
    else
      let p := { s.packet (.gld n) (s.rs ra.toNat) 0 0 0 false 0 with acq := aq, far := some s.fresh }
      (s.addFar (.s rd.toNat) n false none (s.rs ra.toNat).toNat (128 * (arr.toNat + 1))).enqueue q p false)

/-- GST (R218). -/
def execGst (c : Ctl) (q : BitVec 2) (rb ra : BitVec 6) (sz : BitVec 2) (rl : Bool) (s : State) : Out :=
  let n := 2 ^ sz.toNat
  .next (s.syl (.gst c q rb ra sz rl) c (s.vaCauses (s.rs ra.toNat) n) fun s =>
    s.enqueue q { s.packet (.gst n) (s.rs ra.toNat) (s.rs rb.toNat) 0 0 false 0 with rel := rl } true)

/-- An atomic enters its queue; one that returns a value holds a landing entry (R219). -/
def State.atomic (s : State) (q : BitVec 2) (sp : BitVec 4) (rd : BitVec 6) (sz sg : Bool) (ord : BitVec 2) (arr : BitVec 4)
    (op : Nat) : State :=
  if (s.b.queues.get .empty (s.queueOf q)).pkts.length ≥ 16 then s
  else
    let n := if sz then 8 else 4
    let p := { s.packet (.atomic op n sg) (s.grp sp 0) (s.grp sp 1) (s.grp sp 2) 0 false 0 with
      acq := ord.getLsbD 0, rel := ord.getLsbD 1, far := if rd = 0 then none else some s.fresh }
    let s := if rd = 0 then s else s.addFar (.s rd.toNat) n false none (s.grp sp 0).toNat (128 * (arr.toNat + 1))
    s.enqueue q p false

/-- The checks of an atomic (R208). -/
def State.atomicCauses (s : State) (sp : BitVec 4) (sz : Bool) : List Cause := s.vaCauses (s.grp sp 0) (if sz then 8 else 4)

/-- AADD (R219). -/
def execAadd (c : Ctl) (q : BitVec 2) (sp : BitVec 4) (rd : BitVec 6) (sz : Bool) (ord : BitVec 2) (arr : BitVec 4)
    (s : State) : Out :=
  .next (s.syl (.aadd c q sp rd sz ord arr) c (s.atomicCauses sp sz) fun s => s.atomic q sp rd sz false ord arr 0)

/-- AMIN (R219). -/
def execAmin (c : Ctl) (q : BitVec 2) (sp : BitVec 4) (rd : BitVec 6) (sz sg : Bool) (ord : BitVec 2) (arr : BitVec 4)
    (s : State) : Out :=
  .next (s.syl (.amin c q sp rd sz sg ord arr) c (s.atomicCauses sp sz) fun s => s.atomic q sp rd sz sg ord arr 1)

/-- AMAX (R219). -/
def execAmax (c : Ctl) (q : BitVec 2) (sp : BitVec 4) (rd : BitVec 6) (sz sg : Bool) (ord : BitVec 2) (arr : BitVec 4)
    (s : State) : Out :=
  .next (s.syl (.amax c q sp rd sz sg ord arr) c (s.atomicCauses sp sz) fun s => s.atomic q sp rd sz sg ord arr 2)

/-- AAND (R219). -/
def execAand (c : Ctl) (q : BitVec 2) (sp : BitVec 4) (rd : BitVec 6) (sz : Bool) (ord : BitVec 2) (arr : BitVec 4)
    (s : State) : Out :=
  .next (s.syl (.aand c q sp rd sz ord arr) c (s.atomicCauses sp sz) fun s => s.atomic q sp rd sz false ord arr 3)

/-- AOR (R219). -/
def execAor (c : Ctl) (q : BitVec 2) (sp : BitVec 4) (rd : BitVec 6) (sz : Bool) (ord : BitVec 2) (arr : BitVec 4)
    (s : State) : Out :=
  .next (s.syl (.aor c q sp rd sz ord arr) c (s.atomicCauses sp sz) fun s => s.atomic q sp rd sz false ord arr 4)

/-- AXOR (R219). -/
def execAxor (c : Ctl) (q : BitVec 2) (sp : BitVec 4) (rd : BitVec 6) (sz : Bool) (ord : BitVec 2) (arr : BitVec 4)
    (s : State) : Out :=
  .next (s.syl (.axor c q sp rd sz ord arr) c (s.atomicCauses sp sz) fun s => s.atomic q sp rd sz false ord arr 5)

/-- AXCH (R219). -/
def execAxch (c : Ctl) (q : BitVec 2) (sp : BitVec 4) (rd : BitVec 6) (sz : Bool) (ord : BitVec 2) (arr : BitVec 4)
    (s : State) : Out :=
  .next (s.syl (.axch c q sp rd sz ord arr) c (s.atomicCauses sp sz) fun s => s.atomic q sp rd sz false ord arr 6)

/-- ACAS (R219). -/
def execAcas (c : Ctl) (q : BitVec 2) (sp : BitVec 4) (rd : BitVec 6) (sz : Bool) (ord : BitVec 2) (arr : BitVec 4)
    (s : State) : Out :=
  .next (s.syl (.acas c q sp rd sz ord arr) c (s.atomicCauses sp sz) fun s => s.atomic q sp rd sz false ord arr 7)

/-- CSIG on a counter: a marker packet (R220). -/
def execCsigCounter (c : Ctl) (q : BitVec 2) (co : BitVec 4) (ra : BitVec 6) (s : State) : Out :=
  .next (s.syl (.csigCounter c q co ra) c [] fun s => s.enqueue q (s.packet .csigCounter 0 0 0 0 true co.toNat) true)

/-- CSIG on an address (R220). -/
def execCsigAddress (c : Ctl) (q : BitVec 2) (ra : BitVec 6) (s : State) : Out :=
  .next (s.syl (.csigAddress c q ra) c (s.vaCauses (s.rs ra.toNat) 8) fun s =>
    s.enqueue q { s.packet .csigAddress (s.rs ra.toNat) 1 0 0 false 0 with rel := true } true)

/-- A blocking form starts to wait with its operands (R69). -/
def State.await (s : State) (k : FormKind) (rd : Nat) (ops : List DWord) : State :=
  s.modB fun b => { b with forms := b.forms ++ [⟨k, s.cur.col, s.cur.slot, rd, ops, s.fresh, b.iss, s.now, 0⟩] }

/-- CWAIT with a target from a register (R221). -/
def execCwaitReg (c : Ctl) (co : BitVec 4) (sb : Bool) (ra : BitVec 6) (s : State) : Out :=
  .next (s.syl (.cwaitReg c co sb ra) c [] fun s => s.await (.cwait co.toNat sb) 0 [.ofNat 64 (rfld (s.rs ra.toNat) 31 0)])

/-- CWAIT with an immediate target (R221). -/
def execCwaitImm (c : Ctl) (co : BitVec 4) (sb : Bool) (imm : BitVec 10) (s : State) : Out :=
  .next (s.syl (.cwaitImm c co sb imm) c [] fun s => s.await (.cwait co.toNat sb) 0 [imm.setWidth 64])

/-- DRAIN (R222). -/
def execDrain (c : Ctl) (sc : BitVec 3) (s : State) : Out :=
  .next (s.syl (.drain c sc) c [] fun s => s.await (.drain sc.toNat) 0 [])

/-! ### Order (R215, R217, R218, R222) -/

/-- A packet's accesses have been performed at a scope (R377; 0 .col, 1 .core, 2 .die, 3 .pkg, 4 .sys): at their home, or as
far on their way there as the scope reaches. -/
def State.performedAt (s : State) (scope : Nat) (p : Pkt) : Bool :=
  let far (w : Posted) : Bool := match scope with
    | 0 | 1 => decide (w.point ≥ 1)
    | 2 => decide (w.point ≥ 2) && decide (s.pointsTo w.leaf w.va ≥ 2)
    | 3 => decide (w.point ≥ 3) && decide (s.pointsTo w.leaf w.va ≥ 3)
    | _ => false
  p.done || (p.sent && p.posted.all far)

/-- Every access that the bank issued before an issue has been performed at a scope (R222, R377). -/
def State.settledAt (s : State) (scope iss : Nat) : Bool :=
  s.b.stores.all (fun st => decide (iss ≤ st.iss)) &&
    s.b.queues.all (fun e => e.2.pkts.all fun p => decide (iss ≤ p.iss) || s.performedAt scope p) &&
    s.b.fars.all (fun f => decide (iss ≤ f.iss) || f.data.isSome || f.core.isNone) &&
    s.core.xops.all fun o => o.bank != s.b.key || decide (iss ≤ o.iss)

/-- The same at .sys. -/
def State.settledBefore (s : State) (iss : Nat) : Bool := s.settledAt 4 iss

/-- An earlier acquire of the bank has not been performed (R217, R219). -/
def Bank.acquiring (b : Bank) (iss : Nat) : Bool :=
  b.queues.any fun e => e.2.pkts.any fun p => p.acq && !p.done && decide (p.iss < iss)

/-- The forms that no later access of their bank overtakes (R221, R222, R245, R248, R250, R316). -/
def FormKind.holdsBack : FormKind → Bool
  | .tkwait _ | .tqget _ | .fence _ | .drain _ | .cwait .. | .ctx _ => true
  | _ => false

/-- The forms that a bank waits in, those put aside while a trap handler runs among them. -/
def Bank.waiting (b : Bank) : List Form := b.forms ++ ((b.wait.map (·.forms)).getD [])

/-- A context form. -/
def FormKind.isCtx : FormKind → Bool
  | .ctx _ => true
  | _ => false

/-- An access of an issue may not be performed yet: an earlier acquire has not been, or an earlier form or CTXRD that holds
later accesses back has not retired. Of the forms put aside while a handler runs, the context forms go on, and hold the
handler's accesses back (R316). -/
def Bank.heldBack (b : Bank) (now iss : Nat) : Bool :=
  b.acquiring iss || b.waiting.any (fun f => f.kind.holdsBack && decide (f.iss < iss) && (f.kind.isCtx || b.forms.contains f)) ||
    b.ctxRds.any fun e => decide (e.1 < iss) && decide (now < e.2)

/-- The packets of a queue before the first that satisfies a test, and that packet. -/
def splitAt1 (f : Pkt → Bool) : List Pkt → Option (List Pkt × Pkt × List Pkt)
  | [] => none
  | p :: ps => if f p then some ([], p, ps) else (splitAt1 f ps).map fun r => (p :: r.1, r.2.1, r.2.2)

/-- Replaces the packets of a queue. -/
def State.setPkts (s : State) (k : Nat) (ps : List Pkt) : State :=
  s.modB fun b => { b with queues := b.queues.upd .empty k fun q => { q with pkts := ps } }

/-- Claimed slots of a buffer whose packets have not finished. -/
def Bank.claimed (b : Bank) (i : Nat) : Nat :=
  (b.queues.map fun e => (e.2.pkts.filter fun p =>
    p.kind == .cpyb && e.1 / 4 == i / 8 && p.buf == i % 8 && p.slot.isSome && !p.orphan).length).foldl (· + ·) 0 + (b.filled.filter fun f => f.1 == i).length

/-- A packet that starts (R139, R206, R210, R212): a CPYB claims its slot, waiting where there is none; one on a buffer
disabled since its issue is discarded (R142); a packet without accesses is done at once. -/
def State.startPkt (s : State) (k : Nat) (p : Pkt) : Option (State × Pkt) :=
  let i := 8 * (k / 4) + p.buf
  let p := { p with started := true }
  match p.kind with
  | .cpyb =>
    if p.orphan || !(s.b.cb i).en then
      some (s, { p with orphan := true, done := true })
    else
      let r := s.b.cbs.get 0 i
      let c := s.b.cb i
      let n := s.b.claimed i
      let claim (slot : Nat) : Pkt :=
        { p with slot := some (slot % c.nsl), side0 := some (c.base, c.size, c.out), done := decide (p.len = 0) }
      if c.out then
        if rfld r 33 25 ≤ n then none else some (s, claim (rfld r 15 8 + n))
      else if rfld r 24 16 = 0 then none
      else some (s.modB fun b => b.cbMove i 0 (-1) 0 0, claim (rfld r 7 0 + n))
  | .cpyIn | .cpyOut | .cpyg | .fill | .cred _ _ => some (s, { p with done := p.len = 0 })
  | .csigCounter => some (s, { p with done := true })
  | _ => some (s, p)

/-- A packet has read the last byte of an outbound slot: the slot counts as drained, once (R139). -/
def State.drained (s : State) (k : Nat) (p : Pkt) : State × Pkt :=
  let i := 8 * (k / 4) + p.buf
  if p.kind = .cpyb ∧ (p.done ∨ p.sent) ∧ !p.orphan ∧ p.slot.isSome ∧ (s.b.cb i).out then
    (s.modB fun b => b.cbFinish i (p.slot.getD 0), { p with orphan := true })
  else (s, p)

/-- A packet's place in its queue is taken by the packet as an access left it. -/
def State.putPkt (s : State) (k : Nat) (pre : List Pkt) (p : Pkt) (post : List Pkt) : State :=
  let r := s.drained k p
  r.1.setPkts k (pre ++ r.2 :: post)

/-- A packet of plain global accesses, which a memory port can accept before they are performed at their home; a copy read
counts only once it has landed (R222, R377). -/
def Pkt.posts (p : Pkt) : Bool :=
  !p.reg && !p.done && match p.kind with
  | .cpyOut | .cpyg | .fill | .cred .. | .gst _ | .gld _ | .atomic .. | .csigAddress => true
  | .cpyb => (p.side0.map (·.2.2)).getD false
  | _ => false

/-- PACKET_START: the oldest packet of a queue that has not started starts when the packets before it have been performed
and its order bits allow (R206, R215, R217, R218). -/
def execPacketStart (bank col queue : Nat) (s : State) : Out :=
  let s := s.focus bank
  let k := 4 * col + queue
  let q := s.b.queues.get .empty k
  match splitAt1 (fun p => !p.started) q.pkts with
  | none => .next s
  | some (pre, p, post) =>
    if q.susp ∨ pre.any (fun x => !x.done) ∨ s.b.heldBack s.now p.iss ∨ (p.rel ∧ !s.settledBefore p.iss) then .next s
    else match s.startPkt k p with
      | none => .next s
      | some (s, p) =>
        let p := { p with lag := if p.posts then Config.pick (s.place [377, p.id]) else 0 }
        .next (s.putPkt k pre p post)

/-! ### Granules (R213, R216) -/

/-- One CRED element: the new value of the location (R216). -/
def credOp (rop fmt x y : Nat) : Nat :=
  match rop with
  | 0 =>
    if isFlt fmt then (fltResult fmt 0 false (addV 0 (fval fmt x) (fval fmt y)) []).1 else (x + y) % 2 ^ fmtWidth fmt
  | 1 => (pickOrder fmt false x y).1
  | 2 => (pickOrder fmt true x y).1
  | 3 => x &&& y
  | 4 => x ||| y
  | _ => x ^^^ y

/-- Elements of two runs of bytes combined. -/
def credBytes (rop fmt : Nat) : Nat → List Byte → List Byte → List Byte
  | 0, _, _ => []
  | fuel + 1, xs, ys =>
    let n := fmtWidth fmt / 8
    if xs.isEmpty then [] else toBytes n (credOp rop fmt (leNat (xs.take n)) (leNat (ys.take n))) ++
      credBytes rop fmt fuel (xs.drop n) (ys.drop n)

/-- A byte of the share as the copy engine reads it for a packet: a store of the bank whose bound had passed when the
packet issued is seen, and one that an L access of that cycle sees; a later one that is still on its way is seen or not (R214,
R378). -/
def State.engByte (s : State) (p : Pkt) (a : Nat) : Byte :=
  (sortStores (s.b.stores.filter fun st => (st.byte a).isSome)).foldl (fun acc st => match st.byte a with
    | some x => if st.shows p.cyc a = true ∨ Config.pick [214, st.id, a] % 2 = 1 then x else acc
    | none => acc) (s.slot.share.read a)

/-- Bytes that the copy engine writes to the share; with `whole` the write begins a whole line (R213, R421). -/
def State.engWrite (s : State) (a : Nat) (bs : List Byte) (poison whole : Bool) : State :=
  s.modSlot fun m => { m with
    share := m.share.writeN a bs
    poisonLines := if poison then (a / 128) :: m.poisonLines.filter (· != a / 128)
      else if whole then m.poisonLines.filter (· != a / 128) else m.poisonLines }

/-- A copy read of a region keeps what it overwrites, as long as its packet is in flight (R297). -/
def State.keepUndo (s : State) (id a n : Nat) : State :=
  let share := s.slot.share
  s.modB fun b => { b with region := b.region.map fun r => { r with undo := (List.range n).foldl (fun u i =>
    if u.any fun e => e.1 == id && e.2.1 == a + i then u else u ++ [(id, a + i, share.read (a + i))]) r.undo } }

/-- The scratchpad or slot base of a packet's other side; a CPYB keeps to the slot as it claimed it (R142). -/
def State.sideBase (s : State) (k : Nat) (p : Pkt) : Nat :=
  match p.kind with
  | .cpyb => match p.side0 with
    | some (base, size, _) => base + p.slot.getD 0 * size
    | none => (s.b.cb (8 * (k / 4) + p.buf)).base + p.slot.getD 0 * (s.b.cb (8 * (k / 4) + p.buf)).size
  | .cpyg | .fill => p.p1.toNat
  | _ => rfld p.p1 31 0

/-- The packet fills the scratchpad: a CPY.in, or a CPYB on a buffer that was inbound when it claimed its slot. -/
def State.inbound (s : State) (k : Nat) (p : Pkt) : Bool :=
  match p.kind with
  | .cpyIn => true
  | .cpyb => match p.side0 with
    | some (_, _, out) => !out
    | none => !(s.b.cb (8 * (k / 4) + p.buf)).out
  | _ => false

/-- What one access comes to: it is performed, it waits, it faults at an address, or its region may not make it. -/
inductive Access where
  | ok (s : State)
  | wait
  | fault (f : WalkFault) (wr : Bool) (va : Nat)
  | foreign

/-- A copy read of global memory through a leaf, within one line: the bytes and whether they are poison, or what the access
comes to without them (R212, R303, R377). -/
def State.readThrough (s : State) (k : Nat) (p : Pkt) (l : Leaf) (va n : Nat) : Except Access (State × List Byte × Bool) :=
  if p.reg ∧ s.b.region.any (·.txn) ∧ !s.b.committing ∧ foreign (s.canon (Leaf.pa l va)) then .error .foreign
  else if s.unlinked l va then .error (.fault (.of 6) false va)
  else if s.portWaits k l va ∨ (Tlb.ver l ∧ s.lockedFor (s.lineOf l va) p.snap) then .error .wait
  else .ok (((s.fillTlb l).charge l va).unversion l va, s.readVia l va n p.snap, s.badVia l va p.snap)

/-- A copy read of global memory within one line by a packet of queue `k`, with its leaf (R212, R224). -/
def State.copyRead (s : State) (k : Nat) (p : Pkt) (va n : Nat) : Except Access (State × List Byte × Bool × Leaf) :=
  match s.translate (.k (k % 4)) false s.b.ctx va with
  | .error e => .error (.fault e false va)
  | .ok l => match s.readThrough k p l va n with
    | .error a => .error a
    | .ok (s, bs, bad) => .ok (s, bs, bad, l)

/-- A copy write through a leaf, within one line (R212, R304); `new` gives its bytes from what stands there. With `keep` a
poisoned line is left alone, and the bank takes the poison. -/
def State.writeThrough (s : State) (k : Nat) (l : Leaf) (va n : Nat) (rd poison whole : Bool) (new : List Byte → List Byte)
    (keep : Bool) : Access :=
  if s.unlinked l va then .fault (.of 6) (!rd) va
  else if s.portWaits k l va ∨ (rd ∧ Tlb.ver l ∧ s.lockedFor (s.lineOf l va) none) then .wait
  else if keep ∧ s.gPoison (Leaf.pa l va) then
    .ok (((s.fillTlb l).charge l va).modB (·.pendAfter ⟨3, 0, 6, 0, .ofNat 64 va, 0, false, .after, false, none⟩))
  else match (s.fillTlb l).writeVia l va (new (s.seen (Leaf.pa l va) n)) poison whole with
    | .error e => .fault e true va
    | .ok s => .ok s

/-- The leaf of a write of a context, or the fault: a read-modify-write (`rd`) faults as a read where its read alone would
(R227), and a confidential source takes only a confidential destination (R226). -/
def State.writeLeaf (s : State) (ctx : Nat) (eng : Eng) (va : Nat) (rd conf : Bool) : Except (WalkFault × Bool) Leaf :=
  match s.translate eng true ctx va rd with
  | .error e => .error (e, !rd || (match s.translate eng false ctx va with | .ok _ => true | .error _ => false))
  | .ok l => if conf ∧ !Tlb.conf l then .error (.of 5, true) else .ok l

/-- A copy write of global memory within one line, under a context, by queue `k` (R212, R224, R304). -/
def State.writeAs (s : State) (ctx k va n : Nat) (rd conf poison whole : Bool)
    (new : List Byte → List Byte) (keep : Bool) : Access :=
  match s.writeLeaf ctx (.k (k % 4)) va rd conf with
  | .error (e, wr) => .fault e wr va
  | .ok l => s.writeThrough k l va n rd poison whole new keep

/-- The number by which an access of the command processor, which is no packet of the bank in focus, names its queue: a k0
(R18). -/
def okraQ : Nat := 4096

/-- The dispatch sequencer by which the command processor makes an access under a context; which of the four it is, is
unspecified (R18, R20). -/
def State.dispatcher (s : State) (ctx : Nat) : Bank :=
  { s.firm.getD (s.pick (max s.firm.length 1) [20]) (.fresh 1024) with ctx := ctx }

/-- The machine as a dispatch sequencer sees it: an access of the command processor is one of its bank (R18). -/
def State.asFirm (s : State) (ctx : Nat) : State := { s with b := s.dispatcher ctx, banks := s.banks.put s.b.key s.b }

/-- The machine after such an access: no bank has changed. -/
def State.leaveFirm (s t : State) : State := { t with b := s.b, banks := s.banks }

/-- Reads bytes of the bank's context as copy reads of queue `k`, for a form or for the command processor (R17, R18, R225, R303):
the bytes, and what the reads leave; or the cause of a fault, or none while they wait. Of poisoned bytes nothing is used
(assumption log, entry 105). -/
def State.getAll (s : State) (k : Nat) (snap : Option Nat) (va n : Nat) : Except (Option Nat) (State × List Byte) :=
  match s.readGlobal (.k (k % 4)) false snap (n / 128 + 2) va n with
  | .error e => .error (some ((e.map (·.1.cause)).getD 0))
  | .ok (bs, bad, ls) =>
    if s.readWaits k ls snap then .error none
    else if bad then .error (some 0)
    else .ok (ls.foldl (fun s e => ((s.fillTlb e.1).charge e.1 e.2).unversion e.1 e.2) s, bs)

/-- The same by the command processor, under a context (R18, R404). -/
def State.okraGet (s : State) (ctx va n : Nat) : Except (Option Nat) (State × List Byte) :=
  ((s.asFirm ctx).getAll okraQ none va n).map fun r => (s.leaveFirm r.1, r.2)

/-- What a packet writes to global memory in one access: address, size, whether it also reads there, whether its source is
confidential or poison, whether it begins a whole line, for a CRED the operation and format, the bytes, and whether a
poisoned line is left alone. -/
structure Wput where
  va     : Nat
  n      : Nat
  rd     : Bool
  conf   : Bool
  poison : Bool
  whole  : Bool
  cred   : Option (Nat × Nat)
  bytes  : List Byte
  keep   : Bool

/-- The new bytes of a write over the old ones (R216). -/
def credOver (cred : Option (Nat × Nat)) (bytes old : List Byte) : List Byte :=
  match cred with
  | none => bytes
  | some (rop, fmt) => credBytes rop fmt 32 old bytes

/-- How a copy write reaches global memory. -/
abbrev CopyWriter := State → Nat → Wput → Access

/-- A copy write of the bank's own context. -/
def State.copyWrite : CopyWriter := fun s k w =>
  s.writeAs s.b.ctx k w.va w.n w.rd w.conf w.poison w.whole (credOver w.cred w.bytes) w.keep

/-- What a granule comes to before it writes global memory: it has come to an end, or it has a write to make. -/
inductive Grain where
  | done (a : Access)
  | put (s : State) (w : Wput)

/-- One granule of a packet up to its write of global memory (R212, R213). -/
def State.grain (s : State) (k : Nat) (p : Pkt) : Grain :=
  let va := (p.va p.row + p.pos) % 2 ^ 64
  let n := min 32 (p.len - p.pos)
  let base := s.sideBase k p
  let other := (p.side base p.row).toNat + p.pos
  let whole (a : Nat) : Bool := a % 128 == 0 && decide (p.len - p.pos ≥ 128)
  if s.inbound k p then
    if s.core.locked s.b.slotB other n true then .done .wait
    else match s.copyRead k p va n with
      | .error a => .done a
      | .ok (s, bs, bad, _) => .done (.ok ((if p.reg then s.keepUndo p.id other n else s).engWrite other bs bad (whole other)))
  else match p.kind with
    | .cpyg =>
      let vb := ofInt 64 (p.side base p.row + p.pos)
      match s.copyRead k p va n with
      | .error a => .done a
      | .ok (s, bs, bad, l) => .put s ⟨vb, n, false, Tlb.conf l, bad, whole vb, none, bs, false⟩
    | .fill => .put s ⟨va, n, false, false, false, whole va, none,
        (List.range n).map fun i => BitVec.ofNat 8 (elem p.p1.toNat 8 ((p.pos + i) % 8)), false⟩
    | kind =>
      if s.core.locked s.b.slotB other n false then .done .wait
      else
        let src := (List.range n).map fun i => s.engByte p (other + i)
        let bad := s.slot.poisoned other n
        match kind with
        | .cred rop fmt => .put s ⟨va, n, true, false, bad, false, some (rop, fmt), src, true⟩
        | _ => .put s ⟨va, n, false, false, bad, whole va, none, src, false⟩

/-- One granule of a packet (R212, R213); `put` performs its global write. -/
def State.granule (s : State) (k : Nat) (p : Pkt) (put : CopyWriter) : Access :=
  match s.grain k p with
  | .done a => a
  | .put s w => put s k w

/-- The packet after a granule: the next one of the row, the next row, or done. -/
def Pkt.advance (p : Pkt) : Pkt :=
  if p.pos + 32 < p.len then { p with pos := p.pos + 32 }
  else if p.row + 1 < p.rows then { p with row := p.row + 1, pos := 0 }
  else { p with done := true }

/-- The new value of an atomic (R219). -/
def atomicNew (op n : Nat) (signed : Bool) (old x y : Nat) : Nat :=
  let w := 8 * n
  let lt (a b : Nat) : Bool := if signed then decide (sval w a < sval w b) else decide (a < b)
  let x := x % 2 ^ w
  match op with
  | 0 => (old + x) % 2 ^ w
  | 1 => if lt x old then x else old
  | 2 => if lt old x then x else old
  | 3 => old &&& x
  | 4 => old ||| x
  | 5 => old ^^^ x
  | 6 => x
  | _ => if old = y % 2 ^ w then x else old

/-- The data of a GLD or of an atomic's old value is known: it goes to the landing entry (R217, R219). -/
def State.answered (s : State) (p : Pkt) (v : Nat) (bad : Bool) : State :=
  match p.far with
  | some id => s.modB (·.modFar id fun f => { f with data := some v, poison := bad })
  | none => s

/-- What an access of a packet comes to, for the machine; a packet whose access faults stays as `p`. -/
def State.settle (s : State) (k : Nat) (pre : List Pkt) (p : Pkt) (post : List Pkt) (next : Pkt) : Access → State
  | .ok t => t.putPkt k pre next post
  | .wait => s
  | .foreign => s.modB (·.abortAsync 11 0)
  | .fault f wr a => (s.setPkts k (pre ++ p :: post)).copyFault k p.reg p.far.isSome f wr a

/-- The bytes that a GST writes. -/
def Pkt.gstPut (p : Pkt) (n : Nat) : Wput := ⟨p.p0.toNat, n, false, false, false, false, none, toBytes n p.p1.toNat, false⟩

/-- A GLD reads through a leaf at its home (R217). -/
def State.gldAt (s : State) (k : Nat) (p : Pkt) (l : Leaf) (n : Nat) : Access :=
  match s.readThrough k p l p.p0.toNat n with
  | .error a => a
  | .ok (s, bs, bad) => .ok (s.answered p (leNat bs) bad)

/-- The operation of an atomic or of an address CSIG: operation, size, signedness and operand (R219, R220). -/
def Pkt.rmw (p : Pkt) : Option (Nat × Nat × Bool × Nat) :=
  match p.kind with
  | .atomic op n sg => some (op, n, sg, p.p1.toNat)
  | .csigAddress => some (0, 8, false, 1)
  | _ => none

/-- The read-modify-write of an atomic or a CSIG at its home (R219, R220). A poisoned location keeps its contents: a
returning atomic lands poison, and otherwise the bank takes it (R232). -/
def State.rmwAt (s : State) (k : Nat) (p : Pkt) (l : Leaf) (op n : Nat) (sg : Bool) (x : Nat) : Access :=
  let va := p.p0.toNat
  let old := leNat (s.seen (Leaf.pa l va) n)
  let bad := s.gPoison (Leaf.pa l va) && !s.unlinked l va
  if bad && p.far.isSome then
    if s.portWaits k l va ∨ (Tlb.ver l ∧ s.lockedFor (s.lineOf l va) none) then .wait
    else .ok (((s.fillTlb l).charge l va).answered p old true)
  else match s.writeThrough k l va n true false false (fun b => toBytes n (atomicNew op n sg (leNat b) x p.p2.toNat)) true with
    | .ok s => .ok (s.answered p old false)
    | a => a

/-- A write, or the read of a GLD (`wr` false), is accepted at the core's memory port: it is translated, its faults are
raised, and its leaf stands from then on (R225, R377). -/
def State.port (s : State) (k : Nat) (w : Wput) (wr : Bool) : Except Access (State × Leaf) :=
  match (if wr then s.writeLeaf s.b.ctx (.k (k % 4)) w.va w.rd w.conf else
      (s.translate (.k (k % 4)) false s.b.ctx w.va).mapError (·, false)) with
  | .error (e, wr) => .error (.fault e wr w.va)
  | .ok l =>
    if s.unlinked l w.va then .error (.fault (.of 6) (wr && !w.rd) w.va)
    else if s.portWaits k l w.va then .error .wait
    else .ok (s.fillTlb l, l)

/-- The next access of a packet is accepted; the packet after it stands with what it still has to do at the home. -/
def State.accept (s : State) (k : Nat) (p : Pkt) : Access × Pkt :=
  let post (s : State) (w : Wput) (wr : Bool) (next : Pkt) : Access × Pkt := match s.port k w wr with
    | .error a => (a, p)
    | .ok (s, l) => (.ok s, { next with
        done := false, sent := next.done,
        posted := p.posted ++ [⟨l, w.va, w.bytes, w.cred, w.poison, w.whole, 1, p.row, p.pos⟩] })
  let all := { p with done := true }
  match p.kind with
  | .gld n => post s (p.gstPut n) false all
  | .gst n => post s (p.gstPut n) true all
  | .atomic .. | .csigAddress => post s { p.gstPut 8 with rd := true } true all
  | _ => match s.grain k p with
    | .done a => (a, p)
    | .put s w => post s w true p.advance

/-- The packet as it stands before an access that it goes back to: that one and the later ones are made again in full (R228). -/
def Pkt.rewind (p : Pkt) (w : Posted) : Pkt :=
  { p with row := w.row, pos := w.pos, done := false, sent := false, posted := [], lag := 0 }

/-- An access that can still fault at its home: it may need room for a version, or a link (R227). -/
def State.risky (s : State) (w : Posted) : Bool := Tlb.ver w.leaf || foreign (s.canon (Leaf.pa w.leaf w.va))

/-- The accepted accesses of a packet that can be performed next, by their places: the first, and one behind others where none
of them can fault (R228), where it writes another line; each only where no access of another packet stands before it (R377). -/
def State.ready1 (s : State) (k : Nat) (xs : List Posted) : List Nat :=
  (List.range xs.length).filter fun i => match xs[i]? with
    | none => false
    | some w =>
      let line := s.lineOf w.leaf w.va
      !(s.behind k line) && (i == 0 || !(s.risky w)) &&
        (xs.take i).all fun x => !(s.risky x) && s.lineOf x.leaf x.va != line

/-- The accepted access at a place is performed at its home; a fault leaves the packet before it (R228). -/
def State.atHome (s : State) (k : Nat) (p : Pkt) (i : Nat) (w : Posted) : Access × Pkt :=
  let rest := p.posted.eraseIdx i
  let a := match p.kind, p.rmw with
    | .gld n, _ => s.gldAt k p w.leaf n
    | _, some (op, n, sg, x) => s.rmwAt k p w.leaf op n sg x
    | _, none => s.writeThrough k w.leaf w.va w.bytes.length w.cred.isSome w.poison w.whole (credOver w.cred w.bytes) w.cred.isSome
  match a with
  | .fault .. => (a, p.rewind w)
  | _ => (a, { p with posted := rest, done := p.sent && rest.isEmpty })

/-- One more step of a packet whose accesses stand on their way: on to the next egress, or one of them is performed at its
home, which one unspecified where the order is open (R377). -/
def State.carry (s : State) (k : Nat) (p : Pkt) : Access × Pkt :=
  if p.posted.isEmpty then (.ok s, { p with lag := 0, done := p.sent })
  else if p.posted.all fun w => s.behind k (s.lineOf w.leaf w.va) then (.wait, p)
  else if p.lag > 0 then
    let on (w : Posted) : Posted :=
      if s.behind k (s.lineOf w.leaf w.va) then w else { w with point := min (w.point + 1) (s.pointsTo w.leaf w.va) }
    (.ok s, { p with lag := p.lag - 1, posted := p.posted.map on })
  else
    let next := s.ready1 k p.posted
    match next[s.pick (max next.length 1) [377, p.id]]? with
    | none => (.wait, p)
    | some i => match p.posted[i]? with
      | none => (.wait, p)
      | some w => s.atHome k p i w

/-- The packet makes its accesses on their way, step by step, rather than at once. -/
def Pkt.underway (p : Pkt) : Bool := decide (p.lag > 0) || !p.posted.isEmpty

/-- A packet on its way: its next access is accepted; when all are, or one of them has to wait or faults, those accepted go
on (R377). -/
def State.advancePkt (s : State) (k : Nat) (p : Pkt) : Access × Pkt :=
  if p.sent then s.carry k p
  else match s.accept k p with
    | (.ok t, q) => (.ok t, q)
    | (a, q) => if p.posted.isEmpty then (a, q) else s.carry k { p with lag := 0 }

/-- PACKET_GRANULE: the next granule of the packet that a queue is carrying out, or the access of a GLD or GST (R213,
R217, R218, R228). -/
def execPacketGranule (bank col queue : Nat) (s : State) : Out :=
  let s := s.draw.focus bank
  let k := 4 * col + queue
  let q := s.b.queues.get .empty k
  match splitAt1 (fun p => p.started && !p.done) q.pkts with
  | none => .next s
  | some (pre, p, post) =>
    if q.susp ∨ p.rmw.isSome then .next s
    else if p.underway then
      let r := s.advancePkt k p
      .next (s.settle k pre r.2 post r.2 r.1)
    else match p.kind with
      | .gld n => .next (s.settle k pre p post { p with done := true }
          (match s.translate (.k (k % 4)) false s.b.ctx p.p0.toNat with
            | .error e => .fault e false p.p0.toNat
            | .ok l => s.gldAt k p l n))
      | .gst n => .next (s.settle k pre p post { p with done := true } (s.copyWrite k (p.gstPut n)))
      | .mmas _ | .csigCounter => .next s
      | _ => .next (s.settle k pre p post p.advance (s.granule k p State.copyWrite))

/-- ATOMIC_PERFORM: the read-modify-write of an atomic, or the add of a CSIG once every earlier packet of its queue has
completed (R219, R220, R232). -/
def execAtomicPerform (bank col queue : Nat) (s : State) : Out :=
  let s := s.draw.focus bank
  let k := 4 * col + queue
  let q := s.b.queues.get .empty k
  match splitAt1 (fun p => p.started && !p.done) q.pkts with
  | none => .next s
  | some (pre, p, post) =>
    if q.susp ∨ (p.kind = .csigAddress ∧ !pre.isEmpty) then .next s
    else match p.rmw with
      | none => .next s
      | some (op, n, sg, x) =>
        if p.underway then
          let r := s.advancePkt k p
          .next (s.settle k pre r.2 post r.2 r.1)
        else .next (s.settle k pre p post { p with done := true }
          (match s.writeLeaf s.b.ctx (.k (k % 4)) p.p0.toNat true false with
            | .error (e, wr) => .fault e wr p.p0.toNat
            | .ok l => s.rmwAt k p l op n sg x))

/-- PACKET_COMPLETE: the oldest packet of a queue, its accesses all performed, leaves the queue and signals; an inbound
slot counts as filled in claim order, and a CPYB discarded for its buffer marks its counter (R139, R142, R206, R210). -/
def execPacketComplete (bank col queue : Nat) (s : State) : Out :=
  let s := s.focus bank
  let k := 4 * col + queue
  match (s.b.queues.get .empty k).pkts with
  | [] => .next s
  | p :: ps =>
    if !p.done then .next s
    else
      let i := 8 * col + p.buf
      .next ((s.setPkts k ps).modB fun b =>
        let b := if p.kind == .cpyb && p.orphan && p.slot.isNone then b.refusePkt col p
          else if p.ce then
            { b with cn := b.cn.upd 0 (16 * col + p.co) fun r => setFld r 31 0 (rfld r 31 0 + 1) }
          else b
        let b := { b with region := b.region.map fun r => { r with undo := r.undo.filter fun e => e.1 != p.id } }
        if p.kind == .cpyb && p.slot.isSome && !p.orphan then b.cbFinish i (p.slot.getD 0) else b)

/-! ### Waits (R221, R222) -/

/-- A CWAIT's target has been reached (R221). -/
def Bank.cwaitDone (b : Bank) (f : Form) : Bool :=
  match f.kind, f.ops with
  | .cwait co _, [t] => ofInt 32 (rfld (b.cn.get 0 (16 * f.col + co)) 31 0 - t.toNat) < 2 ^ 31
  | _, _ => false

/-- A blocked form has completed: it no longer waits. -/
def State.retireForm (s : State) (f : Form) : State := s.modB fun b => { b with forms := b.forms.erase f }

/-- CWAIT_RETIRE: the first CWAIT of the bank whose counter has reached its target retires (R221). -/
def execCwaitRetire (bank : Nat) (s : State) : Out :=
  let s := s.focus bank
  match s.b.forms.find? s.b.cwaitDone with
  | none => .next s
  | some f =>
    let s := s.retireForm f
    match f.kind, f.ops with
    | .cwait co true, [t] => .next (s.modB fun b => { b with
        cn := b.cn.upd 0 (16 * f.col + co) fun r => setFld r 31 0 (ofInt 32 (rfld r 31 0 - t.toNat)) })
    | _, _ => .next s

/-- A DRAIN may retire (R222). -/
def State.drainDone (s : State) (f : Form) : Bool :=
  match f.kind with
  | .drain sc => s.settledAt sc f.iss
  | _ => false

/-- DRAIN_RETIRE: every access issued earlier by the bank has been performed at the scope that it names (R222, R377). -/
def execDrainRetire (bank : Nat) (s : State) : Out :=
  let s := s.focus bank
  match s.b.forms.find? s.drainDone with
  | none => .next s
  | some f => .next (s.retireForm f)

end Sys2Proof.Machine
end

