-- ==== Sys2Proof/Machine/Sync.lean ====
section
/-! DEFINITION. Synchronisation (R235 to R254): group masks and header barriers, ticket cells, token queues, FENCE. -/

namespace Sys2Proof.Machine

open Sys2Proof

/-! ### Traps of a waiting form -/

/-- The kind of a trap at the bundle in issue: a wait bundle that is part executed traps as kind W (R352). -/
def Bank.trapKind (b : Bank) : TrapKind := if b.wx == 0 then .before else .wait

/-- A bundle that waits is abandoned, and the trap is raised at it; a form that had not completed has not executed (R246,
R247, R352), and a power request of it is withdrawn (R370). -/
def State.trapAt (s : State) (c : Cause) : State :=
  let key := s.b.key
  let asks := s.b.forms.any fun f => f.kind == .pwracq
  let s := if asks then { s with pwrReqs := s.pwrReqs.filter fun r => r.1 != key } else s
  let s := s.modB fun b =>
    let left := b.forms.foldl (fun (n : Nat) f => n ||| 2 ^ (8 * f.col + f.slot)) 0
    { b with
      wx := .ofNat 32 (b.wx.toNat &&& (b.wx.toNat ^^^ left))
      forms := []
      barr := none
      waitSyl := []
      rep := 0
      open_ := false }
  s.takeTrap { c with kind := s.b.trapKind }

/-- A synchronisation cause at a form's place (R249). -/
def Form.sync (f : Form) (code : Nat) : Cause := ⟨8, code, f.slot, f.col, 0, .ofNat 64 code, false, .before, false, none⟩

/-! ### Group masks and barriers (R236 to R240) -/

/-- GMSET (R236). -/
def execGmset (c : Ctl) (gn : BitVec 4) (ra : BitVec 6) (s : State) : Out :=
  .next (s.syl (.gmset c gn ra) c [] fun s => s.result (.gm gn.toNat) (s.rs ra.toNat).toNat 1 1)

/-- A bank's local number on its die (R12). -/
def Bank.localNo (b : Bank) : Nat := b.key / 2 % 64

/-- A bank's die. -/
def Bank.die (b : Bank) : Nat := b.key / 128

/-- Stores to the scratchpad and X scratchpad writes that the bank issued before an issue are visible on the die (R240). -/
def State.storesVisible (s : State) (iss : Nat) : Bool :=
  s.b.stores.all (fun st => decide (iss ≤ st.iss)) &&
    s.core.xops.all fun o => o.bank != s.b.key || decide (iss ≤ o.iss) || (match o.ins with | .tst .. => false | _ => true)

/-- BARRIER_ARRIVAL: the arrival of a bank at its barrier is counted once its earlier writes are visible (R237, R240). -/
def execBarrierArrival (bank : Nat) (s : State) : Out :=
  let s := s.focus bank
  match s.b.barr with
  | some ⟨line, mask, none⟩ =>
    if s.storesVisible s.b.iss then
      let g := s.b.bcn.get 0 line + 1
      .next (s.modB fun b => { b with bcn := b.bcn.set 0 line g, barr := some ⟨line, mask, some g⟩ })
    else .next s
  | _ => .next s

/-- The banks whose arrival a barrier awaits (R237). -/
def State.participants (s : State) (mask : DWord) : List Bank :=
  s.b :: s.bound.filter fun x =>
    x.key != s.b.key && x.die == s.b.die && x.lnch == s.b.lnch && mask.getLsbD x.localNo

/-- Every participant's count has reached the barrier's (R237). -/
def State.barrierOpen (s : State) (line : Nat) (mask : DWord) (g : BitVec 32) : Bool :=
  (s.participants mask).all fun y => decide ((y.bcn.get 0 line - g).toNat < 2 ^ 31)

/-- BARRIER_COMPLETE: every required arrival is visible, and the bank goes on (R237, R239). -/
def execBarrierComplete (bank : Nat) (s : State) : Out :=
  let s := s.focus bank
  match s.b.barr with
  | some ⟨line, mask, some g⟩ => if s.barrierOpen line mask g then .next (s.modB fun b => { b with barr := none }) else .next s
  | _ => .next s

/-! ### Ticket cells (R243 to R245) -/

/-- The cells that the bank's image claims. -/
def Bank.ticketClaim (b : Bank) : Nat := (b.kern.map (·.tickets)).getD 0

/-- The package number of a cell that a CELL names (R243). -/
def Bank.cell (b : Bank) (c : Nat) : Nat := 256 * b.die + b.tkBase + c

/-- A CELL at or beyond the claim makes the bundle illegal (R243). -/
def State.cellCause (s : State) (cell : BitVec 8) : List Cause := if s.b.ticketClaim ≤ cell.toNat then [s.illegal] else []

/-- TKSET: the update is sent and performed as a release (R244, R245). -/
def execTkset (c : Ctl) (cell : BitVec 8) (ra : BitVec 6) (s : State) : Out :=
  .next (s.syl (.tkset c cell ra) c (s.cellCause cell) fun s =>
    { s with tickQ := s.tickQ ++ [⟨s.b.key, s.b.cell cell.toNat, true, .ofNat 32 (rfld (s.rs ra.toNat) 31 0), s.b.iss⟩] })

/-- TKADV (R244, R245). -/
def execTkadv (c : Ctl) (cell : BitVec 8) (inc : BitVec 12) (s : State) : Out :=
  .next (s.syl (.tkadv c cell inc) c (s.cellCause cell) fun s =>
    { s with tickQ := s.tickQ ++ [⟨s.b.key, s.b.cell cell.toNat, false, inc.setWidth 32, s.b.iss⟩] })

/-- TKWAIT (R244). -/
def execTkwait (c : Ctl) (cell : BitVec 8) (ra : BitVec 6) (s : State) : Out :=
  .next (s.syl (.tkwait c cell ra) c (s.cellCause cell) fun s =>
    s.await (.tkwait (s.b.cell cell.toNat)) 0 [.ofNat 64 (rfld (s.rs ra.toNat) 31 0)])

/-- An update's bank has performed every access it issued before, at .die, and no earlier form holds the update back (R245,
R248, R250). -/
def State.tickReady (s : State) (t : Tick) : Bool :=
  let u := s.focus t.bank
  !u.b.bound || (u.settledAt 2 t.iss && !(u.b.heldBack u.now t.iss))

/-- TICKET_UPDATE_PERFORM: the oldest update whose earlier accesses have all been performed reaches its cell (R245). -/
def execTicketUpdatePerform (s : State) : Out :=
  match s.tickQ.find? s.tickReady with
  | none => .next s
  | some t => .next { s with
      tickQ := s.tickQ.erase t
      cells := s.cells.upd 0 t.cell fun v => if t.set then t.val else v + t.val }

/-- A TKWAIT's cell has reached its ticket (R244). -/
def State.tkDone (s : State) (f : Form) : Bool :=
  match f.kind, f.ops with
  | .tkwait cell, [t] => decide ((s.cells.get 0 cell - t.setWidth 32).toNat < 2 ^ 31)
  | _, _ => false

/-- TKWAIT_RETIRE (R244, R245). -/
def execTkwaitRetire (bank : Nat) (s : State) : Out :=
  let s := s.focus bank
  match s.b.forms.find? s.tkDone with
  | none => .next s
  | some f => .next (s.retireForm f)

/-! ### Token queues (R246 to R249) -/

/-- The number of a token queue, 32D + Q (R246). -/
def tqNo (die : BitVec 4) (tq : BitVec 5) : Nat := 32 * die.toNat + tq.toNat

/-- The context holds a token queue (R246, R249). -/
def State.holdsTq (s : State) (n : Nat) : Bool := s.qOwner.get 0 n == s.b.ctx

/-- A token queue. -/
def State.tokq (s : State) (n : Nat) : TokQ := s.tokqs.get ⟨false, 0, [], 0⟩ n

/-- The permits of a queue (R247). -/
def TokQ.permits (q : TokQ) : Int := (q.depth : Int) + 1 - q.toks.length - q.out

/-- The checks of a token form at issue (R249). -/
def State.tqCauses (s : State) (n : Nat) : List Cause :=
  if !s.holdsTq n then [s.cause 8 1] else if !(s.tokq n).en then [s.cause 8 2] else []

/-- TQPUT (R247). -/
def execTqput (c : Ctl) (die : BitVec 4) (tq : BitVec 5) (rb : BitVec 6) (s : State) : Out :=
  .next (s.syl (.tqput c die tq rb) c (s.tqCauses (tqNo die tq)) fun s => s.await (.tqput (tqNo die tq)) 0 [s.rs rb.toNat])

/-- TQGET (R247). -/
def execTqget (c : Ctl) (die : BitVec 4) (tq : BitVec 5) (rd : BitVec 6) (s : State) : Out :=
  .next (s.syl (.tqget c die tq rd) c (s.tqCauses (tqNo die tq)) fun s => s.await (.tqget (tqNo die tq)) rd.toNat [])

/-- TQREL (R247). -/
def execTqrel (c : Ctl) (die : BitVec 4) (tq : BitVec 5) (s : State) : Out :=
  .next (s.syl (.tqrel c die tq) c (s.tqCauses (tqNo die tq)) fun s => s.await (.tqrel (tqNo die tq)) 0 [])

/-- A form waits on a token queue. -/
def Form.onQueue (n : Nat) (f : Form) : Bool :=
  match f.kind with
  | .tqput k | .tqget k | .tqrel k => k == n
  | _ => false

/-- A form that was expelled from its queue while it was put aside or saved: its phase is 8 + the cause (R246, R249). -/
def Form.expelled (f : Form) : Bool := decide (8 ≤ f.phase)

/-- A form of a context that a restore finds waiting on a queue that the context does not hold, or that is not enabled, has been
expelled from it (R249, R343). -/
def State.onIdle (s : State) (ctx : Nat) (f : Form) : Form :=
  match f.kind with
  | .tqput n | .tqget n | .tqrel n =>
    if f.expelled then f
    else if s.qOwner.get 0 n ≠ ctx then { f with phase := 9 }
    else if (s.tokq n).en then f else { f with phase := 10 }
  | _ => f

/-- No form of the same kind on the same queue has waited longer: of a bound bank, of one whose handler runs, or of a saved
one (R248, R252, R253). -/
def State.firstWaiting (s : State) (f : Form) : Bool :=
  (s.bound ++ s.saved.map Prod.fst).all fun x =>
    x.waiting.all fun g => g.kind != f.kind || g.expelled || decide (f.since ≤ g.since)

/-- A form that was expelled raises its trap when its bundle's wait is taken up again (R246, R249). -/
def State.evict (s : State) (n : FormKind → Bool) : Option State :=
  (s.b.forms.find? fun f => n f.kind && f.expelled).map fun f => s.trapAt (f.sync (f.phase - 8))

/-- A TQPUT may complete: a permit, its turn, and its release, with no earlier form that holds it back (R247, R248, R250). -/
def State.tqputReady (s : State) (f : Form) : Bool :=
  match f.kind with
  | .tqput n => (s.tokq n).en && decide ((s.tokq n).permits > 0) && s.firstWaiting f && s.settledAt 3 f.iss &&
      !(s.b.heldBack s.now f.iss)
  | _ => false

/-- TQPUT_COMPLETE (R247, R248). -/
def execTqputComplete (bank : Nat) (s : State) : Out :=
  let s := s.focus bank
  match s.evict fun k => match k with | .tqput _ => true | _ => false with
  | some t => .next t
  | none => match s.b.forms.find? s.tqputReady with
  | none => .next s
  | some f => match f.kind with
    | .tqput n =>
      let q := s.tokq n
      .next { s.retireForm f with tokqs := s.tokqs.put n { q with toks := q.toks ++ f.ops } }
    | _ => .next s

/-- A TQGET may complete: a token, its turn, and no earlier form that holds it back (R247, R248, R250). -/
def State.tqgetReady (s : State) (f : Form) : Bool :=
  match f.kind with
  | .tqget n => (s.tokq n).en && !(s.tokq n).toks.isEmpty && s.firstWaiting f && !(s.b.heldBack s.now f.iss)
  | _ => false

/-- TQGET_COMPLETE: the oldest token goes to s[RD], with the bound of 1 from retirement (R247). -/
def execTqgetComplete (bank : Nat) (s : State) : Out :=
  let s := s.focus bank
  match s.evict fun k => match k with | .tqget _ => true | _ => false with
  | some t => .next t
  | none => match s.b.forms.find? s.tqgetReady with
  | none => .next s
  | some f => match f.kind with
    | .tqget n => match (s.tokq n).toks with
      | t :: ts =>
        let q := s.tokq n
        .next ({ s.retireForm f with tokqs := s.tokqs.put n { q with toks := ts, out := q.out + 1 } }.resS f.rd t 1)
      | [] => .next s
    | _ => .next s

/-- A TQREL may complete: its release is done, and no earlier form holds it back (R247, R248, R250). -/
def State.tqrelReady (s : State) (f : Form) : Bool :=
  match f.kind with
  | .tqrel n => (s.tokq n).en && s.settledAt 3 f.iss && !(s.b.heldBack s.now f.iss)
  | _ => false

/-- TQREL_COMPLETE: the permit returns, or with OUT = 0 the bank takes the synchronisation trap at its bundle (R247). -/
def execTqrelComplete (bank : Nat) (s : State) : Out :=
  let s := s.focus bank
  match s.evict fun k => match k with | .tqrel _ => true | _ => false with
  | some t => .next t
  | none => match s.b.forms.find? s.tqrelReady with
  | none => .next s
  | some f => match f.kind with
    | .tqrel n =>
      let q := s.tokq n
      if q.out = 0 then .next (s.trapAt (f.sync 3))
      else .next { s.retireForm f with tokqs := s.tokqs.put n { q with out := q.out - 1 } }
    | _ => .next s

/-- Every bank blocked on a queue takes the synchronisation trap with a cause, at once or, where its bundle is put aside or
saved, when the wait is taken up again (R246, R252). -/
def State.expelWaiters (s : State) (n code : Nat) : State :=
  let here := s.b.key
  let mark (f : Form) : Form := if f.onQueue n && !f.expelled then { f with phase := 8 + code } else f
  let aside (b : Bank) : Bank := { b with wait := b.wait.map fun w => { w with forms := w.forms.map mark } }
  let s := { s with
    b := aside s.b
    banks := s.banks.mapVals aside
    saved := s.saved.map fun (e : Bank × SlotMem) => ({ aside e.1 with forms := e.1.forms.map mark }, e.2) }
  let keys := (s.bound.filter fun x => x.forms.any (Form.onQueue n)).map (·.key)
  (keys.foldl (fun s k =>
    let s := s.focus k
    match s.b.forms.find? (Form.onQueue n) with
    | some f => s.trapAt (f.sync code)
    | none => s) s).focus here

/-- A write of TQC (R246): DEPTH only while EN = 0; clearing EN empties the queue and traps the banks that wait on it. -/
def State.writeTqc (s : State) (n : Nat) (v : DWord) : State :=
  let q := s.tokq n
  let en := v.getLsbD 63
  if q.en then
    if en then s
    else ({ s with tokqs := s.tokqs.put n ⟨false, q.depth, [], 0⟩ }).expelWaiters n 2
  else { s with tokqs := s.tokqs.put n ⟨en, rfld v 62 55, q.toks, q.out⟩ }

/-- The value of TQC (R246). -/
def State.readTqc (s : State) (n : Nat) : DWord :=
  let q := s.tokq n
  .ofNat 64 (pack [(1, q.en.toNat), (8, q.depth), (9, q.toks.length), (9, q.out), (37, 0)])

/-- TQC_WRITE: a write of a token queue's register takes effect (R246). -/
def execTqcWrite (num : Nat) (val : BitVec 64) (s : State) : Out :=
  .next (if 0x600 ≤ num ∧ num < 0x740 then (s.arrived num val fun _ => true).writeTqc (num - 0x600) val else s)

/-! ### FENCE (R250) -/

/-- FENCE (R250). -/
def execFence (c : Ctl) (cls : BitVec 4) (s : State) : Out :=
  .next (s.syl (.fence c cls) c [] fun s => s.await (.fence cls.toNat) 0 [])

/-- A FENCE's classes have finished (R250). -/
def State.fenceDone (s : State) (f : Form) : Bool :=
  match f.kind with
  | .fence cls =>
    (!cls.testBit 0 || s.b.stores.all fun st => decide (f.iss ≤ st.iss)) &&
      (!cls.testBit 1 || s.core.xops.all fun o => o.bank != s.b.key || decide (f.iss ≤ o.iss) ||
        s.b.streams.any fun e => e.2.xop == o.id && e.2.susp) &&
      (!cls.testBit 2 || s.b.fars.all fun x => decide (f.iss ≤ x.iss)) &&
      (!cls.testBit 3 || (s.b.pend.all (fun p => decide (f.iss ≤ p.iss)) &&
        s.b.contribs.all fun k => decide (f.iss ≤ k.iss) || k.ql.isNone))
  | _ => false

/-- FENCE_RETIRE (R250). -/
def execFenceRetire (bank : Nat) (s : State) : Out :=
  let s := s.focus bank
  match s.b.forms.find? s.fenceDone with
  | none => .next s
  | some f => .next (s.retireForm f)

end Sys2Proof.Machine
end

