-- ==== Sys2Proof/Machine/Work.lean ====
section
/-! DEFINITION. Work creation and the scheduler (R255 to R279): POST and LAUNCH, launch and task queues, binding, TEND and
completion, bank switches, graphs. -/

namespace Sys2Proof.Machine

open Sys2Proof

/-! ### Handles (R265, R408 to R412) -/

/-- The key of a context's handle. -/
def hkey (ctx hnd : Nat) : Nat := 65536 * ctx + hnd

/-- The kernel that an image handle names: handles H + 1 to H + n of the object of handle H (R409). With `live` only
objects whose handles are valid count (R411). -/
def State.image (s : State) (ctx hnd : Nat) (live : Bool) : Option Kern :=
  s.objs.findSome? fun e =>
    if e.2.ctx == ctx && (e.2.live || !live) && decide (e.1 % 65536 < hnd) then e.2.kernels[hnd - e.1 % 65536 - 1]? else none

/-- The generation of a graph that is current. -/
def State.generation (s : State) (g : Nat) : List Nat := ((s.graphs.find g).bind (·.gens.getLast?)).getD []

/-! ### POST and LAUNCH (R257, R261, R265, R269) -/

/-- The causes of a hash address (R261, R269). -/
def State.hashCauses (s : State) (va : Nat) : List Cause :=
  if va ≥ 2 ^ 56 then []
  else match s.translate (.k 0) false s.b.ctx va with
    | .error f => if f.cause = 2 ∨ f.cause = 3 then [s.cause 9 5] else [s.cause 9 4 0 (4 + f.cause * 2 ^ 59)]
    | .ok l => if foreign (s.canon (Leaf.pa l va)) then [s.cause 9 6] else []

/-- The home die of a record: the stack that holds the address, or the issuing die (R261, R424). -/
def State.homeDie (s : State) (va : Nat) : Nat :=
  match s.translate (.k 0) false s.b.ctx va with
  | .ok l => let pa := s.canon (Leaf.pa l va); if inHbm pa then pa / 2 ^ 36 else s.b.die
  | .error _ => s.b.die

/-- A PRI above the launch's own (R257). -/
def State.prioCause (s : State) (pri : BitVec 3) : List Cause := if pri.toNat > s.b.pri then [s.cause 9 2] else []

/-- The checks of a POST (R269). -/
def State.postCauses (s : State) (sp : BitVec 4) (pri : BitVec 3) : List Cause :=
  let p0 := s.grp sp 0
  let p1 := s.grp sp 1
  (if (s.image s.b.ctx (rfld p1 47 32) true).isNone then [s.cause 9 1] else []) ++ s.prioCause pri ++
    (if rfld p0 63 56 ≠ 0 ∨ rfld p1 63 48 ≠ 0 ∨ rfld p1 31 0 ≠ 0 then [s.cause 9 3] else []) ++ s.hashCauses p0.toNat

/-- POST (R261). -/
def execPost (c : Ctl) (sp : BitVec 4) (pri : BitVec 3) (s : State) : Out :=
  .next (s.syl (.post c sp pri) c (s.postCauses sp pri) fun s =>
    s.await (.post pri.toNat) 0 [s.grp sp 0, s.grp sp 1, s.grp sp 2, s.grp sp 3, .ofNat 64 (s.homeDie (s.grp sp 0).toNat)])

/-- The checks of a LAUNCH (R269). -/
def State.launchCauses (s : State) (sp : BitVec 4) (pri : BitVec 3) : List Cause :=
  let p0 := s.grp sp 0
  let p1 := s.grp sp 1
  let h := rfld p0 47 32
  (if (s.image s.b.ctx h true).isNone ∧ (s.graphs.find (hkey s.b.ctx h)).isNone then [s.cause 9 1] else []) ++
    s.prioCause pri ++
    (if rfld p0 63 48 ≠ 0 ∨ rfld p0 31 0 ≠ 0 ∨ rfld p1 63 56 ≠ 0 ∨ rfld p1 2 0 ≠ 0 then [s.cause 9 3] else [])

/-- LAUNCH (R255). -/
def execLaunch (c : Ctl) (sp : BitVec 4) (pri : BitVec 3) (s : State) : Out :=
  .next (s.syl (.launch c sp pri) c (s.launchCauses sp pri) fun s =>
    s.await (.launch pri.toNat) 0 [s.grp sp 0, s.grp sp 1, s.grp sp 2, s.grp sp 3])

/-- A POST's queue has room: a task queue holds 512 records (R261). -/
def State.postRoom (s : State) (f : Form) : Bool :=
  match f.kind, f.ops with
  | .post pri, [_, _, _, _, d] => decide ((s.taskqs.get [] (8 * d.toNat + pri)).length < 512)
  | _, _ => false

/-- POST_ENQUEUE: the record enters the queue of its priority on its home die, and POST retires (R261, R278). -/
def execPostEnqueue (bank : Nat) (s : State) : Out :=
  let s := s.draw.focus bank
  match s.b.forms.find? s.postRoom with
  | none => .next s
  | some f => match f.kind, f.ops with
    | .post pri, [p0, p1, p2, p3, d] =>
      let t : Task := ⟨s.b.ctx, rfld p1 47 32, pri, [p0, p2, p3], s.fresh⟩
      .next ({ s with taskqs := s.taskqs.upd [] (8 * d.toNat + pri) fun q => q ++ [t] }.retireForm f)
    | _, _ => .next s

/-- A launch as it enters a launch queue; the handle may name a graph (R255, R277). -/
def State.newLaunch (s : State) (ctx hnd pri : Nat) (args : List DWord) (compl : BitVec 56) : Launch :=
  ⟨0, ctx, hnd, pri, args, compl, s.fresh,
    if (s.graphs.find (hkey ctx hnd)).isSome then some (hkey ctx hnd, []) else none, false, [], []⟩

/-- A launch queue has room: it holds 64 launches (R255). -/
def State.launchRoom (s : State) (pri : Nat) : Bool := decide ((s.launchqs.get [] pri).length < 64)

/-- When the LAUNCHes and LAUNCH packets that wait on a full queue began to wait, with their priorities: of bound banks, of those
whose handler runs, and of saved ones whose context runs (R255, R278, R279). -/
def State.waiters (s : State) : List (Nat × Nat) :=
  let saved := (s.saved.map Prod.fst).filter fun b => (s.ctx b.ctx).st == .run
  (s.bound ++ saved).flatMap (fun x => x.waiting.filterMap fun f => match f.kind with
    | .launch pri => if f.phase = 1 then some (pri, f.since) else none
    | _ => none) ++
  s.uqs.filterMap fun e => e.2.since

/-- A launch of a priority that began to wait at a stamp, or comes now, enters before no earlier waiter of its priority or
a higher one (R255). -/
def State.launchTurn (s : State) (pri : Nat) (since : Option Nat) : Bool :=
  s.waiters.all fun w => match since with
    | some t => decide (w.1 < pri) || decide (t ≤ w.2)
    | none => w.1 != pri

/-- LAUNCH_ENQUEUE: the launch enters the queue of its priority, or begins to wait on a full one (R255, R278). -/
def execLaunchEnqueue (bank : Nat) (s : State) : Out :=
  let s := s.draw.focus bank
  let isL (f : Form) : Bool := match f.kind with | .launch _ => true | _ => false
  match s.b.forms.find? isL with
  | none => .next s
  | some f => match f.kind, f.ops with
    | .launch pri, [p0, p1, p2, p3] =>
      if s.launchRoom pri && s.launchTurn pri (if f.phase = 1 then some f.since else none) then
        let l := s.newLaunch s.b.ctx (rfld p0 47 32) pri [0, p2, p3] (.ofNat 56 p1.toNat)
        .next ({ s with launchqs := s.launchqs.upd [] pri fun q => q ++ [l] }.retireForm f)
      else if f.phase = 1 then .next s
      else .next (s.modB fun b => { b with forms := b.forms.map fun g =>
        if g = f then { g with phase := 1, since := s.fresh } else g })
    | _, _ => .next s

/-! ### Accesses of the command processor (R18, R266, R406) -/

/-- A fault of the command processor's add is reported as a refused copy fault of the context, and no bank stops for it
(R266). -/
def State.reportRefused (s : State) (ctx : Nat) (f : WalkFault) (va : Nat) : State :=
  let edt : DWord := .ofNat 64 (pack [(1, 1), (4, f.cause), (1, 1), (2, 0), (56, va % 2 ^ 56)])
  let fa : DWord := .ofNat 64 (if f.cause = 7 then f.cp else va % 2 ^ 56)
  let c : Cause := ⟨6, f.cause, 6, 0, fa, edt, true, .after, f.cause == 7, none⟩
  let x := s.ctx ctx
  let h := if f.cause = 7 ∧ ctx ≠ 0 then s.claimer 6 9 x.parent else s.claimer 6 9 ctx
  { s with recs := s.recs ++ [⟨0, h, c, ctx, 1024, 0, 0, x.g1, x.g2, false, false⟩] }

/-- An `AADD.n64.rel` of the command processor under a context; a poisoned location stays as it is (R18, R219, R232). -/
def State.okraAdd (s : State) (ctx va x : Nat) : Access :=
  match (s.asFirm ctx).writeAs ctx okraQ va 8 true false false false (fun b => toBytes 8 (leNat b + x)) true with
  | .ok t => .ok (s.leaveFirm t)
  | a => a

/-- The add at a completion address (R266, R406); none while it waits. -/
def State.complete (s : State) (ctx : Nat) (addr : BitVec 56) (x : Nat) : Option State :=
  if addr = 0 then some s
  else match s.okraAdd ctx addr.toNat x with
    | .ok s => some s
    | .fault f _ va => some (s.reportRefused ctx f va)
    | _ => none

/-! ### Places and binding (R258, R263, R425) -/

/-- The key of the bank at a place. -/
def placeKey (p : Place) : Nat := 8 * p.core + 2 * p.col + p.slotB.toNat

/-- The number of a binding: from its launch and the bank of its first place; never 0. -/
def uidOf (id key : Nat) : Nat := 2048 * (id + 1) + key

/-- The grant gives its receiver a core. -/
def Grant.givesCore (g : Grant) (core : Nat) : Bool :=
  match g.res with
  | .cores set _ => set.getLsbD core
  | _ => false

/-- The grant is exclusive. -/
def Grant.isExcl (g : Grant) : Bool :=
  match g.res with
  | .cores _ excl => excl
  | _ => false

/-- The context holds a core (R312). -/
def State.holdsCore (s : State) (ctx core : Nat) : Bool :=
  decide (core < 128) && (ctx == 0 || s.grants.any fun e => e.2.recv == ctx && e.2.givesCore core)

/-- The context may bind on a core: it holds it, has not granted it exclusively, and is in state RUN (R312, R320, R425). -/
def State.mayBind (s : State) (ctx core : Nat) : Bool :=
  s.holdsCore ctx core && (s.ctx ctx).st == .run &&
    !(s.grants.any fun e => e.2.giver == ctx && e.2.givesCore core && e.2.isExcl)

/-- The SRAM banks that a partition word takes (R16, R122). -/
def partBanks (w : BitVec 32) : Nat := fld w.toNat 15 14 + fld w.toNat 13 8 + fld w.toNat 5 0

/-- A bank slot of a core holds a binding. -/
def State.resident (s : State) (core : Nat) (slotB : Bool) : Bool := s.bound.any fun x => x.core == core && x.slotB == slotB

/-- A bank slot of a core is free, and a partition word fits beside the other slot's (R122). -/
def State.slotFits (s : State) (core : Nat) (slotB : Bool) (partw : BitVec 32) : Bool :=
  !s.resident core slotB &&
    decide (partBanks partw + (if s.resident core (!slotB) then partBanks ((s.cores.get .reset core).slot (!slotB)).partw else 0) ≤ 64)

/-- The lowest columns of the sequencers of a kernel on a core, under its X-column constraint (R11, R188). -/
def seqCols (k : Kern) : List Nat :=
  match k.mode, k.xcol with
  | .whole, _ => [0]
  | .half, none => [0, 2]
  | .half, some h => [2 * h]
  | .quarter, none => [0, 1, 2, 3]
  | .quarter, some q => [q]

/-- Okra may bind a sequencer of a context's kernel at a place (R425). -/
def State.placeOk (s : State) (ctx : Nat) (k : Kern) (p : Place) : Bool :=
  s.mayBind ctx p.core && s.slotFits p.core p.slotB k.partw && (seqCols k).contains p.col

/-- The spread of the launch over sequencers of a die, and over dies (R258). -/
def spreads (k : Kern) : Nat × Nat :=
  let one (kind : LoopKind) : Nat := ((k.loops.find? fun e => e.kind == kind).map (·.spread)).getD 1
  (one .cores, one .dies)

/-- The lowest free run of ticket cells on a die (R243). -/
def State.ticketBase (s : State) (die n : Nat) : Option Nat :=
  let cl := s.live.flatMap fun l => l.claims.filter fun c => c.1 == die
  if n = 0 then some 0
  else (List.range (257 - n)).find? fun b => cl.all fun c => decide (b + n ≤ c.2.1) || decide (c.2.1 + c.2.2 ≤ b)

/-- Sequencers of a die at which the kernel could be bound. -/
def State.dieRoom (s : State) (ctx : Nat) (k : Kern) (die : Nat) : Nat :=
  ((List.range 16).filter fun i =>
    s.mayBind ctx (16 * die + i) && (s.slotFits (16 * die + i) false k.partw || s.slotFits (16 * die + i) true k.partw)).length *
      (seqCols k).length

/-- The resource claims of a launch over `p` sequencers on `q` dies can be met. -/
def State.feasible (s : State) (ctx : Nat) (k : Kern) (p q : Nat) : Bool :=
  decide (q ≤ ((List.range 8).filter fun d => decide (p ≤ s.dieRoom ctx k d) && (s.ticketBase d k.tickets).isSome).length)

/-- What Okra checks again at each bind and does not wait for: the declared power level and the feature vector (R409). -/
def State.bindChecks (s : State) (ctx : Nat) (k : Kern) : Bool :=
  let imax := fld (s.ctx ctx).power.toNat 15 4
  (imax == 0xFFF || decide (k.power ≤ imax)) && (k.feat &&& s.feat) == k.feat

/-- A launch of a graph waits while an earlier launch of the graph runs, unless the graph is concurrent (R277). -/
def State.graphWaits (s : State) (l : Launch) : Bool :=
  match l.graph with
  | some (g, _) => !l.bound && !((s.graphs.find g).map (·.conc)).getD false &&
      (s.live ++ s.launchqs.flatMap Prod.snd).any fun x => x.bound && (x.graph.map Prod.fst) == some g
  | none => false

/-- The head of a launch queue: graph launches that wait hold no place (R277). -/
def State.head (s : State) (pri : Nat) : Option Launch := (s.launchqs.get [] pri).find? fun l => !s.graphWaits l

/-- The kernel that a launch runs next, and its graph's handles from that one on. -/
def State.launchKern (s : State) (l : Launch) : Option (Kern × Option (Nat × List Nat)) :=
  match l.graph with
  | none => (s.image l.ctx l.hnd false).map fun k => (k, none)
  | some (g, rest) =>
    let hs := if l.bound then rest else s.generation g
    match hs with
    | h :: _ => (s.image l.ctx h false).map fun k => (k, some (g, hs))
    | [] => none

/-- Okra can bind the launch now. -/
def State.launchReady (s : State) (l : Launch) : Bool :=
  match s.launchKern l with
  | some (k, _) => s.bindChecks l.ctx k && s.feasible l.ctx k (spreads k).1 (spreads k).2
  | none => false

/-- Okra can bind a task record on its die now. -/
def State.taskReady (s : State) (die : Nat) (t : Task) : Bool :=
  match s.image t.ctx t.hnd false with
  | some k => s.bindChecks t.ctx k && decide (1 ≤ s.dieRoom t.ctx k die) && (s.ticketBase die k.tickets).isSome
  | none => false

/-- A kernel could be bound on sequencers that share columns with a place. -/
def State.wants (s : State) (ctx : Nat) (k : Kern) (p : Place) (cols : Nat) : Bool :=
  (seqCols k).any fun c => decide (c < p.col + cols) && decide (p.col < c + modeCols k.mode) &&
    s.placeOk ctx k ⟨p.core, c, p.slotB⟩

/-- The operating point that the banks of a core ask for: the highest request, at most the lowest OPMAX of their contexts,
and 0 while a thermal trip holds the core (R367, R373). -/
def State.wantedPoint (s : State) (core : Nat) : Nat :=
  let bs := s.bound.filter fun x => x.core == core
  let top := (bs.filterMap fun x => x.opReq.map BitVec.toNat).foldl max 0
  if (s.cores.get .reset core).trip then 0
  else (bs.map fun x => fld (s.ctx x.ctx).power.toNat 2 0).foldl min top

/-- A change of a core's target starts settling, and waits while settling is in progress (R367). -/
def State.retarget (s : State) (core : Nat) : State :=
  let p := s.wantedPoint core
  s.modCore core fun c => if c.settling || c.tgt == p then c else { c with tgt := p, settling := true }

/-- A launch number that no live launch has (R268); which one is unspecified. -/
def State.launchNo (s : State) : Nat :=
  let start := s.pick 65536 [268]
  (((List.range (s.live.length + 1)).map fun i => (start + i) % 65536).find? fun n => s.live.all fun l => l.id != n).getD start

/-- A bank as Okra leaves it at its binding, before the first issue (R51, R105, R113, R148, R149, R181, R236, R263). -/
def freshBinding (p : Place) (l : Launch) (k : Kern) (coord : Nat × Nat × Nat × Nat) (tk : Nat) (gm1 : DWord) : Bank :=
  { Bank.fresh (placeKey p) with
    bound := true
    uid := uidOf l.id (placeKey p)
    ctx := l.ctx
    lnch := l.id
    kern := some k
    pri := l.pri
    mode := k.mode
    cIdx := coord.1
    cNum := coord.2.1
    dIdx := coord.2.2.1
    dNum := coord.2.2.2
    tkBase := tk
    sr := ((l.args.zipIdx 1).foldl (fun m e => m.set 0 e.2 e.1) ([] : Smap DWord))
    gm := Smap.set 0 [] 1 gm1
    vcw := k.vcw.zipIdx.foldl (fun m e => m.set vcwReset e.2 e.1) ([] : Smap VcwBits)
    pc := k.entry
    npc := k.entry
    seg := k.entry
    flowed := k.entry }

/-- Puts a bank at its key, in focus or not. -/
def State.putBank (s : State) (b : Bank) : State :=
  if s.b.key = b.key then { s with b := b } else { s with banks := s.banks.put b.key b }

/-- The fields of PARTW; its reserved bits read 0 (R5, R122). -/
def partwMask : BitVec 32 := 0xFF3F

/-- A bank slot of a core at a binding: the kernel's partition and scratch image, every other byte zero, every tile +0
(R33, R122, R181). -/
def freshSlot (id : Nat) (k : Kern) : SlotMem :=
  { SlotMem.zero with owner := some id, partw := k.partw &&& partwMask, share := Memory.writeN [] 0 k.scratch }

/-- The places of a launch on a die in increasing local number (R259). -/
def ranked (ps : List Place) (die : Nat) : List Nat :=
  (List.range 64).filter fun n => ps.any fun p => dieOf p.core == die && 4 * (p.core % 16) + p.col == n

/-- The dies of some places in increasing order. -/
def diesOf (ps : List Place) : List Nat := (List.range 8).filter fun d => ps.any fun p => dieOf p.core == d

/-- BINDING: the one operation by which Okra places a launch's sequencers (R259, R263, R425). -/
def State.bind (s : State) (l : Launch) (k : Kern) (ps : List Place) : State :=
  let dies := diesOf ps
  let id := s.launchNo
  let l := { l with
    id := id
    bound := true
    banks := ps.map fun p => uidOf id (placeKey p)
    claims := dies.map fun d => (d, (s.ticketBase d k.tickets).getD 0, k.tickets) }
  let cells := l.claims.foldl (fun c (x : Nat × Nat × Nat) =>
    (List.range x.2.2).foldl (fun c i => c.del (256 * x.1 + x.2.1 + i)) c) s.cells
  let s' := ps.foldl (fun s' p =>
    let d := dieOf p.core
    let locals := ranked ps d
    let tk := ((l.claims.find? fun x => x.1 == d).map (·.2.1)).getD 0
    let gm1 : DWord := .ofNat 64 ((locals.map fun n => 2 ^ n).foldl (· + ·) 0)
    let c := (locals.idxOf (4 * (p.core % 16) + p.col), locals.length, dies.idxOf d, dies.length)
    let fg := !s.resident p.core (!p.slotB)
    let s' := s'.putBank (freshBinding p l k c tk gm1)
    s'.modCore p.core fun x =>
      { x.modSlot p.slotB (fun _ => freshSlot id k) with fgB := if fg then p.slotB else x.fgB }) s
  let s' := { s' with live := s'.live ++ [l], cells := cells }
  (ps.map (·.core)).foldl (fun s c => s.retarget c) s'

/-- The places form a choice of Okra for a kernel over `p` sequencers on `q` dies (R425). -/
def State.placesOk (s : State) (ctx : Nat) (k : Kern) (p q : Nat) (ps : List Place) : Bool :=
  let dies := diesOf ps
  ps.all (s.placeOk ctx k) && (ps.map placeKey).eraseDups.length == ps.length && dies.length == q &&
    ps.length == p * q && dies.all (fun d => (ranked ps d).length == p && (s.ticketBase d k.tickets).isSome) &&
    ps.all fun a => ps.all fun b => a.core != b.core || a.slotB == b.slotB

/-- Removes a launch from its queue. -/
def State.dequeue (s : State) (l : Launch) : State :=
  { s with launchqs := s.launchqs.upd [] l.pri fun q => q.filter fun x => x.stamp != l.stamp }

/-- A head task record that Okra can bind where a launch would go, and that comes first (R262). -/
def State.taskFirst (s : State) (pri stamp : Nat) (k : Kern) (p : Place) : Bool :=
  (List.range 8).any fun q => match (s.taskqs.get [] (8 * dieOf p.core + q)).head? with
    | some t => (decide (q > pri) || (q == pri && decide (t.stamp < stamp))) && s.taskReady (dieOf p.core) t &&
        (match s.image t.ctx t.hnd false with | some k' => s.wants t.ctx k' p (modeCols k.mode) | none => false)
    | none => false

/-- A head launch that Okra can bind where a task would go, and that comes first (R262). -/
def State.launchFirst (s : State) (pri stamp : Nat) (k : Kern) (p : Place) : Bool :=
  (List.range 8).any fun q => match s.head q with
    | some l => (decide (q > pri) || (q == pri && decide (l.stamp < stamp))) && s.launchReady l &&
        (match s.launchKern l with | some (k', _) => s.wants l.ctx k' p (modeCols k.mode) | none => false)
    | none => false

/-- LAUNCH_BIND: Okra binds the head launch of a queue at the places it chose, or ends one that fails its checks unbound
(R255, R256, R258, R263, R406, R409, R425). A choice that no rule allows binds nothing. -/
def execLaunchBind (pri : Nat) (places : List Place) (s : State) : Out :=
  let s := s.draw
  match s.head pri with
  | none => .next s
  | some l =>
    let failed := match s.launchKern l with
      | some (k, _) => !s.bindChecks l.ctx k
      | none => true
    if failed then .next (((s.dequeue l).complete l.ctx l.compl (2 ^ 32)).getD s)
    else match s.launchKern l with
      | none => .next s
      | some (k, g) =>
        let higher := (List.range 8).any fun q => decide (q > pri) && (match s.head q with | some h => s.launchReady h | none => false)
        if s.placesOk l.ctx k (spreads k).1 (spreads k).2 places && !higher &&
            !(places.any fun p => s.taskFirst pri l.stamp k p) then
          .next ((s.dequeue l).bind { l with graph := g } k places)
        else .next s

/-- TASK_DISPATCH: the head record of a task queue is run as a launch of one sequencer on its die (R262, R263). -/
def execTaskDispatch (die pri : Nat) (place : Place) (s : State) : Out :=
  let s := s.draw
  match s.taskqs.get [] (8 * die + pri) with
  | [] => .next s
  | t :: ts =>
    let gone := { s with taskqs := s.taskqs.set [] (8 * die + pri) ts }
    match s.image t.ctx t.hnd false with
    | none => .next gone
    | some k =>
      if !s.bindChecks t.ctx k then .next gone
      else
        let higher := (List.range 8).any fun q => decide (q > pri) &&
          (match (s.taskqs.get [] (8 * die + q)).head? with | some h => s.taskReady die h | none => false)
        if dieOf place.core = die ∧ s.placesOk t.ctx k 1 1 [place] ∧ !higher ∧ !s.launchFirst pri t.stamp k place then
          .next (gone.bind ⟨0, t.ctx, t.hnd, t.pri, t.args, 0, t.stamp, none, false, [], []⟩ k [place])
        else .next s

/-! ### TEND and completion (R266, R270) -/

/-- Every far load of the bank has landed (R137). -/
def Bank.farsLanded (b : Bank) : Bool := b.fars.isEmpty

/-- An operation is a suspended stream. -/
def Bank.parked (b : Bank) (xop : Nat) : Bool := b.streams.any fun e => e.2.xop == xop && e.2.susp

/-- Every X operation of the bank has released its tiles, except a suspended stream (R203). -/
def State.xReleased (s : State) (b : Bank) : Bool :=
  (s.cores.get .reset b.core).xops.all fun o => o.bank != b.key || b.parked o.id

/-- Every vector result of the bank has landed (R171). -/
def Bank.vecLanded (b : Bank) : Bool :=
  b.pend.all fun p => match p.loc with | .v .. | .vfl _ => false | _ => true

/-- Every latch update of the bank has landed (R171). -/
def Bank.latchLanded (b : Bank) : Bool :=
  b.contribs.all (·.ql.isNone) && b.pend.all fun p => match p.loc with | .q .. => false | _ => true

/-- Every access of the bank has been performed at .sys but those of a suspended stream, which a TEND abandons (R270). -/
def State.tendSettled (s : State) : Bool :=
  let s := s.modCore s.b.core fun c => { c with xops := c.xops.filter fun o => !(o.bank == s.b.key && s.b.parked o.id) }
  State.settledBefore (s.modB fun b => { b with queues := b.queues.mapVals fun (q : Queue) => { q with
    pkts := q.pkts.filter fun p => match p.kind with
      | .mmas x => !b.parked x
      | _ => true } }) (s.b.iss + 1)

/-- TEND may retire (R270). -/
def State.tendDone (s : State) : Bool :=
  s.b.farsLanded && s.xReleased s.b && s.b.pend.isEmpty && s.b.latchLanded && s.tendSettled &&
    s.tickQ.all fun t => t.bank != s.b.key

/-- The core at which a bank was first bound: banks that share a share have the same (R121). -/
def homeOf (b : Bank) : Nat := b.uid % 2048 / 8

/-- The saved shares of the binding that a bank belongs to are what its slot holds now (R121, R343). -/
def State.syncSaved (s : State) : State :=
  let m := s.slot
  { s with saved := s.saved.map fun e =>
    if e.1.lnch = s.b.lnch ∧ homeOf e.1 = homeOf s.b then (e.1, { m with busy := [], poisonTiles := m.poisonTiles }) else e }

/-- The slots of a die that a launch's binding held are free once no bank of it is bound there (R274). -/
def State.freeSlots (s : State) (lnch die : Nat) : State :=
  if s.bound.any (fun x => x.lnch == lnch && dieOf x.core == die) then s
  else
    let free (m : SlotMem) : SlotMem := if m.owner = some lnch then { m with owner := none } else m
    let one (e : Nat × Core) : Nat × Core :=
      if dieOf e.1 = die then (e.1, { e.2 with a := free e.2.a, b := free e.2.b }) else e
    { s with cores := s.cores.map one }

/-- The bank in focus is unbound: suspended streams release their tiles, its snapshot and grant end, its holds are cleared
(R51, R270, R302, R372). -/
def State.unbind (s : State) : State :=
  let s := (State.thaw (s.modB fun b => { b with fars := [] })).dropStreams.syncSaved
  let k := s.b.key
  let core := s.b.core
  let lnch := s.b.lnch
  State.retarget (core := core) (State.freeSlots (lnch := lnch) (die := dieOf core) { s with
    b := .fresh k
    snaps := List.filter (fun (x : Nat × Snap) => x.2.bank != k) s.snaps
    pwrReqs := s.pwrReqs.filter fun x => x.1 != k
    live := s.live.map fun l => if l.id = s.b.lnch ∧ l.bound then { l with banks := l.banks.filter (· != s.b.uid) } else l })

/-- TEND (R270). -/
def execTend (c : Ctl) (s : State) : Out := .next (s.syl (.tend c) c [] fun s => s.await .tend 0 [])

/-- LAUNCH_COMPLETE: the first launch whose sequencers have all retired TEND completes: the completion add is performed
and its ticket claim is freed, or the next image of its graph takes its place in the queue (R243, R266, R277). -/
def execLaunchComplete (s : State) : Out :=
  let s := s.draw
  match s.live.find? fun l => l.banks.isEmpty with
  | none => .next s
  | some l =>
    let gone := { s with live := s.live.filter fun x => x.id != l.id }
    match l.graph with
    | some (g, _ :: r :: rs) =>
      .next { gone with launchqs := gone.launchqs.upd [] l.pri fun q => { l with graph := some (g, r :: rs), claims := [] } :: q }
    | _ => .next ((gone.complete l.ctx l.compl 1).getD s)

/-! ### Bank switches (R274) -/

/-- The foreground banks of a core's binding on its die: those of the launch that holds the core's foreground slot, though
its own sequencers there may all have ended. -/
def State.foreground (s : State) (core : Nat) : List Bank :=
  let c := s.cores.get .reset core
  s.bound.filter fun y => (c.slot c.fgB).owner == some y.lnch && dieOf y.core == dieOf core &&
    y.slotB == (s.cores.get .reset y.core).fgB

/-- A foreground sequencer stands where a switch may take it (R137, R171, R203, R274), with no region open (R283). -/
def State.switchable (s : State) (b : Bank) : Bool :=
  let now := (s.cores.get .reset b.core).cyc
  let stopped := match b.halted with | some _ => true | none => false
  let blocked := b.forms.any fun f => decide (f.cyc + 1024 ≤ now) && f.kind != .tend && f.kind != .eret
  (b.retiredSwitch || stopped || blocked) && (!b.open_ || blocked || stopped) && b.farsLanded && s.xReleased b && b.vecLanded &&
    b.region.isNone

/-- The cores that a switch of one core takes with it: those of its die on which the foreground binding has sequencers, though
they may all have ended (R274). -/
def State.switched (s : State) (core : Nat) : List Nat :=
  let own (c : Nat) : Option Nat := let x := s.cores.get .reset c; (x.slot x.fgB).owner
  core :: ((List.range 16).map fun i => 16 * dieOf core + i).filter fun c => c != core && (own core).isSome && own c == own core

/-- BANK_SWITCH: the command processor asks for a switch, and when every foreground sequencer of the binding on the die
stands at a place for it the two banks of each of its cores exchange their roles (R274). -/
def execBankSwitch (core : Nat) (s : State) : Out :=
  let fg := s.foreground core
  let cs := s.switched core
  if !(s.cores.get .reset core).switchReq then
    let s := cs.foldl (fun s c => s.modCore c fun x => { x with switchReq := true }) s
    .next (fg.foldl (fun s b => s.modBank b.key fun b => { b with retiredSwitch := false }) s)
  else if fg.all s.switchable then
    let s := cs.foldl (fun s c => s.modCore c fun x => { x with switchReq := false, fgB := !x.fgB }) s
    .next (fg.foldl (fun s b => s.modBank b.key fun b => { b with retiredSwitch := false }) s)
  else .next s

end Sys2Proof.Machine
end

