-- ==== Sys2Proof/Machine/Region.lean ====
section
/-! DEFINITION. Speculative regions, snapshots and transactions (R280 to R309): opening, assumptions, the causes of an
abort and their order, rollback, commit. -/

namespace Sys2Proof.Machine

open Sys2Proof

/-! ### Snapshots (R301, R302, R306, R399) -/

/-- A bank's entry of the snapshot table. -/
def State.snapEntry (s : State) (k : Nat) : Option Nat := (s.snaps.find? fun e => e.2.bank == k && !e.2.ended).map Prod.fst

/-- The table as it counts now: ended entries whose reads are performed are free (R399). -/
def State.snapTable (s : State) : Smap Snap := s.snaps.filter fun e => s.liveSnaps.contains e.2

/-- A snapshot can begin: the bank holds an entry, or one of the 4,096 is free (R302). -/
def State.snapRoom (s : State) : Bool := (s.snapEntry s.b.key).isSome || decide (s.snapTable.length < 4096)

/-- Begins the bank's snapshot at VCTR, in its own entry or the lowest free one (R302, R306). -/
def State.beginSnap (s : State) : State :=
  let t := s.snapTable
  let e := match s.snapEntry s.b.key with
    | some e => e
    | none => ((List.range 4096).find? fun i => (t.find i).isNone).getD 0
  let s := { s with snaps := t.put e ⟨s.b.key, s.b.ctx, s.vctr.toNat, false⟩ }
  s.modB fun b => { b with
    vsnp := .ofNat 64 (2 ^ 63 + s.vctr.toNat)
    rgst := setFld b.rgst 61 61 1 }

/-- Ends the bank's snapshot (R302, R306); its entry counts until earlier reads are performed (R399). -/
def State.endSnap (s : State) : State :=
  let k := s.b.key
  let s := { s with snaps := s.snaps.mapVals fun (x : Snap) => if x.bank = k then { x with ended := true } else x }
  s.modB fun b => { b with vsnp := 0, rgst := setFld b.rgst 61 61 0 }

/-- SNAP (R302). -/
def execSnap (c : Ctl) (s : State) : Out :=
  .next (s.syl (.snap c) c (if s.snapRoom then [] else [s.cause 10 1]) State.beginSnap)

/-- SNAPE (R302, R399). -/
def execSnape (c : Ctl) (s : State) : Out :=
  .next (s.syl (.snape c) c [] fun s => if s.b.vsnp.getLsbD 63 then s.endSnap else s)

/-! ### Opening (R283, R284) -/

/-- Opens a region: the checkpoint is the state before the bundle writes (R283, R284). -/
def State.openRegion (s : State) (txn : Bool) (label : BitVec 56) : State :=
  s.modB fun b => { b with
    region := some ⟨txn, b.rgst.getLsbD 62, b.pc, label, b.ckpt, [], [], [], [], [], b.poison, [], false, [], [], b.iss⟩
    rgst := setFld (setFld b.rgst 63 63 1) 62 62 txn.toNat }

/-- CHK (R283). -/
def execChk (c : Ctl) (off : BitVec 20) (s : State) : Out :=
  .next (s.syl (.chk c off) c [] fun s => s.openRegion false (s.b.rel off))

/-- TXB opens a region with the transaction's snapshot; with the table full the region aborts at the end of the bundle
(R306). -/
def execTxb (c : Ctl) (off : BitVec 20) (s : State) : Out :=
  .next (s.syl (.txb c off) c [] fun s =>
    let room := s.snapRoom
    let s := s.openRegion true (s.b.rel off)
    if room then s.beginSnap else s.abortSync 14 0 0)

/-! ### Assumptions and guards (R290, R291) -/

/-- ABT (R291). -/
def execAbt (c : Ctl) (code : BitVec 8) (s : State) : Out :=
  .next (s.syl (.abt c code) c [] fun s => if s.b.region.isSome then s.abortSync 2 code.toNat 0 else s)

/-- ASRT takes its predicate as a condition (R291). -/
def execAsrt (c : Ctl) (code : BitVec 8) (s : State) : Out :=
  .next (s.syl (.asrt c code) ⟨c.h, 0, false⟩ [] fun s =>
    if s.b.region.isSome && !s.pred c then s.abortSync 1 code.toNat 0 else s)

/-- GCLR frees the guards with effect from the next issue (R290). -/
def execGclr (c : Ctl) (s : State) : Out :=
  .next (s.syl (.gclr c) c [] fun s => s.modB fun b => { b with region := b.region.map fun r => { r with clr := true } })

/-! ### Aborts (R292 to R297) -/

/-- The order of synchronous causes of one bundle (R294). -/
def syncRank : Nat → Nat
  | 7 => 0 | 6 => 1 | 5 => 2 | 4 => 3 | 3 => 4 | 2 => 5 | 1 => 6 | _ => 7

/-- The order of asynchronous causes due at one boundary (R294). -/
def asyncRank : Nat → Nat
  | 12 => 0 | 8 => 1 | 11 => 2 | 13 => 3 | _ => 4

/-- The synchronous abort that a bundle records (R294, R393). -/
def syncAbort (xs : List Abort) : Option Abort :=
  (leastBy (fun a => ((syncRank a.cause * 4 + a.col) * 64 + if a.cause = 3 then a.gix else a.slt) * 8 + a.slt) xs).map fun a =>
    if a.cause = 3 then
      let w := (leastBy (fun x => 8 * x.code + x.slt) (xs.filter fun x => x.cause == 3)).getD a
      { a with code := 0, slt := w.slt }
    else a

/-- The asynchronous abort due at a boundary of the region: its own causes, or a kind-A trap that falls due there (R292,
R294, R354). -/
def Bank.asyncAbort (b : Bank) : Option Abort :=
  match b.region with
  | none => none
  | some r =>
    if b.committing then none
    else
      let traps := match leastBy (fun (c : Cause) => afterRank c.num) b.kindA with
        | some c => [⟨6, c.num, 0, 0, 0⟩]
        | none => ([] : List Abort)
      leastBy (fun a => asyncRank a.cause) (r.async ++ traps)

/-- Cancels X operations: their tiles are no longer busy (R204, R296). -/
def State.cancelX (s : State) (ids : List Nat) : State :=
  let tiles := (s.core.xops.filter fun o => ids.contains o.id).flatMap fun o => Instr.destTiles o.ins ++ Instr.srcTiles o.ins
  let s := s.modSlot fun m => { m with busy := m.busy.filter fun t => !tiles.contains t }
  s.modCore s.b.core fun c => { c with xops := c.xops.filter fun o => !ids.contains o.id }

/-- Copy reads of the region are cancelled: a claimed inbound slot counts as filled, and no counter advances (R297). -/
def Bank.cancelPkts (b : Bank) : Bank :=
  let claims := b.queues.flatMap fun e => (e.2.pkts.filter fun p => p.reg && p.kind == .cpyb && p.slot.isSome && !p.orphan).map
    fun p => (8 * (e.1 / 4) + p.buf, p.slot.getD 0)
  let b := { b with queues := b.queues.map fun e => (e.1, { e.2 with
    pkts := e.2.pkts.filter fun p => !p.reg
    susp := e.2.susp && (b.kfr.get 0 e.1).getLsbD 63 }) }
  claims.foldl (fun b c => b.cbFinish c.1 c.2) b

/-- The bytes that cancelled copy reads have written each hold the old or the new value (R297). -/
def State.spoil (s : State) (r : Region) : State :=
  s.modSlot fun m => { m with share := r.undo.reverse.foldl (fun sh e =>
    if s.pick 2 [297, e.1, e.2.1] = 0 then sh.write e.2.1 e.2.2 else sh) m.share }

/-- The registers of the bank from the checkpoint and the shadows (R285, R296, R392). -/
def Bank.restore (b : Bank) (r : Region) : Bank :=
  let ck := r.ck
  { b with
    sr := ck.sr, ar := ck.ar, fl := ck.fl, lc := ck.lc, li := ck.li, ls := ck.ls, le := ck.le, depth := ck.depth
    q := ck.q, xs := ck.xs, vfl := ck.vfl
    vr := r.vsh.foldl (fun m e => m.set 0 e.1 e.2) b.vr
    poison := r.bads
    pend := (b.pend.filter fun p => !p.reg).filterMap fun p =>
      if p.ckLanes = 0 then none else some { p with val := p.ckVal, lanes := p.ckLanes }
    fars := (b.fars.filter fun f => !f.reg).map fun f => { f with lanes := f.ckLanes }
    contribs := (b.contribs.filter fun c => !c.reg).map fun c => { c with dead := c.ckDead } }

/-- ROLLBACK: an abort of the open region at a bundle's address (R296, R297, R392). A clock that was frozen for a value that is
cancelled goes on (R136). -/
def State.rollback (s : State) (a : Abort) (at_ : BitVec 56) : State :=
  match s.b.region with
  | none => s
  | some r =>
    let s := s.draw
    let k := s.b.key
    let s := (s.spoil r).cancelX ((s.core.xops.filter fun o => o.bank == k && o.reg).map (·.id))
    let s := s.modSlot fun m => { m with
      tiles := r.tsh.foldl (fun t e => t.set tileZero e.1 e.2.1) m.tiles
      poisonTiles := r.tsh.foldl (fun p e => if e.2.2 then e.1 :: p.filter (· != e.1) else p.filter (· != e.1)) m.poisonTiles }
    let s := s.modB fun b =>
      let b := (b.restore r).cancelPkts
      let b := { b with
        streams := b.streams.filter fun e => !e.2.reg
        holds := []
        waitSyl := []
        wx := 0
        forms := []
        barr := none
        open_ := false
        safe := false
        yld := false
        taken := false
        rep := 0
        region := none
        pc := r.label
        npc := r.label
        rgst := .ofNat 64 (pack [(1, 0), (1, r.txn.toNat), (1, rfld b.rgst 61 61), (5, a.cause), (8, a.code), (3, a.slt), (2, a.col),
          (6, a.gix), (5, 0), (32, ((at_ - r.start).toNat / 2) % 2 ^ 32)]) }
      (List.range (8 * b.cols)).foldl (fun b i => b.cbFlag i) b
    let s := ({ s with locks := s.locks.filter fun e => e.2.1 != k } : State).thaw
    if r.txn then s.endSnap else s

/-- The bank stands where an asynchronous abort can take place: at a boundary, or blocked in a form (R292). -/
def Bank.atBoundary (b : Bank) : Bool := !b.open_ || !b.forms.isEmpty || b.barr.isSome || b.halted.isSome

/-- The bundle at whose boundary an abort begins: the blocked one, or the next to issue. -/
def Bank.boundaryPc (b : Bank) : BitVec 56 := if b.open_ then b.pc else b.npc

/-- ASYNC_ABORT: the region aborts at a boundary for an asynchronous cause (R292, R294, R354, R392). -/
def execAsyncAbort (bank : Nat) (s : State) : Out :=
  let s := s.focus bank
  match s.b.asyncAbort with
  | some a => if s.b.atBoundary then .next (s.rollback a s.b.boundaryPc) else .next s
  | none => .next s

/-- CWAIT_TIMEOUT: a CWAIT of an open region that has not retired 4,096 cycles after its issue aborts it (R233, R293). -/
def execCwaitTimeout (bank : Nat) (s : State) : Out :=
  let s := s.focus bank
  let now := s.now
  let late (f : Form) : Bool := match f.kind with
    | .cwait .. => decide (f.cyc + 4096 ≤ now)
    | _ => false
  match (if s.b.committing then none else s.b.region), s.b.forms.find? late with
  | some _, some f => .next (s.rollback ⟨5, 0xF2, 6, f.col, 0⟩ s.b.pc)
  | _, _ => .next s

/-- An error leaves a line of a core's share or one of its tiles poison, which one unspecified (R145, R205, R422). -/
def State.spoilSram (s : State) (core : Nat) (slotB : Bool) : State :=
  s.modCore core fun c => c.modSlot slotB fun m =>
    if s.pick 2 [205, core] = 0 then m.poisonTile (s.pick (max m.tileCount 1) [205, core, 1]) true
    else
      let line := s.pick 131072 [145, core]
      { m with poisonLines := line :: m.poisonLines.filter (· != line) }

/-- SOFT_ERROR: an error in checkpoint, shadow or held state aborts the region, and past the commit's point it poisons what
is still being drained (R292); outside a region it leaves a line or a tile of the bank poison, which its consumers meet
(R421 to R423). -/
def execSoftError (bank : Nat) (s : State) : Out :=
  let s := s.draw.focus bank
  if s.b.region.isNone then .next (if s.b.bound then s.spoilSram s.b.core s.b.slotB else s)
  else if s.b.committing then
    .next (s.modB fun b => { b with region := b.region.map fun r => { r with held := match r.held with
      | h :: hs => { h with bad := true } :: hs
      | [] => [] } })
  else .next (s.modB (·.abortAsync 12 0))

/-! ### Commit (R298) -/

/-- CMT: it commits the open region, as TXC with RD = 0 when TXB opened it; with none open it has no effect (R298). -/
def execCmt (c : Ctl) (s : State) : Out :=
  .next (s.syl (.cmt c) c [] fun s => match s.b.region with
    | none => s
    | some r => s.await (if r.txn then .txc else .cmt) 0 [])

/-- TXC: it commits a transaction; a region that CHK opened commits as by CMT, and s[RD] is then 0, as with none open
(R298, R308). -/
def execTxc (c : Ctl) (rd : BitVec 6) (s : State) : Out :=
  .next (s.syl (.txc c rd) c [] fun s => match s.b.region with
    | none => s.resS rd.toNat 0 1
    | some r => s.await (if r.txn then .txc else .cmt) rd.toNat [0])

/-- Everything that the region issued has landed or released its tiles (R298 step 1). -/
def State.regionLanded (s : State) : Bool :=
  s.b.pend.all (fun p => !p.reg) && s.b.fars.all (fun f => !f.reg) && s.b.contribs.all (fun c => !c.reg || c.ql.isNone) &&
    s.core.xops.all fun o => o.bank != s.b.key || !o.reg

/-- One held-store entry drains: the oldest, the columns of one issue in increasing order (R298 step 2). It is a store of the
cycle in which it drains, and waits for a lock of its bank as any does (R125, R388). -/
def State.drainEntry (s : State) : State :=
  match s.b.region with
  | none => s
  | some r => match leastBy (fun (h : HStore) => 4 * h.iss + h.col) r.held with
    | none => s
    | some h =>
      let same (x : HStore) : Bool :=
        x.iss == h.iss && x.col == h.col && x.slot == h.slot && x.spill == h.spill && x.addr / 64 == h.addr / 64
      let mine := r.held.filter same
      let bad := mine.any (·.bad)
      let twin (x : HStore) : Bool :=
        x.iss == h.iss && x.col == h.col && x.slot == h.slot && x.addr == h.addr + 64 && x.bytes.length == 64
      let whole := h.addr % 128 == 0 && h.bytes.length == 64 && r.held.any twin
      let locs := if h.spill then mine.map fun x => Loc.spill x.col (x.addr / 8) else []
      if !h.spill && mine.any (fun x => s.core.locked s.b.slotB x.addr x.bytes.length true) then s
      else
        let s := s.modB fun b => { b with
          region := some { r with held := r.held.filter fun x => !same x }
          spill := mine.foldl (fun m x => if x.spill then m.set 0 (2048 * x.col + x.addr / 8) (.ofNat 64 (leNat x.bytes)) else m) b.spill
          poison := (if bad then locs else []) ++ b.poison.filter fun l => !locs.contains l }
        if h.spill then s
        else s.modSlot fun m => { m with
          share := mine.foldl (fun sh x => sh.writeN x.addr x.bytes) m.share
          poisonLines := if bad then (h.addr / 128) :: m.poisonLines
            else if whole then m.poisonLines.filter (· != h.addr / 128) else m.poisonLines }

/-- Four held-store entries drain in a cycle (R298). -/
def State.drainFour (s : State) : State := s.drainEntry.drainEntry.drainEntry.drainEntry

/-- The oldest held packet enters its queue, where there is room; it counts as issued now, after all that the commit's bundle
issued (R287, R298 step 3, R398). -/
def State.enqueueHeld (s : State) : State :=
  match s.b.region with
  | none => s
  | some r => match r.pkts with
    | [] => s
    | (col, q, p) :: ps =>
      let k := 4 * col + q
      if (s.b.queues.get .empty k).pkts.length ≥ 16 then s
      else
        let now := s.now
        s.modB fun b => { b with
          iss := b.iss + 1
          region := some { r with pkts := ps }
          queues := b.queues.upd .empty k fun x => { x with pkts := x.pkts ++
            [{ p with reg := false, iss := b.iss + 1, cyc := now, snap := b.snapTs }] } }

/-- The region closes: its checkpoint, shadows and guards are freed, and copy reads it issued go on (R298 step 4). -/
def State.closeRegion (s : State) : State :=
  s.modB fun b => { b with
    region := none
    rgst := setFld (setFld b.rgst 63 63 0) 62 62 ((b.region.map (·.was)).getD false).toNat
    contribs := b.contribs.map fun c => { c with reg := false }
    queues := b.queues.mapVals fun q => { q with pkts := q.pkts.map fun p => { p with reg := false } } }

/-- A form moves on. -/
def State.setPhase (s : State) (f : Form) (n : Nat) (ops : List DWord) : State :=
  s.modB fun b => { b with forms := b.forms.map fun g => if g = f then { g with phase := n, ops := ops } else g }

/-- CMT_COMMIT: a CMT whose region has landed drains its held stores, then enqueues its held packets, and then closes the
region and retires (R298, R299). -/
def execCmtCommit (bank : Nat) (s : State) : Out :=
  let s := s.focus bank
  let isC (f : Form) : Bool := match f.kind with | .cmt => true | _ => false
  match s.b.region, s.b.forms.find? isC with
  | some r, some f =>
    if f.phase = 0 ∧ !(s.regionLanded && s.b.stores.isEmpty) then .next s
    else
      let s := if f.phase = 0 then s.setPhase f 1 f.ops else s
      if !r.held.isEmpty then .next s.drainFour
      else if !r.pkts.isEmpty then .next s.enqueueHeld
      else
        let s := (s.retireForm { f with phase := 1 }).closeRegion
        .next (if f.ops.isEmpty then s else s.resS f.rd 0 1)
  | _, _ => .next s

/-! ### Transactions (R306 to R309) -/

/-- The rows of global memory that a held packet writes: virtual address and bytes. -/
def Pkt.writes (p : Pkt) : List (Nat × Nat) :=
  match p.kind with
  | .cpyOut | .cpyb | .fill | .cred .. => (List.range p.rows).map fun i => (p.va i, p.len)
  | .cpyg => (List.range p.rows).map fun i => (ofInt 64 (p.side p.p1.toNat i), p.len)
  | .gst n => [(p.p0.toNat, n)]
  | _ => []

/-- The lines of a range of bytes, by the address of their first byte in it. -/
def lineStarts (va n : Nat) : List Nat :=
  (List.range ((va % 128 + n + 127) / 128)).map fun i => if i = 0 then va else va / 128 * 128 + 128 * i

/-- A line that a commit writes: its number, whether it is versioned, whether another package holds it. -/
structure WLine where
  line : Nat
  ver  : Bool
  away : Bool
  deriving DecidableEq, Repr

/-- The write set of a transaction, or the first fault: queue, fault and address (R308). -/
def State.writeSet (s : State) : List (Nat × Nat × Pkt) → Except (Nat × WalkFault × Nat) (List WLine)
  | [] => .ok []
  | (col, q, p) :: ps =>
    let rd := match p.kind with | .cred .. => true | _ => false
    let starts := (p.writes.filter fun w => w.2 != 0).flatMap fun w => lineStarts w.1 w.2
    let one (va : Nat) : Except (Nat × WalkFault × Nat) WLine := match s.translate (.k q) true s.b.ctx va rd with
      | .error f => .error (4 * col + q, f, va)
      | .ok l => let pa := s.canon (Leaf.pa l va); .ok ⟨pa / 128, Tlb.ver l, foreign pa⟩
    match starts.mapM one, State.writeSet s ps with
    | .ok xs, .ok ys => .ok (xs ++ ys)
    | .error e, _ => .error e
    | _, .error e => .error e

/-- A held CPYG of a transaction would read another package's memory (R230, R308). -/
def State.readsAway (s : State) (ps : List (Nat × Nat × Pkt)) : Bool :=
  ps.any fun e => e.2.2.kind == .cpyg && (List.range e.2.2.rows).any fun i =>
    e.2.2.len != 0 && (lineStarts (e.2.2.va i) e.2.2.len).any fun va => match s.translate (.k e.2.1) false s.b.ctx va with
      | .ok l => foreign (s.canon (Leaf.pa l va))
      | .error _ => false

/-- Begin timestamps of live snapshots other than the bank's own entry (R308). -/
def State.otherSnaps (s : State) : List Nat :=
  (s.liveSnaps.filter fun x => x.bank != s.b.key || x.ended).map (·.ts)

/-- An old version must be kept for another snapshot (R304, R308). -/
def State.keepsOld (s : State) (ts : Nat) : Bool := s.otherSnaps.any fun t => decide (ts ≤ t)

/-- The write of a commit at timestamp `tc`: a versioned line gains one version, and its old one is kept where the test has
decided so, for the lines of `kept` (R308). A CRED of a poisoned line leaves it, and the bank takes the poison (R232). -/
def txPut (tc : Nat) (kept : List Nat) : CopyWriter := fun s k w =>
  match s.writeLeaf s.b.ctx (.k (k % 4)) w.va w.rd w.conf with
  | .error (e, wr) => .fault e wr w.va
  | .ok l =>
    let pa := Leaf.pa l w.va
    let line := s.canon pa / 128
    if s.portWaits k l w.va then .wait
    else if w.keep ∧ s.gPoison pa then
      .ok (((s.fillTlb l).charge l w.va).modB (·.pendAfter ⟨3, 0, 6, 0, .ofNat 64 w.va, 0, false, .after, false, none⟩))
    else
      let v := s.vers.get ⟨0, []⟩ line
      let bytes := credOver w.cred w.bytes (s.seen pa w.n)
      let s := if Tlb.ver l ∧ v.ts ≠ tc then
          { s with vers := s.vers.put line ⟨tc, if kept.contains line then (v.ts, s.kept line) :: v.old else v.old⟩ }
        else s.unversion l w.va
      let s := (((s.fillTlb l).gPut pa bytes).markDirty l).charge l w.va
      .ok { s with poison := if w.poison then line :: s.poison.filter (· != line)
                             else if w.whole then s.poison.filter (· != line) else s.poison }

/-- One access of a held packet that a commit performs, with the packet after it (R308). -/
def State.install (s : State) (k tc : Nat) (kept : List Nat) (p : Pkt) : Access × Pkt :=
  match p.kind with
  | .gst n => (txPut tc kept s k (p.gstPut n), { p with done := true })
  | _ => (s.granule k p (txPut tc kept), p.advance)

/-- The next held write is performed: one access of the first held packet that has some left; none when all have been
performed (R308). A slot that an outbound buffer does not have yet, or a lock of its bank, is waited for, and before a
release every access that the bank issued before it (R218). -/
def State.installNext (s : State) (tc : Nat) (kept : List Nat) : Option State :=
  match s.b.region with
  | none => none
  | some r =>
    match r.pkts.findIdx? fun e => !e.2.2.done && (match e.2.2.kind with | .csigCounter | .csigAddress => false | _ => true) with
    | none => none
    | some i => match r.pkts[i]? with
      | none => none
      | some (col, q, p) =>
        let k := 4 * col + q
        let keep (s : State) (p : Pkt) : State := s.modB fun b => { b with region := b.region.map fun r => { r with
          pkts := r.pkts.set i (col, q, p) } }
        if (s.b.queues.get .empty k).susp || (p.rel && !s.settledBefore p.iss) then some s
        else match (if p.started then some (s, p) else s.startPkt k p) with
          | none => some s
          | some (s, p) =>
            let leave (s : State) (p : Pkt) : State := let r := s.drained k p; keep r.1 r.2
            if p.done then some (leave s p)
            else match s.install k tc kept p with
              | (.ok s, p) => some (leave s p)
              | (.fault f wr va, _) => some ((keep s p).copyFault k false false f wr va)
              | _ => some (keep s p)

/-- Locks in increasing address order until a line that another commit holds (R308). -/
def State.lockLines (s : State) (ls : List Nat) : State × Bool :=
  let k := s.b.key
  let free := ls.takeWhile fun l => match s.locks.find l with
    | some (o, _) => o == k
    | none => true
  let locks := s.locks.filter fun e => e.2.1 != k
  ({ s with locks := free.foldl (fun m l => m.put l (k, none)) locks }, free.length == ls.length)

/-- Lines in increasing order without repeats. -/
def sortLines (ls : List Nat) : List Nat := (ls.foldl (fun m l => Smap.put m l ()) ([] : Smap Unit)).map Prod.fst

/-- A TXC's waits are over: it translates its write set, locks it, validates and draws its timestamp, or waits for a lock,
or aborts (R308). -/
def State.txcStart (s : State) (f : Form) (r : Region) : State :=
  match s.writeSet r.pkts with
  | .error (k, e, va) => (s.setPhase f 1 f.ops).copyFault k false false e true va
  | .ok ws =>
    let lines := sortLines (ws.map (·.line))
    let ver (l : Nat) : Bool := ws.any fun w => w.line == l && w.ver
    let abort (s : State) (cause : Nat) : State := s.rollback ⟨cause, 0, f.slot, f.col, 0⟩ s.b.pc
    if ws.any (·.away) || s.readsAway r.pkts then abort s 11
    else if lines.length > 2048 then s.rollback ⟨4, 6, f.slot, f.col, 0⟩ s.b.pc
    else
      let (s, all) := s.lockLines lines
      if !all then s.setPhase f 2 f.ops
      else
        let ts (l : Nat) : Nat := (s.vers.get ⟨0, []⟩ l).ts
        let kept := (lines.filter ver).filter fun l => s.keepsOld (ts l)
        if (lines.filter ver).any (fun l => decide (ts l > rfld s.b.vsnp 55 0)) then abort s 9
        else if !s.poolRoom kept.length then abort s 10
        else
          let tc := s.vctr + 1
          let s := { s with vctr := tc, locks := lines.foldl (fun m l => m.put l (s.b.key, some tc.toNat)) s.locks }
          s.setPhase f 3 (tc.setWidth 64 :: kept.map (BitVec.ofNat 64))

/-- TXC_COMMIT: a TXC waits, locks, validates and draws its timestamp; it then drains the held stores, performs the held
writes, unlocks and enqueues the held packets, which signal in their queues' order (R308, R309). -/
def execTxcCommit (bank : Nat) (s : State) : Out :=
  let s := s.draw.focus bank
  let isT (f : Form) : Bool := match f.kind with | .txc => true | _ => false
  match s.b.region, s.b.forms.find? isT with
  | some r, some f =>
    let tc := (f.ops.headD 0).toNat
    if f.phase < 3 then
      if s.b.queues.any (fun e => e.2.susp || !e.2.pkts.isEmpty) || !s.regionLanded || !s.b.stores.isEmpty then .next s
      else .next (s.txcStart f r)
    else if f.phase = 3 then
      if r.held.isEmpty then .next (s.setPhase f 4 f.ops) else .next s.drainFour
    else if f.phase = 4 then
      match s.installNext tc (f.ops.tail.map (·.toNat)) with
      | some s => .next s
      | none =>
        let k := s.b.key
        .next (({ s with locks := s.locks.filter fun e => e.2.1 != k }).setPhase f 5 f.ops)
    else if !r.pkts.isEmpty then .next s.enqueueHeld
    else .next ((((s.retireForm f).endSnap).closeRegion).resS f.rd (.ofNat 64 tc) 1)
  | _, _ => .next s

end Sys2Proof.Machine
end

