-- ==== Sys2Proof/Machine/Save.lean ====
section
/-! DEFINITION. The save record of R343: its fields in order, for a save and for a restore, and pre-emption (R272, R337,
R343), which keeps a bank and its shares in the package. -/

namespace Sys2Proof.Machine

open Sys2Proof

/-! ### The fields of a record (R343) -/

/-- A field of a record: its bytes, its value in a bank, and the bank with it restored. -/
structure Field where
  w   : Nat
  get : Bank → Nat
  put : Bank → Nat → Bank

/-- A field of 8 bytes that a restore reads. -/
def dwField (get : Bank → DWord) (put : Bank → DWord → Bank) : Field :=
  ⟨8, fun b => (get b).toNat, fun b v => put b (.ofNat 64 v)⟩

/-- A register of 8 bytes with reserved bits, which a restore leaves 0 (R5). -/
def maskField (mask : DWord) (get : Bank → DWord) (put : Bank → DWord → Bank) : Field :=
  dwField get fun b v => put b (v &&& mask)

/-- Levels of the loop stack in use: an active level has a count. -/
def openLevels (lc : Smap DWord) : Nat := ((List.range 6).takeWhile fun i => lc.get 0 i != 0).length

/-- A number of `w` bytes that stands for nothing yet: which one the spec leaves open; 0 stands for nothing. -/
def freeWord (ps : List (Nat × Part)) (w : Nat) : Nat :=
  let base := Config.recordPart [ps.length, w]
  (((List.range (ps.length + 1)).map fun i => (base + i) % (256 ^ w - 1) + 1).find? fun n => !ps.any fun e => e.1 == n).getD 1

/-- The numbers with one for a part of `w` bytes: every part has its own (R343). -/
def withPart (ps : List (Nat × Part)) (e : Nat × Part) : List (Nat × Part) :=
  if ps.any fun x => x.2 == e.2 then ps else ps ++ [(freeWord ps e.1, e.2)]

/-- A field whose bytes the record does not lay out: a save stores the number that `ps` gives what the field stands for. A
restore takes up what a save of this package stored the number for; what any other number stands for is open, and `other`
restores it. -/
def partField (ps : List (Nat × Part)) (w : Nat) (get : Bank → Option Part) (put : Bank → Part → Bank)
    (other : Bank → List Nat → Bank) : Field :=
  ⟨w, fun b => (((get b).bind fun p => ps.find? fun e => e.2 == p).map Prod.fst).getD 0,
    fun b v => if v = 0 then b else match ps.find? fun e => e.1 == v with
      | some e => put b e.2
      | none => other b (Config.recordContent v)⟩

/-- The bundle that waits, and what is put aside while a handler runs. -/
def Bank.resting (b : Bank) : Option Part :=
  if !b.open_ && b.wait.isNone && b.aside.isEmpty then none else some (.rest ⟨b.putAside, b.wait, b.aside⟩)

/-- Takes such a bundle up again. -/
def Bank.unrest (b : Bank) : Part → Bank
  | .rest r => { (match r.now with
      | some w => ({ b with wait := some w } : Bank).takeUp
      | none => b) with wait := r.wait, aside := r.aside }
  | _ => b

/-- A blocked form that a restore reads from bytes that no save of this package wrote. -/
def formOf : List Nat → List Form
  | k :: x :: col :: slot :: rd :: ops =>
    let kind : FormKind := match k with
      | 1 => .tkwait (x % 256) | 2 => .tqput (x % 320) | 3 => .tqget (x % 320) | 4 => .tqrel (x % 320) | 5 => .fence (x % 4)
      | 6 => .post (x % 8) | 7 => .launch (x % 8) | 8 => .cwait (x % 16) false | 9 => .drain (x % 5) | _ => .tend
    [⟨kind, col % 4, slot % 8, rd % 64, ops.map fun v => .ofNat 64 v, 0, 0, 0, 0⟩]
  | _ => []

/-- A packet as a queue first holds it. -/
def Pkt.new (kind : PktKind) (p0 p1 : DWord) : Pkt where
  kind := kind
  id := 0
  p0 := p0
  p1 := p1
  p2 := 0
  p3 := 0
  ce := false
  co := 0
  rel := false
  acq := false
  buf := 0
  slot := none
  side0 := none
  orphan := false
  started := false
  row := 0
  pos := 0
  done := false
  lag := 0
  posted := []
  sent := false
  far := none
  snap := none
  iss := 0
  cyc := 0
  reg := false

/-- A pending packet that a restore reads from such bytes. -/
def pktOf : List Nat → List Pkt
  | k :: x :: y :: p0 :: p1 :: p2 :: p3 :: ce :: co :: rel :: row :: pos :: _ =>
    let kind : PktKind := match k with
      | 1 => .cpyIn | 2 => .cpyOut | 3 => .cpyg | 4 => .cpyb | 5 => .fill | 6 => .cred (x % 6) (y % 13) | 8 => .gst (2 ^ (x % 4))
      | 10 => .csigCounter | _ => .csigAddress
    [{ Pkt.new kind (.ofNat 64 p0) (.ofNat 64 p1) with
      p2 := .ofNat 64 p2, p3 := .ofNat 64 p3, ce := bit ce, co := co % 16, rel := bit rel, buf := x % 8, row := row % 65536
      pos := pos % 2 ^ 32 }]
  | _ => []

/-- A suspended stream of a column that a restore reads from such bytes. -/
def streamOf (c : Nat) : List Nat → List Stream
  | t :: qd :: ab :: fa :: fb :: nc :: z :: va :: str :: row :: _ =>
    let width (n : Nat) : Nat := if n % 8 = 7 then 16 else n % 7 + 2
    [⟨c, t % 2048, bit qd, ab % 2 ^ 32, width fa, width fb, nc % 128 + 1, bit z, .ofNat 64 va, .ofNat 64 str, row % 128, true,
      2 ^ 32 + c, none, false, false⟩]
  | _ => []

/-- The bank holds some streams of a column; one that has no packet gets it at the head of its queue (R195). -/
def Bank.restream (b : Bank) (c : Nat) (xs : List Stream) : Bank :=
  xs.foldl (fun b x =>
    let k := 4 * c + 3
    let q := b.queues.get .empty k
    let owned := q.pkts.any fun p => p.kind == PktKind.mmas x.xop
    { b with
      streams := b.streams.put x.xop x
      queues := if owned then b.queues
        else b.queues.put k { q with pkts := { Pkt.new (.mmas x.xop) x.va x.str with started := true } :: q.pkts } }) b

/-- The syllable of a hold as a number of 48 bits (R44, R343). -/
def Hold.word (h : Hold) : Nat :=
  match h.syl with
  | some (.op i) => encode i
  | some (.vec hh idx slide) => pack [(1, hh.toNat), (9, idx.toNat), (6, slide.toNat)]
  | none => 0

/-- An address register of 56 bits (R355). -/
def addrMask : DWord := 0x00FFFFFFFFFFFFFF

/-- The sequencer section (R343); `ps` says what the numbers stand for that a restore finds in the blocked form's place. -/
def seqFields (ps : List (Nat × Part)) : List Field :=
  [⟨8, fun b => b.pc.toNat, fun b v =>
    let a : BitVec 56 := .ofNat 56 v
    { b with pc := a, npc := a, seg := a, flowed := a }⟩] ++
  (List.range 6).flatMap (fun i => [
    ⟨8, fun b => (b.ls.get 0 i).toNat, fun b v => { b with ls := b.ls.set 0 i (.ofNat 56 v) }⟩,
    ⟨8, fun b => (b.le.get 0 i).toNat, fun b v => { b with le := b.le.set 0 i (.ofNat 56 v) }⟩,
    dwField (fun b => b.lc.get 0 i) fun b v =>
      let lc := b.lc.set 0 i v; { b with lc := lc, depth := openLevels lc },
    dwField (fun b => b.li.get 0 i) fun b v => { b with li := b.li.set 0 i v }]) ++
  (List.range 64).map (fun i => dwField (fun b => b.sr.get 0 i) fun b v => { b with sr := b.sr.set 0 i v }) ++
  (List.range 32).map (fun i => ⟨4, fun b => (b.ar.get 0 i).toNat, fun b v => { b with ar := b.ar.set 0 i (.ofNat 32 v) }⟩) ++
  [⟨8, fun b => b.fl.toNat, fun b v => { b with fl := .ofNat 16 v ||| 1 }⟩] ++
  (List.range 15).map (fun i => dwField (fun b => b.gm.get 0 (i + 1)) fun b v => { b with gm := b.gm.set 0 (i + 1) v }) ++
  (List.range 15).map (fun i => ⟨4, fun b => (b.bcn.get 0 (i + 1)).toNat,
    fun b v => { b with bcn := b.bcn.set 0 (i + 1) (.ofNat 32 v) }⟩) ++
  [⟨4, fun _ => 0, fun b _ => b⟩,
    maskField 0xFFFFFFE0FFFFFFFF (·.rgst) fun b v => { b with rgst := v },
    maskField 0x80FFFFFFFFFFFFFF (·.vsnp) fun b v => { b with vsnp := v },
    maskField 0xFF80FF80FF80FF80 (·.trow) fun b v => { b with trow := v },
    partField ps 32 Bank.resting Bank.unrest fun b c => match formOf c with
      | [] => b
      | fs => { b with forms := fs, open_ := true },
    maskField 0x80FFFFFFFFFFFFFE (·.tbr) fun b v => { b with tbr := v },
    maskField addrMask (·.epc) fun b v => { b with epc := v }, maskField addrMask (·.enpc) fun b v => { b with enpc := v },
    maskField 0xFFFFFE00FFFFFFFF (·.esta) fun b v => { b with esta := v },
    maskField addrMask (·.ead) fun b v => { b with ead := v }, dwField (·.edt) fun b v => { b with edt := v },
    maskField 3 (·.eact) fun b v => { b with eact := v }, maskField 0x800000000000FFFF (·.pgr) fun b v => { b with pgr := v },
    ⟨8, fun b => match b.opReq with | some p => 2 ^ 63 + p.toNat | none => 0,
      fun b v => { b with opReq := if v.testBit 63 then some (.ofNat 3 v) else none }⟩,
    ⟨8, fun b => b.wdc, fun b v => { b with wdc := v % 2 ^ 32 }⟩]

/-- The section of a column (R343); `ps` as for `seqFields`. -/
def colFields (ps : List (Nat × Part)) (c : Nat) : List Field :=
  (List.range 8).map (fun i => ⟨4, fun b => (b.xs.get xsReset (8 * c + i)).toNat,
    fun b v => { b with xs := b.xs.set xsReset (8 * c + i) (.ofNat 32 v) }⟩) ++
  (List.range 4).map (fun i => dwField (fun b => b.q.get 0 (4 * c + i)) fun b v => { b with q := b.q.set 0 (4 * c + i) v }) ++
  (List.range 16).map (fun i => maskField 0x80000000FFFFFFFF (fun b => b.cn.get 0 (16 * c + i))
    fun b v => { b with cn := b.cn.set 0 (16 * c + i) v }) ++
  (List.range 4).map (fun i => maskField 0xFCFFFFFFFFFFFFFF (fun b => b.kfr.get 0 (4 * c + i)) fun b v => { b with
    kfr := b.kfr.set 0 (4 * c + i) v
    queues := if v.getLsbD 63 then b.queues.upd .empty (4 * c + i) fun q => { q with susp := true, told := true } else b.queues }) ++
  (List.range 8).flatMap (fun i => [
    maskField cbcMask (fun b => b.cbc.get 0 (8 * c + i)) fun b v => { b with cbc := b.cbc.set 0 (8 * c + i) v },
    maskField 0x3FFFFFFFF (fun b => b.cbs.get 0 (8 * c + i)) fun b v => { b with cbs := b.cbs.set 0 (8 * c + i) v }]) ++
  (List.range 64).map (fun i =>
    let add (b : Bank) (p : Pkt) : Bank :=
      { b with queues := b.queues.upd .empty (4 * c + i / 16) fun q => { q with pkts := q.pkts ++ [p] } }
    partField ps 32 (fun b => ((b.queues.get .empty (4 * c + i / 16)).pkts[i % 16]?).map Part.pkt)
      (fun b x => match x with | .pkt p => add b p | _ => b) fun b x => (pktOf x).foldl add b) ++
  [partField ps 64
    (fun b => match (b.streams.filter fun e => e.2.col == c).map Prod.snd with | [] => none | xs => some (.streams xs))
    (fun b x => match x with | .streams xs => b.restream c xs | _ => b) fun b x => b.restream c (streamOf c x)] ++
  (List.range 8).flatMap (fun i => [
    ⟨8, fun b => let h := b.holds.get ⟨none, false, 0⟩ (8 * c + i); h.word + 2 ^ 63 * h.act.toNat,
      fun b v => if v.testBit 63 then match decodeSlot (slotOf i) (v % 2 ^ (slotOf i).width) with
        | .ok y => { b with holds := b.holds.put (8 * c + i) ⟨some y, true, 0⟩ }
        | .error _ => b
      else b⟩,
    ⟨8, fun b => (b.holds.get ⟨none, false, 0⟩ (8 * c + i)).j,
      fun b v => match b.holds.find (8 * c + i) with
        | some h => { b with holds := b.holds.put (8 * c + i) { h with j := v } }
        | none => b⟩]) ++
  (List.range 2048).map (fun i => dwField (fun b => b.spill.get 0 (2048 * c + i)) fun b v =>
    { b with spill := b.spill.set 0 (2048 * c + i) v })

/-- The section of a cluster with `n` registers (R343). -/
def clFields (cl n : Nat) : List Field :=
  ⟨16, fun b => (b.vfl.get 0 cl).toNat, fun b v => { b with vfl := b.vfl.set 0 cl (.ofNat 80 v) }⟩ ::
  (List.range n).map fun i => ⟨64, fun b => (b.vr.get 0 (2048 * cl + i)).toNat,
    fun b v => { b with vr := b.vr.set 0 (2048 * cl + i) (.ofNat 512 v) }⟩

/-- The VCW section (R343). -/
def vcwFields : List Field :=
  (List.range 512).map fun i => ⟨32, fun b => (b.vcw.get vcwReset i).toNat,
    fun b v => { b with vcw := b.vcw.set vcwReset i (.ofNat 256 v) }⟩

/-- What the fields of a bank's record stand for that R343 does not lay out, with their widths in bytes. -/
def Bank.partsOf (b : Bank) : List (Nat × Part) :=
  b.resting.toList.map (32, ·) ++ b.queues.flatMap (fun e => e.2.pkts.map fun p => (32, Part.pkt p)) ++
    (List.range 4).filterMap fun c => match (b.streams.filter fun e => e.2.col == c).map Prod.snd with
      | [] => none
      | xs => some (64, Part.streams xs)

/-- The bytes of some fields. -/
def Bank.image (b : Bank) (fs : List Field) : List Byte := fs.flatMap fun f => toBytes f.w (f.get b)

/-- A bank with some fields restored from the head of some bytes, and the bytes left. -/
def Bank.load (b : Bank) : List Field → List Byte → Bank × List Byte
  | [], bs => (b, bs)
  | f :: fs, bs => Bank.load (f.put b (leNat (bs.take f.w))) fs (bs.drop f.w)

/-- The vector registers of a cluster of a slot (R16). -/
def SlotMem.vcount (m : SlotMem) : Nat := if fld m.partw.toNat 15 14 = 1 then 1024 else 2048

/-- The shares section of a binding per core (R343). -/
def SlotMem.image (m : SlotMem) : List Byte :=
  toBytes 8 m.partw.toNat ++ Memory.readN m.share 0 (fld m.partw.toNat 5 0 * 524288) ++
    (List.range (fld m.partw.toNat 13 8 * 32)).flatMap fun t => (m.tiles.get tileZero t).flatMap fun w => toBytes 4 w.toNat

/-- A tile from its bytes. -/
def tileOf (bs : List Byte) : List Word := (List.range 4096).map fun i => .ofNat 32 (leNat ((bs.drop (4 * i)).take 4))

/-- A slot's memory from the bytes of a shares section, and the bytes left. -/
def slotOfBytes (bs : List Byte) : SlotMem × List Byte :=
  let w : BitVec 32 := .ofNat 32 (leNat (bs.take 8)) &&& 0xFF3F
  let n := fld w.toNat 5 0 * 524288
  let t := fld w.toNat 13 8 * 32
  let rest := bs.drop (8 + n)
  ({ SlotMem.zero with
      partw := w
      share := Memory.writeN [] 0 ((bs.drop 8).take n)
      tiles := (List.range t).foldl (fun m i => m.set tileZero i (tileOf ((rest.drop (16384 * i)).take 16384))) [] },
    rest.drop (16384 * t))

/-! ### Pre-emption (R272, R337, R339) -/

/-- A far load of another bank, not yet performed, reads the share of the bank in focus (R137). -/
def State.farTarget (s : State) : Bool :=
  s.bound.any fun x => x.lnch == s.b.lnch && x.fars.any fun f => f.core == some s.b.core && f.data.isNone

/-- The bank can be saved: nothing of it is in flight, no far load is on its way to its share, and every packet of a queue
that is not suspended has completed (R137, R272, R339 step 2). -/
def State.saveable (s : State) : Bool :=
  s.b.farsLanded && !s.farTarget && s.xReleased s.b && s.b.pend.isEmpty && s.b.latchLanded && s.b.stores.isEmpty &&
    s.b.queues.all (fun e => e.2.susp || e.2.pkts.isEmpty) && s.b.region.isNone && s.tickQ.all fun t => t.bank != s.b.key

/-- PRE-EMPTION: the bank in focus is saved in the package with its shares, and its place is free (R311, R337, R343). A
stream under suspension keeps its record and gives up its tiles' busy bits. -/
def State.preempt (s : State) : State :=
  let k := s.b.key
  let s := s.syncSaved
  let ids := s.b.streams.map fun e => e.2.xop
  let s := s.cancelX ids
  let b := { s.b with
    preempt := false
    retiredSwitch := false
    lines := []
    other := none
    halted := match s.b.halted with
      | some .gone => none
      | h => h }
  let m := s.slot
  let core := s.b.core
  let lnch := s.b.lnch
  State.retarget (core := core) (State.freeSlots (lnch := lnch) (die := dieOf core) { s with
    saved := s.saved ++ [(b, { m with busy := [] })]
    pwrReqs := s.pwrReqs.filter fun x => x.1 != k
    snaps := s.snaps.mapVals fun (x : Snap) => if x.bank = k then { x with bank := 4096 + b.uid } else x
    b := .fresh k })

/-- The code of FA or FB for a mantissa width (R185). -/
def widthCode (m : Nat) : BitVec 3 := if m = 16 then 7 else .ofNat 3 (m - 2)

/-- The X syllable of a suspended stream. -/
def Stream.syl (x : Stream) : Instr :=
  .mmas ⟨false, 0, false⟩ (.ofNat 11 x.t) x.qd 0 0 (widthCode x.fa) (widthCode x.fb) (.ofNat 7 (x.nc - 1)) x.z

/-- The suspended streams of a bank that has been bound again name their operations and hold their tiles anew (R196). -/
def State.restreams (s : State) (k : Nat) (p : Place) : State :=
  match s.bank? k with
  | none => s
  | some b =>
    let base := (s.cores.get .reset p.core).xser
    let sts := b.streams.map Prod.snd
    let ops : List XOp := sts.zipIdx.map fun e =>
      ⟨base + e.2, k, p.slotB, p.col + e.1.col, e.1.syl, 0, e.1.ab, [], none, none, 0, 0, false, e.1.susp, []⟩
    let ren (old : Nat) : Nat := base + (sts.map (·.xop)).idxOf old
    let s := s.modCore p.core fun c =>
      { c.modSlot p.slotB (fun m => { m with busy := m.busy ++ ops.flatMap fun o => Instr.destTiles o.ins }) with
        xops := c.xops ++ ops, xser := base + ops.length }
    s.modBank k fun b => { b with
      streams := sts.map fun x => (ren x.xop, { x with xop := ren x.xop })
      queues := b.queues.mapVals fun (q : Queue) => { q with pkts := q.pkts.map fun (x : Pkt) =>
        match x.kind with
        | .mmas old => { x with kind := .mmas (ren old) }
        | _ => x } }

/-- The place of a saved bank is one that its context may use, on its die: beside the banks that share its share, or in a
free slot that its partition fits (R312, R337, R425). -/
def State.savedPlaceOk (s : State) (b : Bank) (m : SlotMem) (p : Place) : Bool :=
  let mates := s.bound.filter fun x => x.lnch == b.lnch && homeOf x == homeOf b
  let free := !(s.bound.any fun x => x.key == placeKey p)
  s.mayBind b.ctx p.core && dieOf p.core == homeOf b / 16 && free &&
    (match b.kern with | some k => (seqCols k).contains p.col | none => p.col % modeCols b.mode == 0) &&
    match mates with
    | [] => s.slotFits p.core p.slotB m.partw
    | x :: _ => x.core == p.core && x.slotB == p.slotB

/-- A bank that a record put into a wait, whose bundle the record does not name, stands at the bundle at its program
counter (R252, R343). -/
def State.refind (s : State) (k : Nat) : State :=
  match s.bank? k with
  | none => s
  | some b =>
    if !b.open_ || b.len != 0 then s
    else match (s.focus k).fetch b.pc.toNat with
      | .ok x => s.modBank k fun b => { b with
          len := x.len, fall := (s.focus k).follow (b.pc + .ofNat 56 x.len), safe := x.hdr.safe, yld := x.hdr.yld, live := x.hdr.live }
      | _ => s

/-- SAVED_BANK_BIND: a saved bank of a context in RUN is bound again and resumes at its saved point; it acquires its power
level and records its operating point again first (R337, R342, R343, R367, R370). -/
def execSavedBankBind (idx : Nat) (place : Place) (s : State) : Out :=
  match s.saved[idx]? with
  | none => .next s
  | some (b, m) =>
    if !s.savedPlaceOk b m place then .next s
    else
      let alone := !(s.bound.any fun x => x.lnch == b.lnch && homeOf x == homeOf b)
      let fg := !s.resident place.core (!place.slotB)
      let k := placeKey place
      let s := { s with
        saved := s.saved.eraseIdx idx
        snaps := s.snaps.mapVals fun (x : Snap) => if x.bank = 4096 + b.uid then { x with bank := k } else x
        pwrReqs := s.pwrReqs ++ (if b.pgr.getLsbD 63 then [(k, BitVec.ofNat 16 b.pgr.toNat)] else []) ++
          b.waiting.filterMap fun (f : Form) =>
            if f.kind = FormKind.pwracq then f.ops.head?.map fun (v : DWord) => (k, BitVec.setWidth 16 v) else none }
      let b' := { b with
        key := k
        core := place.core
        col := place.col
        slotB := place.slotB
        issuedCyc := 0
        pgr := setFld b.pgr 63 63 0 }
      let s := s.putBank b'
      let s := s.modCore place.core fun c =>
        if alone then
          { c.modSlot place.slotB (fun _ => { m with owner := some b.lnch }) with fgB := if fg then place.slotB else c.fgB }
        else c
      .next (((s.restreams k place).refind k).retarget place.core)

end Sys2Proof.Machine
end

