-- ==== Sys2Proof/Machine/Context.lean ====
section
/-! DEFINITION. Context instructions and recursive virtualisation (R310 to R347): the tree, grants, budgets, shoot-downs,
trap records and replies, stopping, running, saving, reading. -/

namespace Sys2Proof.Machine

open Sys2Proof

/-! ### Status words and operand checks (R313 to R315) -/

/-- The status word of a form that succeeded (R314). -/
def okStatus (v : Nat) : DWord := .ofNat 64 (v % 2 ^ 48)

/-- The status word of a form that failed (R314). -/
def failStatus (code : Nat) : DWord := .ofNat 64 (2 ^ 63 + code * 2 ^ 48)

/-- The context is a child of the issuing one (R315). -/
def State.childCause (s : State) (n : Nat) : List Cause :=
  match s.ctxs.find n with
  | some x => if n ≠ 0 ∧ x.parent = s.b.ctx then [] else [s.cause 11 1]
  | none => [s.cause 11 1]

/-- The context is a proper descendant of the issuing one (R315). -/
def State.descCause (s : State) (n : Nat) : List Cause :=
  if (s.ctxs.find n).isSome ∧ n ≠ s.b.ctx ∧ s.within s.b.ctx 9 n then [] else [s.cause 11 1]

/-- A FIELD cause where a condition fails (R315). -/
def State.fieldCause (s : State) (ok : Bool) : List Cause := if ok then [] else [s.cause 11 2]

/-- A form waits for the command processor with its operands (R316). -/
def State.awaitCtx (s : State) (i : Instr) (rd : BitVec 6) (ops : List DWord) : State := s.await (.ctx i) rd.toNat ops

/-- The operands of a form of layout G: s[RA] and its group. -/
def State.ctxOps (s : State) (sp : BitVec 4) (ra : BitVec 6) : List DWord :=
  [s.rs ra.toNat, s.grp sp 0, s.grp sp 1, s.grp sp 2, s.grp sp 3]

/-- CTXNEW (R317). -/
def execCtxnew (c : Ctl) (rd ra : BitVec 6) (s : State) : Out :=
  let v := s.rs ra.toNat
  .next (s.syl (.ctxnew c rd ra) c (s.fieldCause (rfld v 63 52 == 0 && rfld v 19 0 == 0)) fun s =>
    s.awaitCtx (.ctxnew c rd ra) rd [s.rs ra.toNat])

/-- CTXDEL (R318). -/
def execCtxdel (c : Ctl) (rd ra : BitVec 6) (s : State) : Out :=
  .next (s.syl (.ctxdel c rd ra) c (s.descCause (s.rs ra.toNat).toNat) fun s =>
    s.awaitCtx (.ctxdel c rd ra) rd [s.rs ra.toNat])

/-- CTXCORE (R320). -/
def execCtxcore (c : Ctl) (sp : BitVec 4) (rd ra : BitVec 6) (s : State) : Out :=
  .next (s.syl (.ctxcore c sp rd ra) c (s.childCause (s.rs ra.toNat).toNat ++
      s.fieldCause (rfld (s.grp sp 2) 63 1 == 0 && s.grp sp 3 == 0)) fun s =>
    s.awaitCtx (.ctxcore c sp rd ra) rd (s.ctxOps sp ra))

/-- CTXMEM (R321). -/
def execCtxmem (c : Ctl) (sp : BitVec 4) (rd ra : BitVec 6) (s : State) : Out :=
  let based (p : DWord) : Bool := rfld p 63 52 == 0 && rfld p 15 0 == 0
  .next (s.syl (.ctxmem c sp rd ra) c (s.childCause (s.rs ra.toNat).toNat ++
      s.fieldCause (based (s.grp sp 0) && based (s.grp sp 1) && rfld (s.grp sp 2) 63 32 == 0 && s.grp sp 2 != 0 &&
        rfld (s.grp sp 3) 53 0 == 0)) fun s =>
    s.awaitCtx (.ctxmem c sp rd ra) rd (s.ctxOps sp ra))

/-- CTXQ (R322). -/
def execCtxq (c : Ctl) (sp : BitVec 4) (rd ra : BitVec 6) (s : State) : Out :=
  .next (s.syl (.ctxq c sp rd ra) c (s.childCause (s.rs ra.toNat).toNat ++
      s.fieldCause (decide (rfld (s.grp sp 0) 63 60 ≤ 1) && rfld (s.grp sp 0) 59 16 == 0 && rfld (s.grp sp 1) 63 32 == 0 &&
        s.grp sp 2 == 0 && s.grp sp 3 == 0)) fun s =>
    s.awaitCtx (.ctxq c sp rd ra) rd (s.ctxOps sp ra))

/-- The fields of a budget hold what R328 allows. -/
def budgetOk (p0 p1 p2 p3 : DWord) : Bool :=
  rfld p0 63 11 == 0 && decide (rfld p0 10 0 ≤ 1024) && rfld p1 62 48 == 0 && rfld p1 31 20 == 0 &&
    (!p1.getLsbD 63 || (decide (1 ≤ rfld p1 47 32) && decide (rfld p1 47 32 ≤ 5000) && decide (rfld p1 47 32 ≤ rfld p1 19 0))) &&
    rfld p2 63 16 == 0 && rfld p2 3 3 == 0 && p3 == 0

/-- CTXBUD (R328). -/
def execCtxbud (c : Ctl) (sp : BitVec 4) (rd ra : BitVec 6) (s : State) : Out :=
  .next (s.syl (.ctxbud c sp rd ra) c (s.childCause (s.rs ra.toNat).toNat ++
      s.fieldCause (budgetOk (s.grp sp 0) (s.grp sp 1) (s.grp sp 2) (s.grp sp 3))) fun s =>
    s.awaitCtx (.ctxbud c sp rd ra) rd (s.ctxOps sp ra))

/-- The checks of CTXRUN: op 0 takes a proper descendant, a reply the context that received the record (R315, R336). -/
def State.runCauses (s : State) (ra rb : BitVec 6) : List Cause :=
  let n := (s.rs ra.toNat).toNat
  let w := s.rs rb.toNat
  (if rfld w 3 0 = 0 then s.descCause n
    else if (if rfld w 3 0 ≤ 3 then n == s.b.ctx else (s.ctxs.find n).isSome) then [] else [s.cause 11 1]) ++
    s.fieldCause (rfld w 47 4 == 0 && decide (rfld w 3 0 ≤ 3))

/-- CTXRUN, op 0: RUN (R342). The operation word says which of the four forms the syllable is. -/
def execCtxrunRun (c : Ctl) (rd ra rb : BitVec 6) (s : State) : Out :=
  .next (s.syl (.ctxrunRun c rd ra rb) c (s.runCauses ra rb) fun s =>
    s.awaitCtx (.ctxrunRun c rd ra rb) rd [s.rs ra.toNat, s.rs rb.toNat])

/-- CTXRUN, op 1: RETRY (R336). -/
def execCtxrunRetry (c : Ctl) (rd ra rb : BitVec 6) (s : State) : Out :=
  .next (s.syl (.ctxrunRetry c rd ra rb) c (s.runCauses ra rb) fun s =>
    s.awaitCtx (.ctxrunRetry c rd ra rb) rd [s.rs ra.toNat, s.rs rb.toNat])

/-- CTXRUN, op 2: REFUSE (R336). -/
def execCtxrunRefuse (c : Ctl) (rd ra rb : BitVec 6) (s : State) : Out :=
  .next (s.syl (.ctxrunRefuse c rd ra rb) c (s.runCauses ra rb) fun s =>
    s.awaitCtx (.ctxrunRefuse c rd ra rb) rd [s.rs ra.toNat, s.rs rb.toNat])

/-- CTXRUN, op 3: SKIP (R336). -/
def execCtxrunSkip (c : Ctl) (rd ra rb : BitVec 6) (s : State) : Out :=
  .next (s.syl (.ctxrunSkip c rd ra rb) c (s.runCauses ra rb) fun s =>
    s.awaitCtx (.ctxrunSkip c rd ra rb) rd [s.rs ra.toNat, s.rs rb.toNat])

/-- An address that a form writes or reads: 64-aligned, of 56 bits. -/
def addr64 (p : DWord) : Bool := rfld p 63 56 == 0 && rfld p 5 0 == 0

/-- CTXSTOP (R338). -/
def execCtxstop (c : Ctl) (sp : BitVec 4) (rd ra : BitVec 6) (s : State) : Out :=
  .next (s.syl (.ctxstop c sp rd ra) c (s.descCause (s.rs ra.toNat).toNat ++
      s.fieldCause (addr64 (s.grp sp 0) && rfld (s.grp sp 1) 63 32 == 0 && s.grp sp 2 == 0 && s.grp sp 3 == 0)) fun s =>
    s.awaitCtx (.ctxstop c sp rd ra) rd (s.ctxOps sp ra))

/-- CTXREV takes a grant whose giver is the issuing context or a descendant (R315, R337). -/
def execCtxrev (c : Ctl) (rd ra : BitVec 6) (s : State) : Out :=
  let bad := match s.grants.find (s.rs ra.toNat).toNat with
    | some g => !s.within s.b.ctx 9 g.giver
    | none => true
  .next (s.syl (.ctxrev c rd ra) c (if bad then [s.cause 11 1] else []) fun s =>
    s.awaitCtx (.ctxrev c rd ra) rd [s.rs ra.toNat])

/-- CTXDLG (R331). -/
def execCtxdlg (c : Ctl) (rd ra rb : BitVec 6) (s : State) : Out :=
  .next (s.syl (.ctxdlg c rd ra rb) c (s.childCause (s.rs ra.toNat).toNat) fun s =>
    s.awaitCtx (.ctxdlg c rd ra rb) rd [s.rs ra.toNat, s.rs rb.toNat])

/-- The checks of CTXSAVE (R315, R343). -/
def State.saveCauses (s : State) (sp : BitVec 4) (ra : BitVec 6) : List Cause :=
  s.descCause (s.rs ra.toNat).toNat ++
    s.fieldCause (addr64 (s.grp sp 0) && rfld (s.grp sp 1) 63 32 == 0 && rfld (s.grp sp 2) 63 1 == 0 && s.grp sp 3 == 0)

/-- CTXSAVE, P2[0] = 0: save (R343). P2 says which of the two forms the syllable is. -/
def execCtxsaveSave (c : Ctl) (sp : BitVec 4) (rd ra : BitVec 6) (s : State) : Out :=
  .next (s.syl (.ctxsaveSave c sp rd ra) c (s.saveCauses sp ra) fun s =>
    s.awaitCtx (.ctxsaveSave c sp rd ra) rd (s.ctxOps sp ra))

/-- CTXSAVE, P2[0] = 1: restore (R343). -/
def execCtxsaveRestore (c : Ctl) (sp : BitVec 4) (rd ra : BitVec 6) (s : State) : Out :=
  .next (s.syl (.ctxsaveRestore c sp rd ra) c (s.saveCauses sp ra) fun s =>
    s.awaitCtx (.ctxsaveRestore c sp rd ra) rd (s.ctxOps sp ra))

/-- SHOOT (R326). -/
def execShoot (c : Ctl) (rd ra rb : BitVec 6) (s : State) : Out :=
  let va := s.rs ra.toNat
  .next (s.syl (.shoot c rd ra rb) c
    (s.fieldCause (rfld va 63 56 == 0 && rfld va 15 0 == 0 && rfld (s.rs rb.toNat) 63 32 == 0)) fun s =>
    s.awaitCtx (.shoot c rd ra rb) rd [s.rs ra.toNat, s.rs rb.toNat])

/-! ### Reading a context (R346, R347) -/

/-- The code of a state (R311). -/
def CtxSt.code : CtxSt → Nat
  | .new => 0 | .run => 1 | .stopping => 2 | .stopped => 3 | .dead => 4

/-- A bank of the context waits for a reply. -/
def State.trapWaits (s : State) (n : Nat) : Bool :=
  (s.bound ++ s.saved.map Prod.fst).any fun b => b.ctx == n && match b.halted with
    | some (.reply _) | some (.fault _) => true
    | _ => false

/-- The STATE word (R347). -/
def State.stateWord (s : State) (n : Nat) : DWord :=
  let x := s.ctx n
  .ofNat 64 (pack [(3, x.st.code), (4, x.depth), (12, x.parent),
    (12, (s.ctxs.filter fun e => e.1 != 0 && e.2.parent == n).length), (1, (s.trapWaits n).toNat), (32, x.rseq.toNat)])

/-- The bucket id in force. -/
def State.bucketId (s : State) (n : Nat) : Nat := let h := s.bucketOf 9 n; if h = 0 then 0 else (s.ctx h).bid

/-- The cores that a context holds, as 128 bits. -/
def State.coreSet (s : State) (n : Nat) : BitVec 128 :=
  if n = 0 then -1
  else s.grants.foldl (fun acc e => match e.2.res with
    | .cores set _ => if e.2.recv == n then acc ||| set else acc
    | _ => acc) 0

/-- An item of a context (R346). -/
def State.ctxItem (s : State) (n item : Nat) : DWord :=
  let x := s.ctx n
  match item with
  | 0 => s.stateWord n
  | 1 => .ofNat 64 (x.g1.toNat * 2 ^ 32 + x.g2.toNat)
  | 2 => x.mask
  | 3 => x.share
  | 4 => setFld x.bucket 62 55 (s.bucketId n)
  | 5 => x.power
  | 6 => (s.coreSet n).extractLsb' 0 64
  | 7 => (s.coreSet n).extractLsb' 64 64
  | _ => x.s1r

/-- CTXRD, with a bound of 6 (R69, R346); until it retires it holds later accesses back (R316). -/
def execCtxrd (c : Ctl) (rd ra rb : BitVec 6) (s : State) : Out :=
  let a := s.rs ra.toNat
  let n := if a.getLsbD 63 then s.b.ctx else a.toNat
  let w := s.rs rb.toNat
  .next (s.syl (.ctxrd c rd ra rb) c
    ((if (s.ctxs.find n).isSome ∧ s.within s.b.ctx 9 n then [] else [s.cause 11 1]) ++
      s.fieldCause (decide (w.toNat ≤ 8) && (!a.getLsbD 63 || rfld a 62 0 == 0))) fun s =>
    (s.resS rd.toNat (s.ctxItem n w.toNat) 6).modB fun b => { b with
      ctxRds := (b.ctxRds.filter fun e => decide (s.now < e.2)) ++ [(b.iss, s.now + 6)] })

/-! ### Shoot-downs (R323, R325 to R327, R413, R414) -/

/-- The ring's tail word, and whether the ring takes one more slot: HEAD counts modulo 2^32 (R413, R414). -/
def State.ringTail (s : State) : Nat × Bool :=
  let tail := s.gNat (rfld s.sdr 51 5 * 32 - 8) 8
  (tail, s.sdr.getLsbD 63 && decide ((tail % 2 ^ 32 + 2 ^ 32 - s.sdh.toNat) % 2 ^ 32 < 2 ^ rfld s.sdr 59 56))

/-- The device reserves the next slot of the ring by an add of 1 to the tail word, and writes an entry there, V with it
(R414). -/
def State.enring (s : State) (q : Shoot) : State × Shoot :=
  let ring := rfld s.sdr 51 5 * 32
  let tail := s.ringTail.1
  let s := s.gPut (ring - 8) (toBytes 8 (tail + 1))
  (s.gPut (ring + 32 * (tail % 2 ^ rfld s.sdr 59 56)) (toBytes 8 (pack [(1, 1), (2, q.stage), (17, 0), (12, q.ctx), (32, 0)]) ++
    toBytes 8 q.base ++ toBytes 8 q.npg ++ toBytes 8 0), { q with slot := some (tail % 2 ^ 32) })

/-- Posts a shoot-down into the ring in memory, behind those that wait for a slot (R325, R414); every core is asked for its
acknowledgement (R361, R362). -/
def State.postShoot (s : State) (stage ctx base npg : Nat) (bank : Option Nat) : State :=
  let other (q : Shoot) : Bool := q.ctx == ctx && q.stage != stage
  let q : Shoot := ⟨stage, ctx, base, npg, s.shoots.any other, none, bank⟩
  let s := { s with shoots := s.shoots.map fun q => if other q then { q with lap := true } else q }
  let s := { s with cores := s.cores.mapVals fun (c : Core) => if c.handler.isNone then { c with handler := some c.cyc } else c }
  let r := if s.ringTail.2 && s.shoots.all (·.slot.isSome) then s.enring q else (s, q)
  { r.1 with shoots := r.1.shoots ++ [r.2] }

/-- A translation is of the pages that a shoot-down names (R325). -/
def Tlb.hit (t : Tlb) (stage ctx base npg : Nat) : Bool :=
  t.ctx == ctx &&
    let p := if stage = 1 then t.page else t.cpage
    npg == 0 || (decide (base / 65536 ≤ p) && decide (p < base / 65536 + npg))

/-- An access translated with the entries that a shoot-down names has been accepted and not performed (R325). -/
def State.shotAt (s : State) (stage ctx base npg : Nat) : Bool :=
  s.bound.any fun b => b.queues.any fun e => e.2.pkts.any fun p => p.posted.any fun w => w.leaf.hit stage ctx base npg

/-- The older versions of pages whose VER has been cleared are discarded with their old translations (R300). -/
def State.unversioned (s : State) (ts : List Tlb) : State :=
  let frames := ts.filterMap fun t => match s.walk1 t.ctx (t.page * 65536) 4 0 (s.s1root t.ctx) with
    | .ok (e, cp) => if t.ver && !e.testBit 54 && cp / 65536 == t.cpage then some (s.canon (t.frame * 65536) / 65536) else none
    | .error _ => none
  { s with vers := s.vers.filter fun e => !frames.contains (e.1 / 512) }

/-- A shoot-down entry is processed: every TLB and nested TLB drops the translations it names, and a change of S1R that
waited for it is over (R323, R325). -/
def State.invalidate (s : State) (stage ctx base npg : Nat) : State :=
  let gone := (s.tlb.filter fun t => t.leaf.hit stage ctx base npg).map (·.leaf)
  let inside (n : Nest) : Bool := n.ctx == ctx &&
    (npg == 0 || (decide (base / 65536 ≤ n.cpage) && decide (n.cpage < base / 65536 + npg)))
  let s := { s with
    tlb := s.tlb.filter fun t => !t.leaf.hit stage ctx base npg
    nests := if stage = 2 then s.nests.filter fun n => !inside n else s.nests }
  let s := s.unversioned gone
  if stage = 1 ∧ npg = 0 then s.modCtx ctx fun c => { c with s1rOld := none } else s

/-- The forms that waited for a change of S1R retire. -/
def State.retireS1r (s : State) (uid : Nat) : State :=
  let f (b : Bank) : Bank := if b.bound && b.uid == uid then
    { b with forms := b.forms.filter fun g => match g.kind with | .s1r => g.phase != 1 | _ => true } else b
  { s with b := f s.b, banks := s.banks.mapVals f }

/-- The reserved bits of an entry of the ring are 0 and its stage is 1 or 2 (R413); one that is malformed names nothing to
invalidate (assumption log, entry 84). -/
def shootOk (e base npg done : Nat) : Bool :=
  fld e 60 44 == 0 && fld e 62 61 != 0 && fld e 62 61 != 3 && fld base 63 56 == 0 && fld base 15 0 == 0 && fld npg 63 32 == 0 &&
    fld done 2 0 == 0

/-- The entry at the head of the ring (R414): at a slot whose V is 0 processing waits. The counter that GEN takes has
incremented with the change itself for an entry of the device (R325; assumption log, entry 49). -/
def State.ringStep (s : State) (retire : State → Shoot → State) : State :=
  let ring := rfld s.sdr 51 5 * 32
  let head := s.sdh.toNat
  let at_ := ring + 32 * (head % 2 ^ rfld s.sdr 59 56)
  let e := s.gNat at_ 8
  let base := s.gNat (at_ + 8) 8
  let npg := s.gNat (at_ + 16) 8
  let done := s.gNat (at_ + 24) 8
  let stage := fld e 62 61
  let ctx := fld e 43 32
  if !e.testBit 63 then s
  else
    let mine := s.shoots.find? fun q => q.slot == some head
    let ok := shootOk e base npg done
    if ok && s.shotAt stage ctx base npg then s
    else
      let s := if mine.isSome || !ok then s
        else s.modCtx ctx fun c => if stage = 1 then { c with g1 := c.g1 + 1 } else { c with g2 := c.g2 + 1 }
      let gen := if stage = 1 then (s.ctx ctx).g1 else (s.ctx ctx).g2
      let s := if ok then s.invalidate stage ctx base npg else s
      let s := s.gPut at_ (toBytes 8 (e % 2 ^ 63 / 2 ^ 32 * 2 ^ 32 + if ok then gen.toNat else 0))
      let s := if done = 0 ∨ !ok then s else s.gPut done (toBytes 8 (s.gNat done 8 + 1))
      let s := { s with sdh := s.sdh + 1, shoots := s.shoots.filter fun q => q.slot != some head }
      match mine with
      | some q => retire s q
      | none => s

/-- SHOOTDOWN_PROCESS: the command processor posts an entry of the device that waited for a slot, or processes the entry at
the ring's head, strictly in slot order (R325, R413, R414). While the ring is disabled the device's entries that are not
in it are processed in their own order (assumption log, entry 84). -/
def execShootdownProcess (s : State) : Out :=
  let retire (s : State) (q : Shoot) : State := match q.bank with
    | some u => if s.shoots.any (fun x => x.bank == some u) then s else s.retireS1r u
    | none => s
  match s.shoots.find? fun q => q.slot.isNone with
  | some q =>
    if !s.sdr.getLsbD 63 then
      if s.shotAt q.stage q.ctx q.base q.npg then .next s
      else .next (retire (({ s with shoots := s.shoots.erase q }).invalidate q.stage q.ctx q.base q.npg) q)
    else if s.ringTail.2 then
      let r := s.enring q
      .next { r.1 with shoots := r.1.shoots.replace q r.2 }
    else .next (s.ringStep retire)
  | none => if s.sdr.getLsbD 63 then .next (s.ringStep retire) else .next s

/-- S1R_WRITE: a write of S1R reaches the register: G1 increments and a shoot-down of all of stage 1 is posted; until it is
processed accesses use the old or the new root (R323). -/
def execS1rWrite (ctx : Nat) (val : BitVec 64) (s : State) : Out :=
  let isS (f : Form) : Bool := match f.kind with | .s1r => f.phase == 0 && f.ops == [val] | _ => false
  let who := s.bound.find? fun b => b.ctx == ctx && b.forms.any isS
  let s := s.modCtx ctx fun c => { c with
    s1r := .ofNat 64 (rfld val 51 20 * 2 ^ 20), s1rOld := some (c.s1rOld.getD c.s1r), g1 := c.g1 + 1 }
  match who with
  | some b =>
    let sent (f : Form) : Form := if isS f then { f with phase := 1 } else f
    .next ((s.modBank b.key fun b => { b with forms := b.forms.map sent }).postShoot 1 ctx 0 0 (some b.uid))
  | none => .next (s.postShoot 1 ctx 0 0 none)

/-- The value of a write of TRR: an LN outside 4 to 12 writes EN = 0 (R334). -/
def trrValue (v : DWord) : DWord :=
  let v := v &&& 0x80FFFFFFFFFFF00F
  if 4 ≤ rfld v 3 0 ∧ rfld v 3 0 ≤ 12 then v else setFld v 63 63 0

/-- TRR_WRITE: a write of the trap ring register takes effect (R334). -/
def execTrrWrite (ctx : Nat) (val : BitVec 64) (s : State) : Out :=
  .next ((s.arrived 0x801 val fun b => b.ctx == ctx).modCtx ctx fun c => { c with trr := trrValue val })

/-! ### Global memory that a form writes (R316) -/

/-- Writes bytes under a context through k0, granule by granule, up to the first fault; the answer counts the bytes. -/
def State.putBytes (s : State) (ctx : Nat) : Nat → Nat → List Byte → State × Nat × Bool
  | 0, _, bs => (s, 0, bs.isEmpty)
  | fuel + 1, va, bs =>
    if bs.isEmpty then (s, 0, true)
    else
      let n := min bs.length (32 - va % 32)
      match s.writeAs ctx okraQ va n false false false false (fun _ => bs.take n) false with
      | .ok s =>
        let r := State.putBytes s ctx fuel (va + n) (bs.drop n)
        (r.1, n + r.2.1, r.2.2)
      | _ => (s, 0, false)

/-- The same for all of some bytes. -/
def State.putAll (s : State) (ctx va : Nat) (bs : List Byte) : State × Nat × Bool := s.putBytes ctx (bs.length / 32 + 2) va bs

/-- A write of some bytes under a context would now wait: for a commit, or at a memory port (R225, R303, R377). -/
def State.putWaits (s : State) (ctx : Nat) : Nat → Nat → List Byte → Bool
  | 0, _, _ => false
  | fuel + 1, va, bs =>
    if bs.isEmpty then false
    else
      let n := min bs.length (32 - va % 32)
      match s.writeAs ctx okraQ va n false false false false (fun _ => bs.take n) false with
      | .ok s => State.putWaits s ctx fuel (va + n) (bs.drop n)
      | .wait => true
      | _ => false

/-- The same for all of some bytes. -/
def State.allWaits (s : State) (ctx va : Nat) (bs : List Byte) : Bool := s.putWaits ctx (bs.length / 32 + 2) va bs

/-- The same two by the command processor (R18, R334, R406). -/
def State.okraPut (s : State) (ctx va : Nat) (bs : List Byte) : State × Nat × Bool :=
  let r := (s.asFirm ctx).putAll ctx va bs
  (s.leaveFirm r.1, r.2)

def State.okraWaits (s : State) (ctx va : Nat) (bs : List Byte) : Bool := (s.asFirm ctx).allWaits ctx va bs

/-- Bytes written under a context with a move that no later write may follow: its waits are part of the move (R344). -/
def State.putNow (s : State) (ctx va : Nat) (bs : List Byte) : State :=
  match s.writeLeaf ctx (.k 0) va false false with
  | .error _ => s
  | .ok l => match (s.fillTlb l).writeVia l va bs with
    | .ok t => t
    | .error _ => s

/-! ### Grants (R319 to R322, R337) -/

/-- A free id of the grant table (R319). -/
def State.freeGrant (s : State) : Option Nat := (List.range 65536).find? fun i => (s.grants.find i).isNone

/-- The lowest-numbered grant that its receiver holds and that satisfies a test. -/
def State.sourceGrant (s : State) (recv : Nat) (f : Res → Bool) : Option Nat :=
  (s.grants.find? fun e => e.2.recv == recv && f e.2.res).map Prod.fst

/-- CTXCORE's effect: a grant id, or the lowest failing code (R314, R320). -/
def State.grantCores (s : State) (giver child : Nat) (set : BitVec 128) (excl : Bool) : State × DWord :=
  let all (f : Nat → Bool) : Bool := (List.range 128).all fun c => !set.getLsbD c || f c
  let lent (c : Nat) : Bool := s.grants.any fun e => e.2.giver == giver && e.2.givesCore c && e.2.isExcl
  let src := s.sourceGrant giver fun r => match r with | .cores x _ => (set &&& x) == set | _ => false
  match s.freeGrant with
  | none => (s, failStatus 3)
  | some id =>
    if !all (fun c => s.holdsCore giver c && !lent c) then (s, failStatus 4)
    else if giver ≠ 0 ∧ src.isNone then (s, failStatus 5)
    else ({ s with grants := s.grants.put id ⟨giver, child, if giver = 0 then none else src, .cores set excl⟩ }, okStatus id)

/-- A range of pages lies in another. -/
def rangeIn (b n rb rn : Nat) : Bool := decide (rb ≤ b) && decide (b + n ≤ rb + rn)

/-- The stage-2 leaf of a page of a context's own space; the root's is the identity (R323). -/
def State.leafAt (s : State) (ctx page : Nat) : Option Leaf2 := (s.stage2 ctx (page * 65536)).map Prod.snd

/-- CTXMEM's effect, before its shoot-down (R321): the giver's pages enter the child's stage 2. -/
def State.grantMem (s : State) (giver child base rbase npg : Nat) (a : DWord) (uid : Nat) : State × DWord × Bool :=
  let rp := a.getLsbD 63
  let wp := a.getLsbD 62
  let conf := a.getLsbD 61
  let em : BitVec 6 := .ofNat 6 (rfld a 60 55)
  let dt := a.getLsbD 54
  let pages := List.range npg
  let held := if giver = 0 then decide (base + npg ≤ 2 ^ 36) else pages.all fun i => (s.leafAt giver (base + i)).isSome
  let src := s.sourceGrant giver fun r => match r with | .mem _ rb n .. => rangeIn base npg rb n | _ => false
  let fits := match src.bind s.grants.find with
    | some g => match g.res with
      | .mem _ _ _ rp' wp' _ em' _ => (!rp || rp') && (!wp || wp') && (em &&& em') == em
      | _ => false
    | none => giver == 0
  match s.freeGrant with
  | none => (s, failStatus 3, false)
  | some id =>
    if !held then (s, failStatus 4, false)
    else if giver ≠ 0 ∧ src.isNone then (s, failStatus 5, false)
    else if rbase + npg > 2 ^ 36 ∨ pages.any fun i => ((s.ctx child).s2.find (rbase + i)).isSome then (s, failStatus 6, false)
    else if !fits ∨ (!conf ∧ pages.any fun i => ((s.leafAt giver (base + i)).map (·.conf)).getD false) then (s, failStatus 7, false)
    else
      let bkt := s.bucketId child
      let leaf (i : Nat) : Leaf2 :=
        ⟨((s.leafAt giver (base + i)).map (·.frame)).getD 0, rp, wp, conf, em, dt, false, bkt, id⟩
      let s := s.modCtx child fun c => { c with
        s2 := pages.foldl (fun m i => m.put (rbase + i) (leaf i)) c.s2, g2 := c.g2 + 1 }
      let g : Grant := ⟨giver, child, if giver = 0 then none else src, .mem base rbase npg rp wp conf em dt⟩
      let s := { s with grants := s.grants.put id g }
      (s.postShoot 2 child (rbase * 65536) npg (some uid), okStatus id, true)

/-- The key of a queue in the holders' table. -/
def queueKey (kind n : Nat) : Nat := if kind = 0 then n else 65536 + n

/-- The number of queues of a kind (R246, R322, R403). -/
def queueCount (kind : Nat) : Nat := if kind = 0 then 320 else 1024

/-- CTXQ's effect (R322). -/
def State.grantQueues (s : State) (giver child kind first count : Nat) : State × DWord :=
  let all := (List.range count).all fun i => decide (first + i < queueCount kind) && s.qOwner.get 0 (queueKey kind (first + i)) == giver
  let src := s.sourceGrant giver fun r => match r with
    | .queues k f n => k == kind && decide (f ≤ first) && decide (first < f + n)
    | _ => false
  match s.freeGrant with
  | none => (s, failStatus 3)
  | some id =>
    if !all then (s, failStatus 4)
    else ({ s with
      qOwner := (List.range count).foldl (fun m i => m.set 0 (queueKey kind (first + i)) child) s.qOwner
      grants := s.grants.put id ⟨giver, child, if giver = 0 then none else src, .queues kind first count⟩ }, okStatus id)

/-- The source chain of a grant reaches `g` (R319). -/
def State.derived (s : State) (g : Nat) : Nat → Nat → Bool
  | 0, d => d == g
  | fuel + 1, d => d == g || match (s.grants.find d).bind (·.src) with
    | some x => s.derived g fuel x
    | none => false

/-- Banks of a context and its descendants that are bound on some cores, by uid (R337). -/
def State.banksOn (s : State) (recv : Nat) (set : BitVec 128) : List Nat :=
  (s.bound.filter fun b => set.getLsbD b.core && s.within recv 9 b.ctx).map (·.uid)

/-- Marks banks for pre-emption at their next safe point; their regions abort with EXT (R337). -/
def State.mark (s : State) (uids : List Nat) : State :=
  let f (b : Bank) : Bank := if b.bound && uids.contains b.uid then { b.abortAsync 13 0 with preempt := true } else b
  { s with b := f s.b, banks := s.banks.mapVals f }

/-- One grant is removed, and its resource returns to its giver (R337); the answer lists the banks it marked. -/
def State.removeGrant (s : State) (id : Nat) (uid : Nat) : State × List Nat :=
  match s.grants.find id with
  | none => (s, [])
  | some g =>
    let s := { s with grants := s.grants.del id }
    match g.res with
    | .mem _ rbase npg .. =>
      let s := s.modCtx g.recv fun c => { c with s2 := c.s2.filter fun e => e.2.grant != id, g2 := c.g2 + 1 }
      (s.postShoot 2 g.recv (rbase * 65536) npg (some uid), [])
    | .cores set _ => let us := s.banksOn g.recv set; (s.mark us, us)
    | .queues kind first count =>
      let ks := List.range count
      let s := { s with qOwner := ks.foldl (fun m i => m.set 0 (queueKey kind (first + i)) g.giver) s.qOwner }
      (if kind = 0 then ks.foldl (fun s i => s.expelWaiters (first + i) 1) s else s, [])

/-- A grant and every grant derived from it, the deepest receivers first (R337). -/
def State.lineage (s : State) (g : Nat) : List Nat :=
  let ds := (s.grants.filter fun e => s.derived g 9 e.1).map fun e => (e.1, (s.ctx e.2.recv).depth)
  (List.range 9).reverse.flatMap fun d => (ds.filter fun e => e.2 == d).map Prod.fst

/-- Removes several grants. -/
def State.removeGrants (s : State) (ids : List Nat) (uid : Nat) : State × List Nat :=
  ids.foldl (fun r id => let x := r.1.removeGrant id uid; (x.1, r.2 ++ x.2)) (s, [])

/-! ### Budgets (R328, R329) -/

/-- The bucket of a context with one of its own is nested: the giver's bucket is not the root's (R329). -/
def State.nested (s : State) (n : Nat) : Bool := n != 0 && s.bucketOf 9 (s.ctx n).parent != 0

/-- A free bucket id (R329). -/
def State.freeBucket (s : State) : Option Nat :=
  (List.range 255).findSome? fun i => if s.ctxs.any fun e => e.2.bucket.getLsbD 63 && e.2.bid == i + 1 then none else some (i + 1)

/-- A field capped. -/
def capFld (r : DWord) (hi lo m : Nat) : DWord := if rfld r hi lo > m then setFld r hi lo m else r

/-- The descendants' budgets are clamped to a context's (R328). -/
def State.clamp (s : State) (n : Nat) : State :=
  let x := s.ctx n
  let h := s.bucketOf 9 n
  let bw := (s.ctx h).bucket
  { s with ctxs := List.map (fun (e : Nat × Ctx) =>
    if e.1 ≠ n ∧ s.within n 9 e.1 then
      let c := e.2
      (e.1, { c with
        share := capFld c.share 10 0 (rfld x.share 10 0)
        power := capFld (capFld c.power 15 4 (rfld x.power 15 4)) 2 0 (rfld x.power 2 0)
        bucket := if h = 0 then c.bucket else capFld (capFld c.bucket 47 32 (rfld bw 47 32)) 19 0 (rfld bw 19 0) })
    else e) s.ctxs }

/-- The stage-2 entries of the context, and of the descendants that share its bucket, take the bucket id in force (R329). -/
def State.rebucket (s : State) (n uid : Nat) : State :=
  let h := s.bucketOf 9 n
  let ns := (s.ctxs.filter fun e => s.within n 9 e.1 && s.bucketOf 9 e.1 == h).map Prod.fst
  ns.foldl (fun s k =>
    let id := s.bucketId k
    let s := s.modCtx k fun c => { c with s2 := c.s2.mapVals fun l => { l with bkt := id }, g2 := c.g2 + 1 }
    s.postShoot 2 k 0 0 (some uid)) s

/-- CTXBUD's effect (R328, R329); a core whose banks' OPMAX has changed gets a new target (R367). -/
def State.setBudget (s : State) (giver child : Nat) (p0 p1 p2 : DWord) (uid : Nat) : State × DWord × Bool :=
  let g := s.ctx giver
  let x := s.ctx child
  let en := p1.getLsbD 63
  let was := x.bucket.getLsbD 63
  let h := s.bucketOf 9 giver
  let gb := (s.ctx h).bucket
  let ovr := decide (rfld p0 10 0 > rfld g.share 10 0) || decide (rfld p2 15 4 > rfld g.power 15 4) ||
    decide (rfld p2 2 0 > rfld g.power 2 0) ||
    (en && h != 0 && (decide (rfld p1 47 32 > rfld gb 47 32) || decide (rfld p1 19 0 > rfld gb 19 0)))
  let kids := s.ctxs.any fun e => e.1 != child && s.within child 9 e.1 && e.2.bucket.getLsbD 63 &&
    s.bucketOf 9 e.2.parent == child
  if ovr then (s, failStatus 7, false)
  else if was ∧ !en ∧ kids then (s, failStatus 8, false)
  else if en ∧ !was ∧ s.freeBucket.isNone then (s, failStatus 9, false)
  else if en ∧ !was ∧ h ≠ 0 ∧ s.nested h then (s, failStatus 10, false)
  else
    let id := if en then (if was then x.bid else s.freeBucket.getD 0) else 0
    let s := s.modCtx child fun c => { c with share := p0, bucket := if en then p1 else 0, power := p2, bid := id }
    let s := s.clamp child
    let s := ((s.bound.map (·.core)).eraseDups).foldl (fun s c => s.retarget c) s
    if en = was then (s, okStatus 0, false) else (s.rebucket child uid, okStatus 0, true)

/-- BUCKET_REFILL: every bucket gains RATE granules at each of the 128 controllers, up to BURST (R8, R329). -/
def execBucketRefill (s : State) : Out :=
  let fill (m : Smap Nat) (e : Nat × Ctx) : Smap Nat :=
    if e.2.bucket.getLsbD 63 then (List.range 128).foldl (fun m c =>
      let k := 256 * c + e.2.bid
      m.put k (min (rfld e.2.bucket 19 0) (m.get 0 k + rfld e.2.bucket 47 32))) m
    else m
  .next { s with tokens := s.ctxs.foldl fill s.tokens }

/-- SHARE_WINDOW_SWITCH: a context whose resident time on a sequencer of the core has reached its share of the window is to
be switched away when another context has work for that sequencer (R330). -/
def execShareWindowSwitch (ctx core : Nat) (s : State) : Out :=
  let used (seq : Nat) : Nat :=
    ((s.windows.filter fun e => e.1 / 4096 == seq && s.within ctx 9 (e.1 % 4096)).map Prod.snd).foldl (· + ·) 0
  let limit := rfld (s.ctx ctx).share 10 0 * 1000000 / 1024
  let fg := s.foreground core
  let meets (x y : Bank) : Bool := decide (x.col < y.col + y.cols) && decide (y.col < x.col + x.cols)
  let other (b : Bank) : Bool := s.bound.any fun x => x.core == core && x.slotB != b.slotB && !s.within ctx 9 x.ctx && meets x b
  let mine := fg.any fun b => b.core == core && s.within ctx 9 b.ctx && decide (limit ≤ used b.seq) && other b
  if mine ∧ !(s.cores.get .reset core).switchReq then execBankSwitch core s else .next s

/-! ### Trap records and replies (R331 to R336) -/

/-- The context to whose ring a record goes now: past one that is disabled, but for the root's (R332). -/
def State.holderNow (s : State) (r : Rec) : Nat :=
  if r.holder = 0 ∨ (s.ctx r.holder).trr.getLsbD 63 then r.holder else s.claimer r.cause.num 9 (s.ctx r.holder).parent

/-- A context's ring is enabled and has room (R334). -/
def Ctx.ringRoom (c : Ctx) : Bool :=
  c.trr.getLsbD 63 && decide ((c.trt - c.trh).toNat < 2 ^ rfld c.trr 3 0)

/-- A TID that none of a context's records has (R335). -/
def State.freeTid (s : State) (h : Nat) : Nat :=
  let used := (s.recs.filter fun r => r.written && r.holder == h).map (·.tid)
  let t := (s.ctx h).tid
  (((List.range (used.length + 1)).map fun i => (t + i) % 65536).find? fun x => !used.contains x).getD t

/-- The bytes of a record (R335). -/
def Rec.bytes (r : Rec) (tid : Nat) : List Byte :=
  toBytes 8 (pack [(16, tid), (8, r.cause.num), (12, r.ctx), (10, r.bank / 2), (1, r.bank % 2), (1, r.cause.rfl.toNat), (16, 0)]) ++
    toBytes 8 r.pc.toNat ++ toBytes 8 r.cause.ead.toNat ++ toBytes 8 r.cause.edt.toNat ++
    toBytes 8 (r.g1.toNat * 2 ^ 32 + r.g2.toNat) ++ toBytes 24 0

/-- TRAP_RECORD_WRITE: the oldest record whose ring has room is written and its doorbell rung, once nothing holds these
accesses up; a fault of these accesses
disables the ring, and the record goes further up (R332 to R335). -/
def execTrapRecordWrite (s : State) : Out :=
  let s := s.draw
  match s.recs.find? fun r => !r.written && (s.ctx (s.holderNow r)).ringRoom with
  | none => .next s
  | some r =>
    let h := s.holderNow r
    let x := s.ctx h
    let tid := s.freeTid h
    let n := 2 ^ rfld x.trr 3 0
    let base := rfld x.trr 55 12 * 4096
    let at_ := base + 64 * (x.trt.toNat % n)
    let w := s.okraPut h at_ (r.bytes tid)
    let bell := if w.2.2 then w.1.okraAdd h (base + 64 * n) 1 else .wait
    let rang := match bell with | .ok _ => true | _ => false
    let waits := s.okraWaits h at_ (r.bytes tid) || (w.2.2 && match bell with | .wait => true | _ => false)
    if waits then .next s
    else if w.2.2 && rang then
      let s := match bell with | .ok t => t | _ => s
      .next { s.modCtx h fun c => { c with trt := c.trt + 1, tid := (tid + 1) % 65536 } with
        recs := s.recs.map fun q => if q = r then { q with written := true, tid := tid, holder := h } else q }
    else
      let junk := (List.range 64).map fun i => BitVec.ofNat 8 (s.undef 8 [334, i])
      let s := (s.okraPut h at_ junk).1
      let s := s.modCtx h fun c => { c with trr := setFld c.trr 63 63 0 }
      let up := if h = 0 then 0 else s.claimer r.cause.num 9 x.parent
      .next { s with recs := s.recs.map fun q => if q = r then { q with holder := up } else q }

/-- A reply reaches the bank in focus (R196, R228, R229, R336). -/
def State.applyReply (s : State) (r : Rec) (act : Nat) : State :=
  let c := r.cause
  let refuse (s : State) : State :=
    if c.rfl then (s.stopCtx r.ctx).modB fun b => { b with halted := some .gone } else s.refuseFault c
  match s.b.halted with
  | some (.reply _) =>
    if r.waits then
      s.resume c act s.b.pc (if c.kind = .after ∨ s.b.len = 0 then 0 else s.b.fall) s.b.wx false
    else if act = 0 then s.modB (·.resolve c) else s.refuseFault c
  | some (.fault d) =>
    let s := if r.waits || (d.edt == c.edt && d.num == c.num) then s.modB fun b => { b with halted := none, wdc := 0 } else s
    (if act = 0 then s.modB (·.resolve c) else refuse s).modB Bank.stopAgain
  | _ => if act = 0 then s.modB (·.resolve c) else refuse s

/-- A reply to a record: RETRY 0, REFUSE 1, SKIP 2; none when the context awaits no reply under this TID (R336, R391). -/
def State.reply (s : State) (holder tid act : Nat) : Option State :=
  match s.recs.find? fun r => r.written && r.holder == holder && r.tid == tid with
  | none => none
  | some r =>
    let s := { s with recs := s.recs.erase r }
    let here := s.b.key
    match s.bound.find? fun b => b.uid == r.uid && b.ctx == r.ctx && r.uid != 0 with
    | some b => some (((s.focus b.key).applyReply r act).focus here)
    | none => match s.saved.find? fun e => e.1.uid == r.uid && e.1.ctx == r.ctx && r.uid != 0 with
      | some e =>
        let t := State.applyReply { s with b := e.1, banks := s.banks.put here s.b } r act
        let b' := match t.b.halted with
          | some .gone => { t.b with halted := none }
          | _ => t.b
        some { t with
          b := (t.banks.find here).getD s.b
          banks := t.banks.del here
          saved := t.saved.map fun x => if x = e then (b', e.2) else x }
      | none => some (if (r.cause.rfl || !isFault r.cause.num) && act != 0 then s.stopCtx r.ctx else s)

/-! ### Ending a bank at once (R344, R345, R365) -/

/-- The bank in focus ends where it stands: what it has in flight is discarded, and its tiles are released. -/
def State.kill (s : State) : State :=
  let k := s.b.key
  let s := s.cancelX ((s.core.xops.filter fun o => o.bank == k).map (·.id))
  State.unbind { s with locks := s.locks.filter fun e => e.2.1 != k, tickQ := s.tickQ.filter fun t => t.bank != k }

/-- Every bound bank of some contexts ends at once. -/
def State.killAll (s : State) (mine : Nat → Bool) : State :=
  let here := s.b.key
  (((s.bound.filter fun b => mine b.ctx).map (·.key)).foldl (fun s k => (s.focus k).kill) s).focus here

/-- The work of some contexts that waits in queues or is saved is discarded. -/
def State.discard (s : State) (mine : Nat → Bool) : State :=
  { s with
    live := s.live.filter fun l => !mine l.ctx
    saved := s.saved.filter fun e => !mine e.1.ctx
    launchqs := s.launchqs.mapVals fun (q : List Launch) => q.filter fun l => !mine l.ctx
    taskqs := s.taskqs.mapVals fun (q : List Task) => q.filter fun t => !mine t.ctx
    snaps := s.snaps.filter fun e => !mine e.2.ctx
    recs := s.recs.filter fun r => !mine r.ctx }

/-! ### The forms as the command processor performs them (R316) -/

/-- A form retires with its status word. -/
def State.finish (s : State) (f : Form) (st : DWord) : State := (s.retireForm f).resS f.rd st 1

/-- A form waits for the shoot-downs it has posted and for the banks it has marked; its status is settled. -/
def State.waitShoots (s : State) (f : Form) (st : DWord) (uids : List Nat) : State :=
  s.setPhase f 1 (st :: uids.map fun u => .ofNat 64 u)

/-- CTXNEW's effect (R317). -/
def State.newCtx (s : State) (root : DWord) : State × DWord :=
  match (List.range 4096).find? fun n => (s.ctxs.find n).isNone with
  | none => (s, failStatus 1)
  | some n =>
    let d := (s.ctx s.b.ctx).depth
    if d ≥ 8 then (s, failStatus 2)
    else ({ s with ctxs := s.ctxs.put n (Ctx.new s.b.ctx (d + 1) root) }, okStatus n)

/-- CTXDEL's effect (R318). -/
def State.delCtx (s : State) (n uid : Nat) : State × DWord × Bool :=
  let st := (s.ctx n).st
  if st = .run ∨ st = .stopping then (s, failStatus 8, false)
  else
    let mine (k : Nat) : Bool := s.within n 9 k
    let gone := (List.range 9).reverse.flatMap fun d => (s.grants.filter fun e =>
      mine e.2.recv && (s.ctx e.2.recv).depth == d).map Prod.fst
    let s := (s.killAll mine).discard mine
    let r := s.removeGrants gone uid
    let s := r.1
    ({ s with
      ctxs := s.ctxs.filter fun e => !mine e.1
      objs := s.objs.filter fun e => !mine e.2.ctx
      graphs := s.graphs.filter fun e => !mine e.2.ctx
      tlb := s.tlb.filter fun t => !mine t.leaf.ctx
      nests := s.nests.filter fun n => !mine n.ctx }, okStatus 0, true)

/-- CTXRUN op 0 (R342). -/
def State.runCtx (s : State) (n : Nat) : State × DWord :=
  let st := (s.ctx n).st
  if st ≠ .new ∧ st ≠ .stopped then (s, failStatus 8)
  else ({ s with ctxs := List.map (fun (e : Nat × Ctx) =>
    if s.within n 9 e.1 ∧ (e.2.st = .new ∨ e.2.st = .stopped) then (e.1, { e.2 with st := CtxSt.run }) else e) s.ctxs }, okStatus 0)

/-- No bank of the subtree is bound any more (R339 step 2). -/
def State.allSaved (s : State) (n : Nat) : Bool := s.bound.all fun b => !s.within n 9 b.ctx

/-- The subtree is STOPPED (R339 step 4). -/
def State.stopped (s : State) (n : Nat) : State :=
  { s with ctxs := List.map (fun (e : Nat × Ctx) =>
    if s.within n 9 e.1 ∧ e.2.st = .stopping then (e.1, { e.2 with st := CtxSt.stopped }) else e) s.ctxs }

/-- The report of a CTXSTOP (R341): the header and then the dirty pages; each listed page's D clears. None while its writes
wait. -/
def State.reportDirty (s : State) (n va cap : Nat) : Option (State × DWord) :=
  let x := s.ctx n
  let dirty := (x.s2.filter fun e => e.2.dt && e.2.d).map Prod.fst
  let listed := dirty.take cap
  let seq := x.rseq + 1
  let head := toBytes 8 seq.toNat ++ toBytes 8 listed.length ++ toBytes 8 (decide (dirty.length > cap)).toNat ++ toBytes 8 n ++ toBytes 32 0
  let bs := head ++ listed.flatMap fun p => toBytes 8 (p * 65536)
  let w := s.putAll s.b.ctx va bs
  let waits := s.allWaits s.b.ctx va bs
  let done := listed.take ((w.2.1 - 64) / 8)
  let s := w.1.modCtx n fun c => { c with
    rseq := seq
    s2 := List.map (fun (e : Nat × Leaf2) => if done.contains e.1 then (e.1, { e.2 with d := false }) else e) c.s2 }
  if waits then none else some (s, if w.2.2 then okStatus seq.toNat else failStatus 11)

/-! ### CTXSAVE (R343) -/

/-- The ISA version of the device (R9, R69): major 1, minor 0. -/
def isaVersion : Nat := 0x10000

/-- The header of a record, of `len` bytes in all. -/
def State.saveHeader (s : State) (n len valid count : Nat) : List Byte :=
  let x := s.ctx n
  toBytes 8 isaVersion ++ toBytes 8 len ++ toBytes 8 valid ++ toBytes 32 s.feat.toNat ++ toBytes 8 (s.stateWord n).toNat ++
    toBytes 8 (x.g1.toNat * 2 ^ 32 + x.g2.toNat) ++ toBytes 8 x.share.toNat ++ toBytes 8 x.bucket.toNat ++
    toBytes 8 x.power.toNat ++ toBytes 8 count ++ toBytes 152 0

/-- The sections of a record after its header, in order. -/
def State.saveSections (s : State) (n : Nat) : List (List Byte) :=
  let bs := s.saved.filter fun e => e.1.ctx == n
  let per (f : Bank × SlotMem → List (List Byte)) : List (List Byte) := bs.flatMap f
  let shares := (bs.map fun e => (e.1.lnch, homeOf e.1)).eraseDups
  per (fun e => [e.1.image (seqFields s.parts)]) ++
    per (fun e => (List.range e.1.cols).map fun c => e.1.image (colFields s.parts c)) ++
    per (fun e => (List.range (2 * e.1.cols)).map fun c => e.1.image (clFields c e.2.vcount)) ++
    per (fun e => [e.1.image vcwFields]) ++
    shares.filterMap fun h => (bs.find? fun e => (e.1.lnch, homeOf e.1) == h).map fun e => e.2.image

/-- A kernel of the context whose saved bank a record may hold: the record does not name it, so it is unspecified. -/
def State.anyKern (s : State) (n i : Nat) : Option Kern :=
  let ks := (s.objs.filter fun e => e.2.ctx == n).flatMap fun e => e.2.kernels
  if ks.isEmpty then none else ks[s.pick ks.length [343, i]]?

/-- The bank that a restore starts from: what the record does not hold is free. -/
def State.restoredBank (s : State) (n id i : Nat) : Bank :=
  let k := s.anyKern n i
  let mode := match k with
    | some k => k.mode
    | none => match s.pick 3 [344, i] with | 0 => .whole | 1 => .half | _ => .quarter
  { Bank.fresh 0 with bound := true, uid := uidOf id (8 * (i % 16)), ctx := n, lnch := id, kern := k, mode := mode
                      pri := s.pick 8 [345, i], cIdx := i }

/-- Loads one section of every bank in turn. -/
def loadEach (fs : Bank → List Field) : List Bank → List Byte → List Bank × List Byte
  | [], bs => ([], bs)
  | b :: rest, bs =>
    let x := b.load (fs b) bs
    let r := loadEach fs rest x.2
    (x.1 :: r.1, r.2)

/-- A restored bank goes on after every issue that its record names (R218, R400). -/
def Bank.reissue (b : Bank) : Bank :=
  { b with iss := (b.waiting.map (·.iss) ++ b.queues.flatMap fun e => e.2.pkts.map (·.iss)).foldl max b.iss + 1 }

/-- The shares at the end of a record, one after another while bytes are left. -/
def loadShares : Nat → List Byte → List SlotMem
  | 0, _ => []
  | k + 1, bs => if bs.isEmpty then [] else let x := slotOfBytes bs; x.1 :: loadShares k x.2

/-- A restore's effect: the record's banks become the saved banks of the target, which is STOPPED; none while its reads
wait (R311, R343). -/
def State.restore (s : State) (col n va : Nat) : Option (State × DWord) :=
  if (s.ctx n).st ≠ .new ∨ s.ctxs.any (fun e => e.1 != n && s.within n 9 e.1) then some (s, failStatus 8)
  else match s.getAll (4 * col) s.b.snapTs va 256 with
  | .error none => none
  | .error (some _) => some (s, failStatus 11)
  | .ok (s, h) =>
    let at_ (o k : Nat) : Nat := leNat ((h.drop o).take k)
    let fmt := at_ 0 8
    if at_ 16 8 ≠ 1 ∨ fld fmt 31 16 ≠ fld isaVersion 31 16 ∨ fld fmt 15 0 > fld isaVersion 15 0 ∨ at_ 24 32 ≠ s.feat.toNat
    then some (s, failStatus 8)
    else match s.getAll (4 * col) s.b.snapTs (va + 256) (at_ 8 8 - 256) with
      | .error none => none
      | .error (some _) => some (s, failStatus 11)
      | .ok (s, body) =>
        let count := at_ 96 8
        let id := s.launchNo
        let bs := (List.range count).map (s.restoredBank n id)
        let r := loadEach (fun _ => seqFields s.parts) bs body
        let r := loadEach (fun b => (List.range b.cols).flatMap (colFields s.parts)) r.1 r.2
        let tail (n : Nat) : List Bank × List Byte :=
          let c := loadEach (fun b => (List.range (2 * b.cols)).flatMap fun c => clFields c n) r.1 r.2
          loadEach (fun _ => vcwFields) c.1 c.2
        let half := tail 1024
        let r := if (slotOfBytes half.2).1.vcount = 1024 then half else tail 2048
        let shares := loadShares count r.2
        let group (i : Nat) : Nat := i * shares.length / count
        let saved := r.1.zipIdx.map fun e =>
          let g := group e.2
          let rank := ((List.range e.2).filter fun i => group i == g).length
          let b := e.1.reissue
          let b := { b with
            uid := uidOf id (8 * (g % 16) + rank % 8)
            forms := b.forms.map (s.onIdle n)
            wait := b.wait.map fun w => { w with forms := w.forms.map (s.onIdle n) } }
          (b, shares.getD g .zero)
        let l : Launch := ⟨id, n, 0, 0, [], 0, s.fresh, none, true, saved.map fun e => e.1.uid, []⟩
        let s := { s with saved := s.saved ++ saved, live := s.live ++ [l] }
        some (s.modCtx n fun c => { c with st := .stopped }, okStatus (at_ 8 8))

/-- One step of a save: the header with VALID 0, each section in turn, and VALID 1 last (R343). -/
def State.saveStep (s : State) (f : Form) (n va cap : Nat) : State :=
  let s := { s with parts := ((s.saved.filter fun e => e.1.ctx == n).flatMap fun e => e.1.partsOf).foldl withPart s.parts }
  let secs := s.saveSections n
  let len := 256 + (secs.map List.length).foldl (· + ·) 0
  let count := (s.saved.filter fun e => e.1.ctx == n).length
  if f.phase = 0 then
    if (s.ctx n).st ≠ .stopped then s.finish f (failStatus 8)
    else if len > cap then s.finish f (failStatus 14)
    else if s.allWaits s.b.ctx va (s.saveHeader n len 0 count) then s
    else
      let w := s.putAll s.b.ctx va (s.saveHeader n len 0 count)
      if w.2.2 then w.1.setPhase f 2 f.ops else w.1.finish f (failStatus 11)
  else
    let i := f.phase - 2
    match secs[i]? with
    | some bs =>
      let at_ := va + 256 + ((secs.take i).map List.length).foldl (· + ·) 0
      let w := s.putAll s.b.ctx at_ bs
      if s.allWaits s.b.ctx at_ bs then s
      else if w.2.2 then w.1.setPhase f (f.phase + 1) f.ops else w.1.finish f (failStatus 11)
    | none =>
      let w := s.putAll s.b.ctx (va + 16) (toBytes 8 1)
      if s.allWaits s.b.ctx (va + 16) (toBytes 8 1) then s
      else w.1.finish f (if w.2.2 then okStatus len else failStatus 11)

/-- A step of a form of the bank in focus that waits while a trap handler runs, made as if the bundle it belongs to stood
(R316). -/
def State.onAside (s : State) (g : State → State) : State :=
  match s.b.wait with
  | none => s
  | some w =>
    let own := s.b.forms
    (g (s.modB fun b => { b with forms := w.forms })).modB fun b => { b with forms := own, wait := some { w with forms := b.forms } }

/-- A step of a form of the bank in focus, wherever the form waits. -/
def State.onForm (s : State) (f : Form) (g : State → State) : State := if s.b.forms.contains f then g s else s.onAside g

/-- Saves of a subtree that are in progress stop: VALID is 2 and the form ends with ABORTED (R344). -/
def State.abortSaves (s : State) (mine : Nat → Bool) : State :=
  let isSave (f : Form) : Bool := match f.kind, f.ops with
    | .ctx (.ctxsaveSave ..), t :: _ => f.phase != 0 && mine t.toNat
    | _, _ => false
  let here := s.b.key
  (((s.bound.filter fun b => b.waiting.any isSave).map (·.key)).foldl (fun s k =>
    let s := s.focus k
    match s.b.waiting.find? isSave with
    | some f => s.onForm f fun s => (s.putNow s.b.ctx ((f.ops.getD 1 0).toNat + 16) (toBytes 8 2)).finish f (failStatus 12)
    | none => s) s).focus here

/-! ### CONTEXT_FORM_COMPLETE -/

/-- The bank waits for no shoot-down of its own. -/
def State.shootsDone (s : State) : Bool := s.shoots.all fun q => q.bank != some s.b.uid

/-- Marked banks have all been pre-empted (R337). -/
def State.marksDone (s : State) (uids : List DWord) : Bool :=
  s.bound.all fun b => !(uids.contains (BitVec.ofNat 64 b.uid) && b.preempt)

/-- A form of the bank in focus can go on now (R316). -/
def State.ctxReady (s : State) (f : Form) : Bool :=
  match f.kind with
  | .ctx i =>
    if !s.settledBefore f.iss || s.b.heldBack s.now f.iss then false
    else if f.phase = 1 then s.shootsDone && s.marksDone f.ops.tail
    else match i with
      | .ctxstop .. => f.phase == 0 || s.allSaved (f.ops.headD 0).toNat
      | _ => true
  | _ => false

/-- One form goes on (R317 to R343). -/
def State.perform (s : State) (f : Form) : State :=
  let u := s.b.uid
  let me := s.b.ctx
  let one (r : State × DWord) : State := r.1.finish f r.2
  let post (r : State × DWord × Bool) : State := if r.2.2 then r.1.waitShoots f r.2.1 [] else r.1.finish f r.2.1
  let word (w : DWord) : State :=
    let act := rfld w 3 0
    match s.reply me (rfld w 63 48) (act - 1) with
    | some s => s.finish f (okStatus 0)
    | none => s.finish f (failStatus 13)
  let run (n w : DWord) : State := if rfld w 3 0 = 0 then one (s.runCtx n.toNat) else word w
  let save (n p0 p1 p2 : DWord) : State :=
    if p2.getLsbD 0 then ((s.restore f.col n.toNat p0.toNat).map one).getD s else s.saveStep f n.toNat p0.toNat p1.toNat
  if f.phase = 1 then s.finish f (f.ops.headD 0)
  else match f.kind with
    | .ctx i => match i, f.ops with
      | .ctxnew .., [r] => one (s.newCtx r)
      | .ctxdel .., [n] => post (s.delCtx n.toNat u)
      | .ctxcore .., [n, p0, p1, p2, _] => one (s.grantCores me n.toNat (p1 ++ p0) (p2.getLsbD 0))
      | .ctxmem .., [n, p0, p1, p2, p3] =>
        post (s.grantMem me n.toNat (p0.toNat / 65536) (p1.toNat / 65536) p2.toNat p3 u)
      | .ctxq .., [n, p0, p1, _, _] => one (s.grantQueues me n.toNat (rfld p0 63 60) (rfld p0 15 0) p1.toNat)
      | .ctxbud .., [n, p0, p1, p2, _] => post (s.setBudget me n.toNat p0 p1 p2 u)
      | .ctxrunRun .., [n, w] => run n w
      | .ctxrunRetry .., [n, w] => run n w
      | .ctxrunRefuse .., [n, w] => run n w
      | .ctxrunSkip .., [n, w] => run n w
      | .ctxstop .., [n, p0, p1, _, _] =>
        if f.phase = 0 then
          if (s.ctx n.toNat).st ≠ .run then s.finish f (failStatus 8) else (s.stopCtx n.toNat).setPhase f 2 f.ops
        else
          match if p0 = 0 then some (s, okStatus 0) else s.reportDirty n.toNat p0.toNat p1.toNat with
          | some r => (r.1.stopped n.toNat).finish f r.2
          | none => s
      | .ctxrev .., [g] =>
        let r := s.removeGrants (s.lineage g.toNat) u
        r.1.waitShoots f (okStatus 0) r.2
      | .ctxdlg .., [n, m] => (s.modCtx n.toNat fun c => { c with mask := m }).finish f (okStatus 0)
      | .ctxsaveSave .., [n, p0, p1, p2, _] => save n p0 p1 p2
      | .ctxsaveRestore .., [n, p0, p1, p2, _] => save n p0 p1 p2
      | .shoot .., [va, n] =>
        let s := s.modCtx me fun c => { c with g1 := c.g1 + 1 }
        (s.postShoot 1 me va.toNat n.toNat (some u)).waitShoots f (okStatus (s.ctx me).g1.toNat) []
      | _, _ => s.finish f (failStatus 8)
    | _ => s

/-- The form is a save that the command processor has begun. -/
def Form.saving (f : Form) : Bool := match f.kind with
  | .ctx (.ctxsaveSave ..) => decide (f.phase ≥ 2)
  | _ => false

/-- The forms that wait for the command processor, with their banks, those put aside while a handler runs among them. A save that has begun keeps every other form waiting:
it is one operation (R316). -/
def State.ctxForms (s : State) : List (Nat × Form) :=
  let fs := s.bound.flatMap fun b => (b.waiting.filter fun f => (s.focus b.key).ctxReady f).map fun f => (b.key, f)
  if s.bound.any fun b => b.waiting.any Form.saving then fs.filter fun e => e.2.saving else fs

/-- Contexts stopped by a refusal, whose banks are all saved, become STOPPED without a report (R336, R339). -/
def State.settleStops (s : State) : State :=
  let asked := s.bound.flatMap fun b => b.waiting.filterMap fun f => match f.kind, f.ops with
    | .ctx (.ctxstop ..), n :: _ => some n.toNat
    | _, _ => none
  { s with ctxs := List.map (fun (e : Nat × Ctx) =>
    if e.2.st = .stopping ∧ s.allSaved e.1 ∧ !(asked.any fun n => s.within n 9 e.1) then (e.1, { e.2 with st := CtxSt.stopped })
    else e) s.ctxs }

/-- CONTEXT_FORM_COMPLETE: the command processor performs the oldest form that can go on (R316, R339). -/
def execContextFormComplete (s : State) : Out :=
  let s := s.draw
  match leastBy (fun (e : Nat × Form) => e.2.since) s.ctxForms with
  | none => .next s.settleStops
  | some e => .next ((s.focus e.1).onForm e.2 fun s => s.perform e.2)

/-! ### Function-level reset (R344) -/

/-- A function's context is reset: its subtree's banks are unbound, its packets are discarded, its descendants are deleted
and it returns to NEW with its grants kept. -/
def State.resetCtx (s : State) (n : Nat) : State :=
  let mine (k : Nat) : Bool := s.within n 9 k
  let below (k : Nat) : Bool := k != n && mine k
  let s := ((s.abortSaves mine).killAll mine).discard mine
  let gone := (List.range 9).reverse.flatMap fun d => (s.grants.filter fun e =>
    below e.2.recv && (s.ctx e.2.recv).depth == d).map Prod.fst
  let s := (s.removeGrants gone 0).1
  { s with
    shoots := s.shoots.map fun (q : Shoot) => if q.bank = some 0 then { q with bank := none } else q
    ctxs := s.ctxs.filter fun e => !below e.1
    objs := s.objs.filter fun e => !below e.2.ctx
    graphs := s.graphs.filter fun e => !below e.2.ctx }.modCtx n fun c => { c with st := .new }

end Sys2Proof.Machine
end

