-- ==== Sys2Proof/Machine/System.lean ====
section
/-! DEFINITION. System registers, traps, features and the microcode store, service handlers, the watchdog, operating
points, power regions and cooling (R348 to R374). -/

namespace Sys2Proof.Machine

open Sys2Proof

/-! ### System registers (R138, R209, R227, R246, R301, R323, R349 to R351) -/

/-- How a number may be reached: unassigned; read only; read and write, by the root only or by all; a token queue's
register. -/
inductive SysAcc where
  | none | ro | rw (root : Bool) | tqc (n : Nat)

/-- The bank runs on a dispatch sequencer (R20). -/
def Bank.dispatch (b : Bank) : Bool := decide (128 ≤ b.core)

/-- The access of a number from the bank in focus (R349, R350). -/
def State.sysAcc (s : State) (n : Nat) : SysAcc :=
  let io := s.b.dispatch
  let owned (c : Nat) : Bool := decide (c < s.b.cols)
  if n = 0 then .ro
  else if 0x10 ≤ n ∧ n ≤ 0x16 then .rw false
  else if n = 0x20 ∨ n = 0x21 ∨ n = 0x4A then .rw true
  else if n = 0x22 ∨ n = 0x30 ∨ n = 0x31 ∨ (0x38 ≤ n ∧ n ≤ 0x3F) ∨ (0x40 ≤ n ∧ n ≤ 0x49) ∨ n = 0x50 then .ro
  else if 0x100 ≤ n ∧ n < 0x180 then .ro
  else if 0x400 ≤ n ∧ n < 0x440 then (if owned ((n - 0x400) / 16) then .rw false else .none)
  else if 0x480 ≤ n ∧ n < 0x490 then (if owned ((n - 0x480) / 4) then .ro else .none)
  else if 0x500 ≤ n ∧ n < 0x540 then (if owned ((n - 0x500) / 16) then .rw false else .none)
  else if 0x600 ≤ n ∧ (n < 0x700 ∨ (io ∧ n < 0x740)) then .tqc (n - 0x600)
  else if 0x700 ≤ n ∧ n ≤ 0x703 then .ro
  else if 0x800 ≤ n ∧ n ≤ 0x802 then .rw false
  else if n = 0x803 then .ro
  else .none

/-- The causes of a SYSRD or SYSWR (R249, R351). -/
def State.sysCauses (s : State) (n : Nat) (write : Bool) : List Cause :=
  match s.sysAcc n with
  | .none => [s.cause 12 1 n]
  | .ro => if write then [s.cause 12 2 n] else []
  | .rw root => if root ∧ s.b.ctx ≠ 0 then [s.cause 12 3 n] else []
  | .tqc q => if s.holdsTq q then [] else [s.cause 8 1]

/-- The settling latency, voltage and clock of an operating point (R366). -/
def oppt (p : Nat) : DWord :=
  let mv := [600, 640, 680, 720, 770, 820, 880, 950].getD p 0
  let mhz := [1100, 1400, 1700, 2000, 2300, 2600, 2950, 3300].getD p 0
  .ofNat 64 (pack [(16, 0), (16, mv), (16, mhz), (16, settleCycles p)])

/-- OPS (R366). -/
def Core.ops (c : Core) : DWord :=
  .ofNat 64 (pack [(52, 0), (1, c.trip.toNat), (3, c.cur), (1, 0), (3, c.tgt), (3, 0), (1, c.settling.toNat)])

/-- The value of a register as the bank in focus reads it (R349). -/
def State.sysGet (s : State) (n : Nat) : DWord :=
  let b := s.b
  if n = 0 then s.slot.partw.setWidth 64
  else if n = 0x10 then b.tbr
  else if n = 0x11 then b.epc
  else if n = 0x12 then b.enpc
  else if n = 0x13 then b.esta
  else if n = 0x14 then b.ead
  else if n = 0x15 then b.edt
  else if n = 0x16 then b.eact
  else if n = 0x20 then s.core.ydl.setWidth 64
  else if n = 0x21 then s.wdl.setWidth 64
  else if n = 0x22 then .ofNat 64 (b.wdc % 2 ^ 32)
  else if n = 0x30 then s.core.ops
  else if n = 0x31 then b.pgr
  else if n < 0x40 then oppt (n - 0x38)
  else if n < 0x4A then s.zst.get 0 (n - 0x40)
  else if n = 0x4A then s.clpol.setWidth 64
  else if n = 0x50 then .ofNat 64 ((s.micro.map fun e => 2 ^ e.1).foldl (· + ·) 0)
  else if n < 0x180 then (Config.energy (n - 0x100)).setWidth 64
  else if n < 0x440 then (if n % 2 = 0 then b.cbc else b.cbs).get 0 ((n - 0x400) / 2)
  else if n < 0x490 then b.kfr.get 0 (n - 0x480)
  else if n < 0x540 then b.cn.get 0 (n - 0x500)
  else if n < 0x700 ∨ (b.dispatch ∧ n < 0x740) then s.readTqc (n - 0x600)
  else if n = 0x700 then s.vctr.setWidth 64
  else if n = 0x701 then .ofNat 64 s.vflr
  else if n = 0x702 then .ofNat 64 s.vceil
  else if n = 0x703 then b.vsnp
  else if n = 0x800 then (s.ctx b.ctx).s1r
  else if n = 0x801 then (s.ctx b.ctx).trr
  else if n = 0x802 then (s.ctx b.ctx).trh.setWidth 64
  else (s.ctx b.ctx).trt.setWidth 64

/-- The fields of ESTA (R355). -/
def estaMask : DWord := 0xFFFFFE00FFFFFFFF

/-- A write of a register by the bank in focus, as it takes effect (R142, R209, R246, R334, R351, R355, R362, R364, R373). -/
def State.sysPut (s : State) (n : Nat) (v : DWord) : State :=
  let v56 : DWord := .ofNat 64 (rfld v 55 0)
  if n = 0x10 then s.modB fun b => { b with tbr := v &&& 0x80FFFFFFFFFFFFFE }
  else if n = 0x11 then s.modB fun b => { b with epc := v56 }
  else if n = 0x12 then s.modB fun b => { b with enpc := v56 }
  else if n = 0x13 then s.modB fun b => { b with esta := v &&& estaMask }
  else if n = 0x14 then s.modB fun b => { b with ead := v56 }
  else if n = 0x15 then s.modB fun b => { b with edt := v }
  else if n = 0x16 then s.modB fun b => { b with eact := v &&& 3 }
  else if n = 0x20 then s.modCore s.b.core fun c => { c with ydl := v.setWidth 32 }
  else if n = 0x21 then { s with wdl := v.setWidth 32 }
  else if n = 0x4A then { s with clpol := v.setWidth 16 }
  else if 0x400 ≤ n ∧ n < 0x440 then
    s.modB fun b => if n % 2 = 0 then b.writeCbc ((n - 0x400) / 2) v else b.writeCbs ((n - 0x400) / 2) v
  else if 0x500 ≤ n ∧ n < 0x540 then s.modB fun b => { b with
    cn := b.cn.upd 0 (n - 0x500) fun r => setFld (if v.getLsbD 63 then setFld r 63 63 0 else r) 31 0 v.toNat }
  else if 0x600 ≤ n ∧ n < 0x740 then s.writeTqc (n - 0x600) v
  else if n = 0x801 then s.modCtx s.b.ctx fun c => { c with trr := trrValue v }
  else if n = 0x802 then s.modCtx s.b.ctx fun c => { c with trh := v.setWidth 32 }
  else s

/-- The register is one copy for a reader: the bank's own, its core's, its context's or the package's (R349). -/
def sameCopy (n : Nat) (x y : Bank) : Bool :=
  if n = 0x20 then x.core == y.core
  else if n = 0x21 ∨ n = 0x4A ∨ (0x600 ≤ n ∧ n < 0x740) then true
  else if 0x800 ≤ n ∧ n ≤ 0x803 then x.ctx == y.ctx
  else x.key == y.key

/-- Writes of a register that are on their way, oldest first: when they take effect, and their values. -/
def State.sysComing (s : State) (n : Nat) : List (Nat × DWord) :=
  (s.bound.filter (sameCopy n s.b)).flatMap fun x =>
    (x.pend.filter fun p => p.loc == .sys n).map (fun p => (p.due - (s.cores.get .reset x.core).cyc, BitVec.ofNat 64 p.val)) ++
    (if n = 0x800 then x.forms.filterMap fun f => match f.kind, f.ops with
      | .s1r, [v] => if f.phase = 0 then some (1, .ofNat 64 (rfld v 51 20 * 2 ^ 20)) else none
      | _, _ => none else [])

/-- What SYSRD reads: until a write takes effect the old or the new value, which one unspecified (R351). -/
def State.sysRead (s : State) (n : Nat) : DWord :=
  (s.sysComing n).foldl (fun v e =>
    if e.1 = 0 ∨ s.pick 2 [351, n, e.1] = 1 then (if n = 0x800 then e.2 else (s.sysPut n e.2).sysGet n) else v) (s.sysGet n)

/-- SYSRD, with a bound of 6 (R351). -/
def execSysrd (c : Ctl) (rd : BitVec 6) (num : BitVec 14) (s : State) : Out :=
  .next (s.syl (.sysrd c rd num) c (s.sysCauses num.toNat false) fun s => s.resS rd.toNat (s.sysRead num.toNat) 6)

/-- A write on its way to a system register: it takes effect 6 cycles after the issue; of two writes of one issue to one
register one, which one unspecified, stays (R351). -/
def State.sysSend (s : State) (n : Nat) (v : DWord) : State :=
  let mine (p : Pend) : Bool := p.loc == .sys n && p.iss == s.b.iss
  let new : Pend := ⟨.sys n, v.toNat, v.toNat, 1, 1, s.b.iss, s.now + 6, false, false, false⟩
  if s.b.pend.any mine then
    if s.pick 2 [351, n, 1] = 0 then s
    else s.modB fun b => { b with pend := (b.pend.filter fun p => !mine p) ++ [new] }
  else s.modB fun b => { b with pend := b.pend ++ [new] }

/-- SYSWR; a write of S1R is a blocking form (R323, R351). -/
def execSyswr (c : Ctl) (rb : BitVec 6) (num : BitVec 14) (s : State) : Out :=
  .next (s.syl (.syswr c rb num) c (s.sysCauses num.toNat true) fun s =>
    if num = 0x800 then s.await .s1r 0 [s.rs rb.toNat] else s.sysSend num.toNat (s.rs rb.toNat))

/-- REGISTER_WRITE: a bank's write of a register takes effect (R351). -/
def execRegisterWrite (bank num : Nat) (val : BitVec 64) (s : State) : Out :=
  let s := s.focus bank
  .next ((s.modB (·.arrived num val)).sysPut num val)

/-- TBASE sets TBR from the next issue on (R355). -/
def execTbase (c : Ctl) (ra : BitVec 6) (s : State) : Out :=
  .next (s.syl (.tbase c ra) c [] fun s => s.sysPut 0x10 (s.rs ra.toNat))

/-! ### Traps (R352, R357) -/

/-- A cause raised by the syllable in the latch after its bundle has executed. -/
def State.afterCause (s : State) (num code : Nat) : Cause :=
  ⟨num, code, s.cur.slot, s.cur.col, 0, .ofNat 64 (if num = 16 then code else 0), false, .after, false, none⟩

/-- TRAP (R357). -/
def execTrap (c : Ctl) (n : BitVec 5) (s : State) : Out :=
  .next (s.syl (.trap c n) c [] fun s => s.modB (·.pendAfter (s.afterCause (32 + n.toNat) n.toNat)))

/-- BRK (R357). -/
def execBrk (c : Ctl) (code : BitVec 8) (s : State) : Out :=
  .next (s.syl (.brk c code) c [] fun s => s.modB (·.pendAfter (s.afterCause 16 code.toNat)))

/-- HALT (R357). -/
def execHalt (c : Ctl) (s : State) : Out :=
  .next (s.syl (.halt c) c [] fun s => s.modB (·.pendAfter (s.afterCause 15 0)))

/-- The kind of a trap from its code in ESTA (R355). -/
def trapKindOf (n : Nat) : TrapKind := match n with | 0 => .before | 1 => .after | _ => .wait

/-- The trap that ESTA describes (R355). -/
def Bank.handled (b : Bank) : Cause :=
  ⟨rfld b.esta 62 57, rfld b.esta 56 49, rfld b.esta 48 46, rfld b.esta 45 44, b.ead, b.edt, b.esta.getLsbD 43,
    trapKindOf (rfld b.esta 42 41), false, b.trapQ⟩

/-- THE RETURN FROM AN EXCEPTION at the bank's own vector: the hold state is reinstated, EH clears, ACT is applied to the
trap that ESTA describes, and issue continues at EPC or ENPC, or with the bundle that waited (R357). -/
def State.eret (s : State) : State :=
  let b := s.b
  let s := s.modB fun b => { b with
    holds := b.aside
    aside := []
    waitSyl := []
    open_ := false
    taken := false
    esta := setFld b.esta 63 63 0 }
  (s.resume b.handled (rfld b.eact 1 0) (.ofNat 56 (rfld b.epc 55 0)) (.ofNat 56 (rfld b.enpc 55 0)) (.ofNat 32 (rfld b.esta 31 0)) true).modB
    (·.takeUp)

/-- ERET, after the bundle's other syllables have executed (R357). -/
def execEret (c : Ctl) (s : State) : Out :=
  .next (s.syl (.eret c) c (if s.b.esta.getLsbD 63 then [] else [s.illegal]) fun s =>
    if s.cur.phase = .alone ∧ s.b.forms.isEmpty ∧ s.b.waitSyl.isEmpty then s.eret else s.await .eret 0 [])

/-! ### The microcode store (R358 to R360) -/

/-- The fields of an image hold what R359 allows. -/
def microOk (h : List Byte) : Bool :=
  let at_ (o n : Nat) : Nat := leNat ((h.drop o).take n)
  let e := at_ 4 1
  let own := if e < 16 then (at_ 6 1).testBit 7 else (at_ 6 1).testBit 4 || (at_ 6 1).testBit 3
  at_ 0 4 == 0x31434D5A && decide (e ≤ 31) && decide (1 ≤ at_ 5 1) && own && at_ 7 1 == 0 && decide (64 ≤ at_ 8 2) &&
    decide (at_ 8 2 ≤ 127) && at_ 10 2 == 0 && at_ 12 4 % 64 == 0 && decide (at_ 12 4 ≤ 16384) && at_ 16 48 == 0

/-- A declared feature of a bound image pins the entry that sets it (R360). -/
def State.pinned (s : State) (e : Nat) : Bool :=
  match s.micro.find e with
  | some m => s.bound.any fun b => (b.kern.map fun k => k.feat.getLsbD m.fbit).getD false
  | none => false

/-- What an MCLD of a column finds: the failing code, or the entry with its new contents, and what its reads leave; none while
they wait (R359). The first code that applies is given; a signature cannot fail before the body has been read. -/
def State.mcldRead (s : State) (col va : Nat) : Option (State × Except Nat (Nat × Micro)) :=
  match s.getAll (4 * col) s.b.snapTs va 64 with
  | .error none => none
  | .error (some _) => some (s, .error 4)
  | .ok (s, h) =>
    let len := leNat ((h.drop 12).take 4)
    let e := leNat ((h.drop 4).take 1)
    let fields : Option Nat := if va % 64 ≠ 0 ∨ !microOk h then some 2 else if s.pinned e then some 3 else none
    match s.getAll (4 * col) s.b.snapTs (va + 64) (len + 512) with
    | .error none => none
    | .error (some _) => some (s, .error (fields.getD 4))
    | .ok (s, rest) =>
      if !Config.signatureOk [s.boot.fwKey] (h ++ rest) then some (s, .error 1)
      else match fields with
        | some c => some (s, .error c)
        | none => some (s, .ok (e,
            ⟨leNat ((h.drop 5).take 1), .ofNat 8 (leNat ((h.drop 6).take 1)), leNat ((h.drop 8).take 2), rest.take len⟩))

/-- MCLD waits for its load (R359). -/
def execMcld (c : Ctl) (rd ra : BitVec 6) (s : State) : Out :=
  .next (s.syl (.mcld c rd ra) c (if s.b.ctx = 0 then [] else [s.cause 12 3]) fun s => s.await .mcld rd.toNat [s.rs ra.toNat])

/-- MCLD_LOAD: a waiting MCLD, once no earlier access or form holds it back, reads its image; one that fails retires with its
status word, and otherwise the entry is being rewritten (R360) until the store and the vector hold it and the form retires
(R359). -/
def execMcldLoad (bank : Nat) (s : State) : Out :=
  let s := s.draw.focus bank
  match s.b.forms.find? fun f => f.kind == .mcld with
  | none => .next s
  | some f => match (if f.phase = 1 then s.rewrites.find bank else none) with
    | some (e, m) =>
      let s := { s with micro := s.micro.put e m, feat := s.feat ||| BitVec.ofNat 256 (2 ^ m.fbit), rewrites := s.rewrites.del bank }
      .next ((s.retireForm f).resS f.rd 0 1)
    | none =>
      if s.b.heldBack s.now f.iss then .next s
      else match s.mcldRead f.col (f.ops.headD 0).toNat with
        | none => .next s
        | some (t, .error c) => .next ((t.retireForm f).resS f.rd (.ofNat 64 (2 ^ 63 + c * 2 ^ 48)) 1)
        | some (t, .ok x) => .next ({ t with rewrites := t.rewrites.put bank x }.setPhase f 1 f.ops)

/-! ### Service handlers and the watchdog (R361 to R365) -/

/-- HANDLER_FORCED_ENTRY: a handler requested YDL cycles ago is entered at a boundary; a program observes a stall and
nothing else (R362, R363). -/
def execHandlerForcedEntry (core : Nat) (s : State) : Out :=
  let here := s.bound.filter fun b => b.core == core
  .next (if here.isEmpty || here.any Bank.atBoundary then
    s.modCore core fun c => match c.handler with
      | some t => if t + max c.ydl.toNat 256 ≤ c.cyc then { c with handler := none } else c
      | none => c
    else s)

/-- The resident time of a bank has reached its limit (R364). -/
def State.wdExpired (s : State) (b : Bank) (us : Nat) : Bool :=
  let x := s.ctx b.ctx
  decide (max s.wdl.toNat 1 ≤ us) || (x.st == .stopping && decide (1000000 ≤ s.ns - x.stopAt))

/-- The updates of ticket cells that the bank in focus has sent are performed: nothing it issued before them stays in flight
when it is ended (R245, R365). -/
def State.sendTicks (s : State) : State :=
  let k := s.b.key
  { s with
    tickQ := s.tickQ.filter fun t => t.bank != k
    cells := (s.tickQ.filter fun t => t.bank == k).foldl (fun m t => m.upd 0 t.cell fun v => if t.set then t.val else v + t.val) s.cells }

/-- WATCHDOG_EXPIRY: WDC counts the bank's resident time but for the time that it is stopped awaiting a reply; a bank that
reaches its limit is ended, once a commit past its commit point is done, with a record to the search at its parent (R229,
R292, R332, R364, R365). -/
def execWatchdogExpiry (bank us : Nat) (s : State) : Out :=
  let s := s.focus bank
  let stopped := match s.b.halted with | some (.reply _) | some (.fault _) => true | _ => false
  let s := if stopped then s else s.modB fun b => { b with wdc := us }
  if !s.b.bound || stopped || s.b.committing || !s.wdExpired s.b us then .next s
  else
    let s := s.sendTicks.rollback ⟨13, 0, 0, 0, 0⟩ s.b.boundaryPc
    let s := s.record ⟨14, 0, 0, 0, 0, .ofNat 64 us, false, .after, false, none⟩ false
    .next s.kill

/-! ### Operating points (R366 to R368) -/

/-- SETTLE_COMPLETE: the point settled to is in force, and a change that waited starts settling (R367). -/
def execSettleComplete (core : Nat) (s : State) : Out :=
  if (s.cores.get .reset core).settling then
    .next ((s.modCore core fun c => { c with cur := c.tgt, settling := false }).retarget core)
  else .next s

/-- DROOP_DETECT: the core's next cycle is stretched; it counts as one cycle for every bound, count and rule, and no state
is lost (R368). -/
def execDroopDetect (_core : Nat) (s : State) : Out := .next s

/-! ### Power regions (R369 to R372) -/

/-- The causes of a PWRACQ (R370). -/
def State.pwrCauses (s : State) (v : DWord) : List Cause :=
  let imax := rfld (s.ctx s.b.ctx).power 15 4
  (if rfld v 63 16 ≠ 0 ∨ rfld v 15 0 = 0 then [s.cause 13 4] else []) ++
    (if imax ≠ 0xFFF ∧ rfld v 15 0 > imax then [s.cause 13 2] else [])

/-- PWRACQ enters its die's requests and waits for its grant (R370). -/
def execPwracq (c : Ctl) (ra : BitVec 6) (s : State) : Out :=
  .next (s.syl (.pwracq c ra) c (s.pwrCauses (s.rs ra.toNat)) fun s =>
    let v := s.rs ra.toNat
    let s := s.await .pwracq 0 [v]
    { s with pwrReqs := s.pwrReqs ++ [(s.b.key, v.setWidth 16)] })

/-- The current that the Chard has granted to the banks of the package but one, in 1/16 A (R23, R370). -/
def State.granted (s : State) (bank : Nat) : Nat :=
  ((s.bound.filter fun b => b.key != bank && b.pgr.getLsbD 63).map fun b => rfld b.pgr 15 0).foldl (· + ·) 0

/-- The power that the grants of the package's banks allow, and one more to a bank, at the rails of their cores: in 1/16 A
times mV (R23, R366, R370). -/
def State.wattage (s : State) (bank level : Nat) : Nat :=
  let rail (b : Bank) : Nat := let c := s.cores.get .reset b.core; rfld (oppt (max c.cur c.tgt)) 47 32
  ((s.bound.map fun b => rail b * if b.key = bank then level else if b.pgr.getLsbD 63 then rfld b.pgr 15 0 else 0)).foldl (· + ·) 0

/-- A grant to a zone would raise its heat beyond what its flow removes at the target temperature: the spec gives no figures,
so which one is open (R373). -/
def State.heats (s : State) (zone : Nat) : Bool := s.pick 2 [373, zone, s.clpol.toNat] == 1

/-- The Chard opens a zone's valve: its position and flow change, to values that the spec does not give (R373). -/
def State.openValve (s : State) (zone : Nat) : State :=
  { s with zst := s.zst.upd 0 zone fun r => setFld (setFld r 23 16 (s.undef 8 [373, zone, 1])) 47 32 (s.undef 16 [373, zone, 2]) }

/-- POWER_GRANT: the Chard grants the first request of the bank's die, and the bank's PWRACQ retires, where it waits while a
trap handler runs too (R252, R370). It withholds a grant past the package's limits of 4,200 A and 3,600 W, and one for whose
heat the zone's flow is too low, for which it opens the valve (R23, R373). -/
def execPowerGrant (bank : Nat) (s : State) : Out :=
  let s := s.draw.focus bank
  match s.pwrReqs.find? fun r => r.1 / 128 == bank / 128 with
  | some r =>
    if r.1 ≠ bank ∨ s.granted bank + r.2.toNat > 67200 ∨ s.wattage bank r.2.toNat > 57600000 then .next s
    else if s.heats (bank / 128) then .next (s.openValve (bank / 128))
    else
      let s := { s with pwrReqs := s.pwrReqs.erase r }
      let mine (f : Form) : Bool := f.kind == .pwracq && f.ops == [r.2.setWidth 64]
      .next (s.modB fun b => { b with
        pgr := .ofNat 64 (2 ^ 63 + r.2.toNat)
        forms := b.forms.eraseP mine
        wait := if b.forms.any mine then b.wait else b.wait.map fun w => { w with forms := w.forms.eraseP mine } })
  | none => .next s

/-- PWRREL (R372). -/
def execPwrrel (c : Ctl) (s : State) : Out :=
  .next (s.syl (.pwrrel c) c [] fun s => s.modB fun b => { b with pgr := 0 })

/-! ### Cooling (R373) -/

/-- THERMAL_TRIP: a zone's temperature is read; above 105 degrees every core of its die is held at point 0 (R373). -/
def execThermalTrip (zone temp : Nat) (s : State) : Out :=
  if zone < 10 then
    let s := { s with zst := s.zst.upd 0 zone fun r => setFld r 15 0 temp }
    let hot := decide (1680 < temp)
    .next (((List.range 16).map fun i => 16 * zone + i).foldl (fun s c =>
      if (s.cores.get .reset c).trip == hot then s else (s.modCore c fun x => { x with trip := hot }).retarget c) s)
  else .next s

/-- VPOOL_WRITE: the root's driver sets the size of the version pool, while VCTR is 0 (R416). -/
def execVpoolWrite (val : BitVec 64) (s : State) : Out :=
  .next (if s.vctr = 0 then { s with vpool := val &&& 0x7F } else s)

end Sys2Proof.Machine
end

