-- ==== Sys2Proof/Machine/HostLink.lean ====
section
/-! DEFINITION. The host link (R400 to R414): user-mode queues and their packets, Joset objects and graphs, the shoot-down
ring's register, the host's accesses and AtomicOps, SPDM, TDISP and function-level reset. -/

namespace Sys2Proof.Machine

open Sys2Proof

/-! ### Functions and TDIs (R344, R401, R402) -/

/-- The start has completed (R415, R419). -/
def State.started (s : State) : Bool := s.stst.getLsbD 63

/-- The virtual function to whose context a context belongs (R401). -/
def State.vfOf (s : State) (ctx : Nat) : Option Nat := (s.vfs.find? fun e => s.within e.2 9 ctx).map Prod.fst

/-- A function-level reset of a virtual function: its context is reset, and what its queues hold is discarded (R344). -/
def State.flr (s : State) (vf : Nat) : State :=
  match s.vfs.find vf with
  | none => s
  | some n =>
    let mine (q : Nat) : Bool := s.within n 9 (s.qOwner.get 0 (queueKey 1 q))
    let uqs := List.map (fun (e : Nat × Uq) => if mine e.1 then (e.1, { e.2 with widx := e.2.ridx, since := none }) else e) s.uqs
    { s with uqs := uqs }.resetCtx n

/-- FUNCTION_LEVEL_RESET (R344). -/
def execFunctionLevelReset (vf : Nat) (s : State) : Out := .next (s.draw.flr vf)

/-- A TDI enters ERROR: its keys are dropped, and its context is reset (R402). -/
def State.tdiError (s : State) (vf : Nat) : State := { s with tdis := s.tdis.put vf .error }.flr vf

/-- TDISP_REQUEST: lock, start and stop move a TDI between its states (R402). -/
def execTdispRequest (vf : Nat) (req : TdiReq) (s : State) : Out :=
  let st := s.tdis.get .unlocked vf
  let tgt := match req, st with
    | .lock, .unlocked => TdiSt.locked
    | .start, .locked => .run
    | .stop, _ => .unlocked
    | _, x => x
  .next (if (s.vfs.find vf).isSome then { s with tdis := s.tdis.set .unlocked vf tgt } else s)

/-- VF_ENABLE: the root names the depth-1 context of a virtual function (R401). -/
def execVfEnable (vf ctx : Nat) (s : State) : Out :=
  .next (if 1 ≤ vf ∧ vf ≤ 255 ∧ (s.ctxs.find ctx).isSome ∧ (s.ctx ctx).depth = 1 then { s with vfs := s.vfs.put vf ctx } else s)

/-! ### Queue registers (R403, R405, R413) -/

/-- A user-mode queue (R403). -/
def State.uq (s : State) (q : Nat) : Uq := s.uqs.get ⟨0, 0, 0, none⟩ q

/-- The value that a write of UQD0 leaves: an LN outside 4 to 15 reads back 4 (R403). -/
def uqdValue (v : DWord) : DWord := if rfld v 59 56 < 4 then setFld (setFld v 5 0 0) 59 56 4 else setFld v 5 0 0

/-- A descriptor or doorbell of a queue has changed: the TDI of a function that is locked or runs moves to ERROR (R402). -/
def State.queueChanged (s : State) (queue : Nat) : State :=
  match s.vfOf (s.qOwner.get 0 (queueKey 1 queue)) with
  | none => s
  | some vf => match s.tdis.get .unlocked vf with
    | .locked | .run => s.tdiError vf
    | _ => s

/-- UQD_WRITE: the root's driver writes a descriptor; UQD1 is read only (R403). -/
def execUqdWrite (queue : Nat) (hi : Bool) (val : BitVec 64) (s : State) : Out :=
  if hi ∨ queue ≥ 1024 then .next s
  else .next (State.queueChanged { s with
    fresh := s.fresh + 1, uqs := s.uqs.put queue { s.uq queue with d0 := uqdValue val } } queue)

/-- UQN_NOTIFY by a doorbell page, which is 1,024 times its function's number and the queue's: the function whose context
holds the queue publishes its packets up to WIDX (R403, R405); no other function has the queue's doorbell. -/
def execUqnNotify (page : Nat) (widx : BitVec 32) (s : State) : Out :=
  let queue := page % 1024
  if (s.vfOf (s.qOwner.get 0 (queueKey 1 queue))).getD 0 ≠ page / 1024 then .next s
  else .next (State.queueChanged { s with
    fresh := s.fresh + 1, uqs := s.uqs.put queue { s.uq queue with widx := widx } } queue)

/-- SDR_WRITE: the root writes the shoot-down ring's register (R413). -/
def execSdrWrite (val : BitVec 64) (s : State) : Out := .next { s with sdr := val &&& 0x8F0FFFFFFFFFFFE0 }

/-! ### Packets (R404, R406) -/

/-- A packet as read from its slot: the address of the slot, its dwords, and a poisoned line. -/
structure QPkt where
  ctx  : Nat
  at_  : Nat
  dws  : List Nat

/-- Dword `i` of a packet. -/
def QPkt.d (p : QPkt) (i : Nat) : Nat := p.dws.getD i 0

/-- The TYPE of a packet. -/
def QPkt.type (p : QPkt) : Nat := fld (p.d 0) 55 48

/-- The priority of a packet. -/
def QPkt.pri (p : QPkt) : Nat := fld (p.d 0) 47 45

/-- The completion address of a packet. -/
def QPkt.compl (p : QPkt) : BitVec 56 := va56 (p.d 2)

/-- The dwords of some bytes. -/
def dwords (n : Nat) (bs : List Byte) : List Nat := (List.range n).map fun i => leNat ((bs.drop (8 * i)).take 8)

/-- The next packet of a queue whose index is below WIDX, or the cause of a fault that reading its slot met, with what the read
leaves; none when the queue has nothing to read, or while its slot cannot be read or written (R404, R405). The slot is read at
one instant (assumption log, entry 105). -/
def State.nextPkt (s : State) (q : Nat) : Option (State × QPkt × Option Nat) :=
  let u := s.uq q
  if !u.d0.getLsbD 63 ∨ u.widx = u.ridx ∨ (u.widx - u.ridx).toNat ≥ 2 ^ 31 then none
  else
    let ctx := s.qOwner.get 0 (queueKey 1 q)
    let at_ := rfld u.d0 55 6 * 64 + 64 * (u.ridx.toNat % 2 ^ rfld u.d0 59 56)
    if s.okraWaits ctx at_ (toBytes 16 0) then none
    else match s.okraGet ctx at_ 64 with
    | .error none => none
    | .error (some f) => some (s, ⟨ctx, at_, []⟩, some f)
    | .ok (s, bs) => some (s, ⟨ctx, at_, dwords 8 bs⟩, none)

/-- A write of the command processor to a packet's slot; a fault leaves the slot as it is. -/
def State.slotWrite (s : State) (ctx va v : Nat) : State := (s.okraPut ctx va (toBytes 8 v)).1

/-- A packet is consumed: STATUS, then the header, then RIDX (R406). -/
def State.consume (s : State) (q : Nat) (p : QPkt) (code hnd detail : Nat) : State :=
  let s := s.slotWrite p.ctx (p.at_ + 8) (pack [(8, 0), (8, code), (16, hnd), (32, detail)])
  let s := s.slotWrite p.ctx p.at_ 0
  { s with uqs := s.uqs.put q { s.uq q with ridx := (s.uq q).ridx + 1, since := none } }

/-- The completion add of a packet (R406); none while it waits for a commit. -/
def State.finishPkt (s : State) (p : QPkt) (x : Nat) : Option State := s.complete p.ctx p.compl x

/-- A packet that fails: its status, and its completion add at once (R406). -/
def State.failPkt (s : State) (q : Nat) (p : QPkt) (code detail x : Nat) : Option State :=
  (s.consume q p code 0 detail).finishPkt p x

/-- What every packet is checked for (R404, R406): reserved header fields and the completion address, then the priority. -/
def State.pktCode (s : State) (q : Nat) (p : QPkt) (fields : Bool) : Option Nat :=
  if fld (p.d 0) 62 56 ≠ 0 ∨ fld (p.d 0) 44 0 ≠ 0 ∨ p.d 7 ≠ 0 ∨ p.d 2 % 8 ≠ 0 ∨ p.d 2 ≥ 2 ^ 56 ∨ !fields then some 1
  else if p.pri > rfld (s.uq q).d0 62 60 then some 2
  else none

/-- THE READING OF A PACKET of one TYPE at the head of a queue (R404, R405): a slot with V = 0 stops the queue until the
next notification; `work` carries the packet out. A packet of another type is left to its own move. -/
def State.readPkt (s : State) (q : Nat) (mine : Nat → Bool) (work : State → QPkt → Option State) : Out :=
  let s := s.draw
  if !s.started then .next s
  else match s.nextPkt q with
    | none => .next s
    | some (t, p, some f) => .next (if mine 0 then (t.failPkt q p 11 f 0).getD s else s)
    | some (t, p, none) =>
      if !(p.d 0).testBit 63 then .next { t with uqs := t.uqs.put q { t.uq q with widx := (t.uq q).ridx } }
      else if mine p.type then .next ((work t p).getD s)
      else .next s

/-- LAUNCH_PACKET: a LAUNCH enters the launch queue of its priority, or waits for room there; a packet of no assigned TYPE
fails here (R255, R404, R406). -/
def execLaunchPacket (queue : Nat) (s : State) : Out :=
  s.readPkt queue (fun t => t == 0 || t == 1 || decide (t > 5)) fun s p =>
    let hnd := fld (p.d 3) 47 32
    if p.type ≠ 1 then s.failPkt queue p 1 0 1
    else match s.pktCode queue p (p.d 3 == hnd * 2 ^ 32 && p.d 4 == 0) with
      | some c => s.failPkt queue p c 0 (2 ^ 32)
      | none =>
        if (s.image p.ctx hnd true).isNone ∧ (s.graphs.find (hkey p.ctx hnd)).isNone then s.failPkt queue p 8 0 (2 ^ 32)
        else if s.launchRoom p.pri && s.launchTurn p.pri ((s.uq queue).since.map Prod.snd) then
          let l := s.newLaunch p.ctx hnd p.pri [0, .ofNat 64 (p.d 5), .ofNat 64 (p.d 6)] p.compl
          some ({ s with launchqs := s.launchqs.upd [] p.pri fun q => q ++ [l] }.consume queue p 0 0 0)
        else if (s.uq queue).since.isSome then some s
        else some { s with uqs := s.uqs.put queue { s.uq queue with since := some (p.pri, s.fresh) } }

/-! ### Handles and objects (R408 to R411) -/

/-- A handle of a context's 16-bit space is not in use. -/
def State.handleFree (s : State) (ctx h : Nat) : Bool :=
  decide (1 ≤ h) && decide (h < 65536) && (s.graphs.find (hkey ctx h)).isNone &&
    !(s.objs.any fun e => e.2.ctx == ctx && decide (e.1 % 65536 ≤ h) && decide (h ≤ e.1 % 65536 + e.2.kernels.length))

/-- The first of `n` free handles in a row, searched from the context's next handle on. -/
def State.newHandle (s : State) (ctx n : Nat) : Option Nat :=
  let h0 := (s.ctx ctx).hnd
  ((List.range 65535).map fun i => (h0 - 1 + i) % 65535 + 1).find? fun h => (List.range n).all fun i => s.handleFree ctx (h + i)

/-- The loop table keeps the limits of R258: six levels, at most one spatial over cores and one over dies, spreads that the
mode and the package have, and counts below 2^32. -/
def loopsOk (k : Kern) : Bool :=
  let of (kind : LoopKind) : List LoopEnt := k.loops.filter fun e => e.kind == kind
  let within (n : Nat) (e : LoopEnt) : Bool := decide (1 ≤ e.spread) && decide (e.spread ≤ n)
  decide (k.loops.length ≤ 6) && k.loops.all (fun e => decide (e.most < 2 ^ 32)) &&
    decide ((of .cores).length ≤ 1) && (of .cores).all (within (16 * (4 / modeCols k.mode))) &&
    decide ((of .dies).length ≤ 1) && (of .dies).all (within 8)

/-- The claims of a kernel are in range (R16, R32, R33, R47, R58, R243, R258). -/
def claimsOk (k : Kern) : Bool :=
  let w := k.partw.toNat
  let reg := fld w 15 14
  let acc := fld w 13 8
  let scr := fld w 5 0
  (reg == 1 || reg == 2) && decide (16 ≤ acc) && decide (acc ≤ 48) && decide (4 ≤ scr) && decide (reg + acc + scr ≤ 64) &&
    decide (k.tickets ≤ 256) && decide (k.scratch.length ≤ scr * 524288) && loopsOk k &&
    k.live.all (fun l => decide (1 ≤ l.1) && decide (l.1 ≤ 63)) && decide (k.power ≤ 65535) && decide (k.vcw.length ≤ 512) &&
    k.segs.all fun g => g.1 % 64 == 0 && decide (g.2 ≤ 4096)

/-- The header of an object holds what R408 allows. -/
def objectOk (bs : List Byte) : Bool :=
  let at_ (o n : Nat) : Nat := leNat ((bs.drop o).take n)
  decide (640 ≤ bs.length) && at_ 0 4 == 0x54534A5A && decide (1 ≤ at_ 40 2) && decide (at_ 40 2 ≤ 64) && at_ 42 6 == 0 &&
    at_ 96 32 == 0 && (List.range 6).all fun i => at_ (48 + 8 * i) 8 % 64 == 0 && decide (at_ (48 + 8 * i) 8 ≤ bs.length)

/-- The first element that fails a test. -/
def firstBad {α : Type} (f : α → Bool) (xs : List α) : Option Nat := xs.findIdx? fun x => !f x

/-- A context's loaded objects, the first loaded first: their global symbols form one namespace (R410). An object whose UNLOAD
is deferred still counts (assumption log, entry 108). -/
def State.loaded (s : State) (ctx : Nat) : List Obj :=
  sortBy (fun x y => decide (x.seq < y.seq)) ((s.objs.map Prod.snd).filter (·.ctx == ctx))

/-- The definition of a name that R410 selects, with the object that makes it: the strong one, or else the one loaded first. -/
def symbolOf (os : List Obj) (name : Nat) : Option (Nat × DWord) :=
  let ds := os.flatMap fun o => (o.defs.filter fun d => d.name == name).map fun d => (o.seq, d)
  ((ds.find? fun d => !d.2.weak).or ds.head?).map fun d => (d.1, d.2.value)

/-- The least index of a symbol of an object that its context's namespace refuses: a second strong definition, or a name that
nothing defines (R410). -/
def badSymbol (os : List Obj) (ds : List Symbol) (refs : List (Nat × Nat)) : Option Nat :=
  let strong (n : Nat) : Bool := os.any fun o => o.defs.any fun d => d.name == n && !d.weak
  leastBy id (((ds.filter fun d => !d.weak && strong d.name).map (·.index)) ++
    ((refs.filter fun r => (symbolOf os r.1).isNone).map Prod.snd))

/-- The offset of the section of an object that the header names at `o`, and of the section after it (R408). -/
def sectionAt (bs : List Byte) (o : Nat) : Nat × Nat :=
  let at_ (i : Nat) : Nat := leNat ((bs.drop (48 + 8 * i)).take 8)
  let me := leNat ((bs.drop o).take 8)
  (me, (leastBy id (((List.range 6).map at_).filter fun x => decide (me < x))).getD (bs.length - 512))

/-- An object's bytes with the values of its references put into its value lists (R35). -/
def patched (bs : List Byte) (ps : List (Nat × List Byte)) : List Byte :=
  ps.foldl (fun bs p => bs.take p.1 ++ p.2 ++ bs.drop (p.1 + p.2.length)) bs

/-- What Okra follows of a kernel of an object that is loaded (R271). -/
def kernelImage (bs : List Byte) (base i : Nat) (k : Kern) : Image :=
  ⟨bs.drop (leNat ((bs.drop 56).take 8)), base, k.loops, Config.targets bs i⟩

/-- An object that has passed Okra's checks, and the bytes of its global data that its references give: virtual address and
bytes (R35, R408). -/
structure Linked where
  obj  : Obj
  data : List (Nat × List Byte)

/-- Okra's checks of an object, in order: the code and detail of the first that fails, or the object as it is loaded
(R409, R410). -/
def State.checkObject (s : State) (ctx va : Nat) (bs : List Byte) : Except (Nat × Nat) Linked :=
  let at_ (o n : Nat) : Nat := leNat ((bs.drop o).take n)
  let feat : BitVec 256 := .ofNat 256 (at_ 8 32)
  let base := Config.codeBase bs (va56 va) * 65536
  let os := s.loaded ctx
  let ds := Config.defs bs (va56 va)
  let refs := Config.refs bs
  let used := refs.filterMap fun r => symbolOf os r.1
  let ps := Config.patches bs (used.map Prod.snd)
  let all := patched bs ps
  let start (k : Kern) : Nat := k.entry.toNat / 2 * 2
  let ks := (Config.kernels all (va56 va)).take (at_ 40 2)
  if !objectOk bs then .error (1, 0)
  else if !Config.signatureOk s.boot.keys bs then .error (3, 0)
  else if at_ 4 2 ≠ 1 ∨ at_ 6 2 > 0 ∨ (feat &&& s.feat) ≠ feat then .error (4, 0)
  else match badSymbol os ds refs with
    | some i => .error (5, i)
    | none => match firstBad claimsOk ks with
      | some i => .error (6, i)
      | none => match firstBad (fun (k, i) => (kernelImage all base i k).boundsOk (start k)) ks.zipIdx with
        | some i => .error (7, i)
        | none =>
          let code := sectionAt bs 56
          let data := sectionAt bs 72
          let home := Config.dataBase bs (va56 va)
          let inData (p : Nat × List Byte) : Bool := decide (data.1 ≤ p.1) && decide (p.1 < data.2)
          .ok ⟨⟨ctx, ks.map fun k => { k with entry := .ofNat 56 (base + start k), feat := feat }, ds, used.map Prod.fst,
              [(base, code.2 - code.1), (home, data.2 - data.1)], none, true, s.fresh⟩,
            (ps.filter inData).map fun p => (home + (p.1 - data.1), p.2)⟩

/-- Okra writes the values of an object's references into its global data: the cause of a fault, or none while a write waits
(R35; assumption log, entry 106). -/
def State.putData (s : State) (ctx : Nat) : List (Nat × List Byte) → Except (Option Nat) State
  | [] => .ok s
  | p :: ps =>
    if s.okraWaits ctx p.1 p.2 then .error none
    else
      let r := s.okraPut ctx p.1 p.2
      if r.2.2 then State.putData r.1 ctx ps
      else .error (some (match (s.asFirm ctx).translate (.k 0) true ctx (p.1 + r.2.1) with
        | .error f => f.cause
        | .ok _ => 0))

/-- LOAD_PACKET: Okra reads, checks and registers an object; its kernels take the handles after its own (R409). -/
def execLoadPacket (queue : Nat) (s : State) : Out :=
  s.readPkt queue (· == 2) fun s p =>
    match s.pktCode queue p (p.d 3 % 64 == 0 && decide (p.d 3 < 2 ^ 56) && p.d 5 == 0 && p.d 6 == 0) with
    | some c => s.failPkt queue p c 0 1
    | none => match s.okraGet p.ctx (p.d 3) (p.d 4) with
      | .error none => none
      | .error (some f) => s.failPkt queue p 11 f 1
      | .ok (s, bs) => match s.checkObject p.ctx (p.d 3) bs with
        | .error (c, d) => s.failPkt queue p c d 1
        | .ok x => match s.newHandle p.ctx (x.obj.kernels.length + 1) with
          | none => s.failPkt queue p 6 0 1
          | some h => match s.putData p.ctx x.data with
            | .error none => none
            | .error (some f) => s.failPkt queue p 11 f 1
            | .ok s =>
              let s := { s with objs := s.objs.put (hkey p.ctx h) x.obj }
              let s := s.modCtx p.ctx fun c => { c with hnd := h + x.obj.kernels.length + 1 }
              (s.consume queue p 0 h 0).finishPkt p 1

/-- A handle lies in an object. -/
def inObject (k : Nat) (o : Obj) (h : Nat) : Bool := decide (k % 65536 ≤ h) && decide (h ≤ k % 65536 + o.kernels.length)

/-- An address lies where an object's code or global data stands. -/
def Obj.holds (o : Obj) (va : Nat) : Bool := o.spans.any fun r => decide (r.1 ≤ va) && decide (va < r.1 + r.2)

/-- A bank refers into an object's storage: its kernel, a program counter that it keeps, or a row of a stream that it still
reads (R411). -/
def Obj.usedBy (o : Obj) (b : Bank) : Bool :=
  b.ctx == o.ctx &&
    ((match b.kern with | some x => o.kernels.contains x | none => false) ||
      ([b.pc.toNat, b.epc.toNat, b.enpc.toNat] ++ b.wait.toList.map (·.pc.toNat)).any o.holds ||
      b.streams.any fun e => (List.range 128).any fun i =>
        decide (e.2.row ≤ i) && o.holds ((e.2.va.toNat + i * e.2.str.toNat) % 2 ^ 64))

/-- Something refers into an object's storage (R411): a bound launch, a bound or saved bank, a graph whose newest generation
names it or any generation of which runs (R412), a reference of another loaded object. -/
def State.referenced (s : State) (k : Nat) (o : Obj) : Bool :=
  let runs := s.live ++ (s.launchqs.flatMap Prod.snd).filter (·.bound)
  let names (l : Launch) : Bool := l.ctx == o.ctx && match l.graph with
    | some (_, hs) => hs.any (inObject k o)
    | none => inObject k o l.hnd
  let gens (g : Nat × Graph) : List (List Nat) :=
    if runs.any fun l => l.graph.map Prod.fst == some g.1 then g.2.gens else g.2.gens.getLast?.toList
  runs.any names || s.bound.any o.usedBy || (s.saved.any fun e => o.usedBy e.1) ||
    (s.graphs.any fun g => g.2.ctx == o.ctx && (gens g).any fun hs => hs.any (inObject k o)) ||
    s.objs.any fun e => e.1 != k && e.2.ctx == o.ctx && e.2.live && e.2.uses.contains o.seq

/-- UNLOAD_PACKET: the object's handles are invalid at once; its storage goes now or when nothing refers to it (R411). -/
def execUnloadPacket (queue : Nat) (s : State) : Out :=
  s.readPkt queue (· == 3) fun s p =>
    let h := fld (p.d 3) 47 32
    match s.pktCode queue p (p.d 3 == h * 2 ^ 32 && p.d 4 == 0 && p.d 5 == 0 && p.d 6 == 0) with
    | some c => s.failPkt queue p c 0 1
    | none =>
      let k := hkey p.ctx h
      match s.objs.find k with
      | none => s.failPkt queue p 8 0 1
      | some o =>
        if !o.live then s.failPkt queue p 8 0 1
        else
          if s.referenced k o then
            some ({ s with objs := s.objs.put k { o with live := false, unload := some p.compl } }.consume queue p 9 h 0)
          else ({ s with objs := s.objs.del k }.consume queue p 0 h 0).finishPkt p 1

/-- UNLOAD_COMPLETE: the last reference to an unloaded object has gone, and its completion add is made (R411). -/
def execUnloadComplete (s : State) : Out :=
  let s := s.draw
  match s.objs.find? fun e => e.2.unload.isSome && !s.referenced e.1 e.2 with
  | none => .next s
  | some (k, o) => .next (({ s with objs := s.objs.del k }.complete o.ctx (o.unload.getD 0) 1).getD s)

/-- The handles of a list of 16-bit handles. -/
def handlesOf (n : Nat) (bs : List Byte) : List Nat := (List.range n).map fun i => leNat ((bs.drop (2 * i)).take 2)

/-- GRAPH_PACKET: a chain of images is registered under a new handle, or becomes a graph's next generation (R277, R412). -/
def execGraphPacket (queue : Nat) (s : State) : Out :=
  s.readPkt queue (· == 4) fun s p =>
    let n := fld (p.d 4) 15 0
    let g := fld (p.d 5) 47 32
    match s.pktCode queue p (p.d 3 % 2 == 0 && decide (p.d 3 < 2 ^ 56) && decide (1 ≤ n) && decide (n ≤ 256) &&
        p.d 4 / 2 ^ 17 == 0 && p.d 5 == g * 2 ^ 32 && p.d 6 == 0) with
    | some c => s.failPkt queue p c 0 1
    | none => match s.okraGet p.ctx (p.d 3) (2 * n) with
      | .error none => none
      | .error (some f) => s.failPkt queue p 11 f 1
      | .ok (s, bs) =>
        let hs := handlesOf n bs
        if hs.any fun h => (s.image p.ctx h true).isNone then s.failPkt queue p 8 0 1
        else if g ≠ 0 then match s.graphs.find (hkey p.ctx g) with
          | none => s.failPkt queue p 8 0 1
          | some x =>
            let s := { s with graphs := s.graphs.put (hkey p.ctx g) { x with gens := x.gens ++ [hs] } }
            (s.consume queue p 0 g 0).finishPkt p 1
        else match s.newHandle p.ctx 1 with
          | none => s.failPkt queue p 6 0 1
          | some h =>
            let s := { s with graphs := s.graphs.put (hkey p.ctx h) ⟨p.ctx, [hs], (p.d 4).testBit 16⟩ }
            let s := s.modCtx p.ctx fun c => { c with hnd := h + 1 }
            (s.consume queue p 0 h 0).finishPkt p 1

/-- REPLY_PACKET: a reply is carried out as CTXRUN with the holder as its target (R336, R407). -/
def execReplyPacket (queue : Nat) (s : State) : Out :=
  s.readPkt queue (· == 5) fun s p =>
    let w := p.d 3
    match s.pktCode queue p (fld w 47 4 == 0 && decide (fld w 3 0 ≤ 3) && p.d 4 == 0 && p.d 5 == 0 && p.d 6 == 0) with
    | some c => s.failPkt queue p c 0 1
    | none =>
      if fld w 3 0 = 0 then
        let r := s.runCtx p.ctx
        (r.1.consume queue p (rfld r.2 55 48) 0 0).finishPkt p 1
      else match s.reply p.ctx (fld w 63 48) (fld w 3 0 - 1) with
        | none => s.failPkt queue p 10 0 1
        | some s => (s.consume queue p 0 0 0).finishPkt p 1

/-! ### The host's accesses (R387, R401, R402, R422) -/

/-- An answer of the device on its link. -/
def State.answer (s : State) (abort poison : Bool) (data : List Byte) : State :=
  { s with hostOut := s.hostOut ++ [⟨s.hostOut.length, abort, poison, data⟩] }

/-- The entries with V = 1 of a stage-1 table of `n` entries, at a context-physical address: memory lists every byte that is
not 0 (R224). -/
def State.validEntries (s : State) (ctx table n : Nat) : List Nat :=
  (List.range ((table + 8 * n + 65535) / 65536 - table / 65536)).flatMap fun i =>
    let page := table / 65536 + i
    match s.stage2 ctx (page * 65536) with
    | none => []
    | some (pa, _) =>
      let lo := max table (page * 65536) - page * 65536 + s.canon pa
      let hi := min (table + 8 * n) (page * 65536 + 65536) - page * 65536 + s.canon pa
      (s.mem.filter fun c => decide (lo ≤ c.1) && decide (c.1 < hi) && c.1 % 8 == 7 && c.2.getLsbD 7).map fun c =>
        s.gNat (c.1 - 7) 8

/-- Stage 1 of a context holds a leaf with a bit of its entry set, CONF (53) or VER (54), over one of some context-physical
pages (R224, R226). -/
def State.leafWith (s : State) (bit ctx : Nat) (pages : List Nat) : Nat → Nat → Nat → Bool
  | 0, _, _ => false
  | fuel + 1, level, table =>
    (s.validEntries ctx table (match level with | 0 => 2 ^ 17 | 3 => 32 | _ => 512)).any fun e =>
      if e.testBit 5 then
        leafOk level e && e.testBit bit && pages.any fun p =>
          decide (fld e 51 16 ≤ p) && decide (p * 65536 < fld e 51 16 * 65536 + 2 ^ pageBits level)
      else tableOk level e && State.leafWith s bit ctx pages fuel (level + 1) (fld e 51 8 * 256)

/-- Some context's stage 1 has such a leaf over a 64 KiB frame. -/
def State.frameWith (s : State) (bit frame : Nat) : Bool :=
  s.ctxs.any fun e =>
    let pages := if e.1 = 0 then [frame] else (e.2.s2.filter fun l => l.2.frame == frame).map Prod.fst
    !pages.isEmpty && s.leafWith bit e.1 pages 4 0 (rfld e.2.s1r 51 20 * 2 ^ 20)

/-- A 64 KiB frame that some context holds as a CONF page, by its stage 2 or its stage 1 (R224, R226, R321). -/
def State.confFrame (s : State) (frame : Nat) : Bool :=
  s.ctxs.any (fun e => e.2.s2.any fun l => l.2.frame == frame && l.2.conf) || s.frameWith 53 frame

/-- Host traffic of a function reaches a frame: a CONF page only while its TDI is in RUN, on its stream with the T bit
(R402). -/
def State.hostMay (s : State) (vf frame : Nat) (tee : Bool) : Bool :=
  !s.confFrame frame || (vf != 0 && tee && s.tdis.get .unlocked vf == .run)

/-- The device memory that a function's address names: the root's for the physical function, and the function's context's
for a virtual one, through its stage 2 (R323, R401). -/
def State.hostPa (s : State) (vf addr : Nat) (wr : Bool) : Option Nat :=
  if vf = 0 then (if inHbm addr then some addr else none)
  else match s.vfs.find vf with
    | none => none
    | some n => match s.stage2 n addr with
      | some (pa, l) => if (if wr then l.wp else l.rp) && inHbm pa then some pa else none
      | none => none

/-- The first byte of the physical function's BAR0 in the numbering of `HostReq` (DESIGN CHOICE, log entry 30). -/
def bar0 : Nat := 2 ^ 60

/-- A register of BAR0, by offset (R403, R413, R415, R417). -/
def State.barRead (s : State) (o : Nat) : DWord :=
  if o = 0x1000 then s.sdr
  else if o = 0x1008 then s.sdh.setWidth 64
  else if o = 0x2000 then s.pkgid
  else if o = 0x2008 then s.vpool
  else if o = 0x2010 then s.stst
  else if 0x2100 ≤ o ∧ o < 0x2280 then s.klp.get 0 ((o - 0x2100) / 8)
  else if 0x100000 ≤ o ∧ o < 0x104000 then
    (if o % 16 = 0 then (s.uq ((o - 0x100000) / 16)).d0 else (s.uq ((o - 0x100000) / 16)).ridx.setWidth 64)
  else 0

/-- The first byte of BAR2 in the same numbering: each function has its own (R403). -/
def bar2 : Nat := 2 ^ 61

/-- A write of a register of BAR0 (R403, R413, R415 to R417): RPL of a port clears. -/
def State.barWrite (s : State) (o : Nat) (v : Nat) : Out :=
  let d : DWord := .ofNat 64 v
  if o = 0x1000 then execSdrWrite d s
  else if o = 0x2008 then execVpoolWrite d s
  else if 0x100000 ≤ o ∧ o < 0x104000 then execUqdWrite ((o - 0x100000) / 16) (o % 16 ≠ 0) d s
  else if 0x2100 ≤ o ∧ o < 0x2280 then
    .next { s with klp := s.klp.upd 0 ((o - 0x2100) / 8) fun r => .ofNat 64 (r.toNat &&& (r.toNat ^^^ (v % 2 ^ 32 &&& r.toNat))) }
  else .next s

/-- Lines of a range of bytes of memory. -/
def linesOf (pa n : Nat) : List Nat := if n = 0 then [] else (List.range ((pa + n - 1) / 128 - pa / 128 + 1)).map fun i => pa / 128 + i

/-- The old versions of some lines of versioned pages that a write of the host keeps: such a write is a plain write, as those
of R304 are (assumption log, entry 109); a full pool refuses it with POOL. -/
def State.hostVersions (s : State) (lines : List Nat) : Except WalkFault State :=
  lines.foldl (fun r l => match r with
    | .ok t => if t.frameWith 54 (l / 512) then t.versionFor l else .ok t
    | .error f => .error f) (.ok s)

/-- Bytes that the host writes at their home, and the dirty bit of the function's page (R341, R401, R422); none where the
version pool is full. -/
def State.hostPut (s : State) (vf addr pa : Nat) (bs : List Byte) : Option State :=
  match s.hostVersions (linesOf pa bs.length) with
  | .error _ => none
  | .ok s =>
    let clean := (linesOf pa bs.length).filter fun l => decide (pa ≤ 128 * l) && decide (128 * l + 128 ≤ pa + bs.length)
    let s := s.gPut pa bs
    let s := { s with poison := s.poison.filter fun l => !clean.contains l }
    some (match s.vfs.find vf with
      | some c => s.modCtx c fun x => match x.s2.find (addr / 65536) with
        | some l => if l.dt then { x with s2 := x.s2.put (addr / 65536) { l with d := true } } else x
        | none => x
      | none => s)

/-- HOST_MEMORY_ACCESS: a read or write of the host on device memory, performed at its home, or on a register of BAR0 or a
doorbell of BAR2; what the function may not reach ends in a completer abort (R387, R402, R403, R419, R422). -/
def execHostMemoryAccess (req : HostReq) (s : State) : Out :=
  if bar2 ≤ req.addr then
    let o := req.addr - bar2
    if !req.write then .next (s.answer false false (toBytes 8 0))
    else if o % 4096 = 0 ∧ o < 2 ^ 22 then execUqnNotify (1024 * req.vf + o / 4096) (.ofNat 32 (leNat req.data)) s
    else .next s
  else if bar0 ≤ req.addr then
    let o := req.addr - bar0
    if req.vf ≠ 0 then .next (s.answer true false [])
    else if req.write then s.barWrite o (leNat req.data)
    else .next (s.answer false false (toBytes 8 (s.barRead o).toNat))
  else if !s.started then .next (s.answer true false [])
  else
    let n := if req.write then req.data.length else req.len
    match s.hostPa req.vf req.addr req.write with
    | none => .next (s.answer true false [])
    | some pa =>
      if pa % 65536 + n > 65536 ∨ !s.hostMay req.vf (pa / 65536) req.tee then .next (s.answer true false [])
      else if req.write then .next ((s.hostPut req.vf req.addr pa req.data).getD (s.answer true false []))
      else .next (s.answer false ((linesOf pa n).any s.poison.contains) (s.seen pa n))

/-- A PCIe AtomicOp at its home: the old value is answered (R219, R401, R402). The function's page allows a read and a
write. -/
def State.atomicOp (s : State) (r : AtomicReq) (op x y : Nat) : State :=
  match s.hostPa r.vf r.addr true with
  | none => s.answer true false []
  | some pa =>
    if pa % 8 ≠ 0 ∨ s.hostPa r.vf r.addr false = none ∨ !s.started ∨ !s.hostMay r.vf (pa / 65536) r.tee then s.answer true false []
    else
      let old := leNat (s.seen pa 8)
      if s.gPoison pa then s.answer false true (toBytes 8 old)
      else match s.hostPut r.vf r.addr pa (toBytes 8 (atomicNew op 8 false old x y)) with
        | some s => s.answer false false (toBytes 8 old)
        | none => s.answer true false []

/-- FETCHADD (R401). -/
def execFetchadd (req : AtomicReq) (val : BitVec 64) (s : State) : Out := .next (s.atomicOp req 0 val.toNat 0)

/-- SWAP (R401). -/
def execSwap (req : AtomicReq) (val : BitVec 64) (s : State) : Out := .next (s.atomicOp req 6 val.toNat 0)

/-- CAS (R401). -/
def execCas (req : AtomicReq) (cmp val : BitVec 64) (s : State) : Out := .next (s.atomicOp req 7 val.toNat cmp.toNat)

/-! ### SPDM (R401, R420) -/

/-- An SPDM answer: the bytes are laid out by the standard, which is outside the spec (R401). -/
def State.spdm (s : State) (req : Nat) (data : List Byte) : State :=
  if s.started then s.answer false false (data ++ Config.spdm req s.pkgid) else s

/-- GET_VERSION (R401). -/
def execGetVersion (s : State) : Out := .next (s.spdm 0 [])

/-- GET_CAPABILITIES (R401). -/
def execGetCapabilities (s : State) : Out := .next (s.spdm 1 [])

/-- NEGOTIATE_ALGORITHMS (R401). -/
def execNegotiateAlgorithms (s : State) : Out := .next (s.spdm 2 [])

/-- GET_DIGESTS (R401). -/
def execGetDigests (s : State) : Out := .next (s.spdm 3 [])

/-- GET_CERTIFICATE (R401). -/
def execGetCertificate (s : State) : Out := .next (s.spdm 4 [])

/-- CHALLENGE (R401). -/
def execChallenge (s : State) : Out := .next (s.spdm 5 [])

/-- GET_MEASUREMENTS reports MR0 to MR7 as indices 1 to 8, signed by the identity key (R420). -/
def execGetMeasurements (s : State) : Out :=
  .next (s.spdm 6 ((List.range 8).flatMap fun i => toBytes 64 (s.mrs.get 0 i).toNat))

/-- KEY_EXCHANGE (R401). -/
def execKeyExchange (s : State) : Out := .next (s.spdm 7 [])

/-- FINISH (R401). -/
def execFinish (s : State) : Out := .next (s.spdm 8 [])

end Sys2Proof.Machine
end

