-- ==== Sys2Proof/Machine/Package.lean ====
section
/-! DEFINITION. The package (R345, R374, R415 to R423): uncorrectable errors, the fabric link, starts and the loss of
power. -/

namespace Sys2Proof.Machine

open Sys2Proof

/-! ### Starts (R374, R415, R418 to R420) -/

/-- A START (R419): with no step failing, every register takes its reset value, memory keeps its contents when the start is
warm, and the root context runs; at a failing step the start stops with its code, and what the registers hold then nothing
but STST shows (assumption log, entry 110). -/
def State.start (s : State) (warm : Bool) : State :=
  let base := { State.reset with
    mem := if warm then s.mem else []
    poison := if warm then s.poison else []
    remote := s.remote
    boot := s.boot
    hostOut := s.hostOut
    agenda := s.agenda
    fresh := s.fresh + 1 }
  let f := s.boot.failed warm
  if f = 0 then
    { base with
      pkgid := .ofNat 64 (pack [(48, 0), (8, s.boot.field 42 2), (8, s.boot.field 40 2)])
      stst := .ofNat 64 (pack [(1, 1), (1, warm.toNat), (62, 0)])
      mrs := (List.range 4).foldl (fun m n => m.set 0 n (s.boot.mr n)) ([] : Smap (BitVec 512)) }
  else { base with ctxs := [], stst := .ofNat 64 (pack [(1, 0), (1, warm.toNat), (6, 0), (8, f), (48, 0)]) }

/-- COLD_START: power is applied (R419). -/
def execColdStart (s : State) : Out := .next (s.start false)

/-- WARM_START: a conventional reset with power kept, or a package reset (R419). -/
def execWarmStart (s : State) : Out := .next (if s.power then s.start true else s)

/-- POWER_LOSS: every register and store loses its contents (R374). -/
def execPowerLoss (s : State) : Out :=
  .next { State.reset with
    ctxs := []
    stst := 0
    power := false
    remote := s.remote
    boot := s.boot
    hostOut := s.hostOut
    agenda := s.agenda
    fresh := s.fresh + 1 }

/-! ### Errors and the fabric (R345, R417, R422) -/

/-- SRAM_UNCORRECTABLE: the context that owns the bank slot and its subtree become DEAD, with a record to the search at its
parent; an error of the root's state resets the package, and so does one of the command processor's cores, 128 and 144, or
of Okra's and the grants' tables, which any other number from 128 on stands for (R345). -/
def execSramUncorrectable (core : Nat) (slotB : Bool) (s : State) : Out :=
  let s := s.draw
  if 128 ≤ core then .next (s.start true)
  else match s.bound.find? fun b => b.core == core && b.slotB == slotB with
  | none => .next s
  | some b =>
    if b.ctx = 0 then .next (s.start true)
    else
      let mine (k : Nat) : Bool := s.within b.ctx 9 k
      let s := s.spoilSram core slotB
      let t := (s.focus b.key).record ⟨17, 0, 0, 0, 0, .ofNat 64 b.key, false, .after, false, none⟩ false
      let r := t.recs.drop s.recs.length
      let t := (t.killAll mine).discard mine
      .next { t with
        recs := t.recs ++ r
        ctxs := List.map (fun (e : Nat × Ctx) => if mine e.1 then (e.1, { e.2 with st := CtxSt.dead }) else e) t.ctxs }

/-- The packet of a queue whose next access is on its way to another package: the packet, whether the access would fault as a
write, and the access. Those before it have been performed (R228). -/
def State.away (s : State) (q : Queue) : Option (Pkt × Bool × Posted) :=
  match q.pkts.find? fun p => p.started && !p.done with
  | none => none
  | some p => match p.posted with
    | [] => none
    | w :: _ =>
      let reads := p.rmw.isSome || w.cred.isSome || (match p.kind with | .gld _ => true | _ => false)
      if foreign (s.canon (Leaf.pa w.leaf w.va)) then some (p, !reads, w) else none

/-- The queues of a bank that have an access on its way to another package. -/
def State.awayQueues (s : State) (b : Bank) : List (Nat × Pkt × Bool × Posted) :=
  b.queues.filterMap fun e => (s.away e.2).map (e.1, ·)

/-- A port has gone down: every access in flight through it faults with cause LINK (R417). Which port carries an access is
unspecified, so that each on its way to another package is lost or not by a free choice; with no port up it faults at its
next step (R231). -/
def State.portLost (s : State) (port : Nat) : State :=
  ((s.bound.filter fun b => !(s.awayQueues b).isEmpty).map (·.key)).foldl (fun s key =>
    let s := s.focus key
    (s.awayQueues s.b).foldl (fun s (k, p, wr, w) =>
      if s.pick 2 [417, port, key, k] = 0 then
        let back (x : Pkt) : Pkt := if x.id = p.id then x.rewind w else x
        (s.setPkts k ((s.b.queues.get .empty k).pkts.map back)).copyFault k p.reg p.far.isSome (.of 6) wr w.va
      else s) s) s

/-- FLIT_ARRIVAL: a flit with a failed check is replayed, and after eight failed replays its port is down and what is in
flight through it faults; a good flit shows a trained port, and one that carries a poisoned line leaves the line poison
(R417, R422). -/
def execFlitArrival (port : Nat) (crcOk poison : Bool) (target : Nat) (s : State) : Out :=
  let s := s.draw
  if port ≥ 48 then .next s
  else
    let r := s.klp.get 0 port
    if crcOk then
      let r := if r.getLsbD 63 then r else setFld (setFld r 63 63 1) 62 55 (s.undef 8 [417, port])
      let s := { s with klp := s.klp.put port r, replays := s.replays.del port }
      let line := s.canon target / 128
      .next (if poison then { s with poison := line :: s.poison.filter (· != line) } else s)
    else if !r.getLsbD 63 then .next s
    else
      let n := s.replays.get 0 port
      if n ≥ 8 then
        .next (({ s with klp := s.klp.put port (setFld r 63 63 0), replays := s.replays.del port } : State).portLost port)
      else .next { s with
        klp := s.klp.put port (setFld r 31 0 (min (2 ^ 32 - 1) (rfld r 31 0 + 1)))
        replays := s.replays.put port (n + 1) }

end Sys2Proof.Machine
end

