-- ==== Sys2Proof/Machine/Landing.lean ====
section
/-! DEFINITION. The landing of results (R68, R69, R141). -/

namespace Sys2Proof.Machine

open Sys2Proof

/-- A result has come to its cycle; writes of system registers have moves of their own (R351). -/
def Pend.ripe (p : Pend) (now : Nat) : Bool := decide (p.due ≤ now) && match p.loc with | .sys _ => false | _ => true

/-- One result lands: a release moves its buffer's counters, and everything else is written to its register (R68, R141). -/
def Bank.landOne (b : Bank) (p : Pend) : Bank :=
  match p.loc with
  | .cbrel col buf w => b.cbrel (8 * col + buf) w
  | _ => b.land p

/-- The counters of a buffer move. -/
def Pend.moves (p : Pend) : Bool := match p.loc with | .cbrel .. => true | _ => false

/-- RESULT_LAND: the stores and results of a bank whose bound has passed are present (R68, R69). A flag that a result and a
buffer reach in one cycle holds the buffer's value (R105). -/
def execResultLand (bank : Nat) (s : State) : Out :=
  let s := (s.draw.focus bank).landStores
  let now := s.now
  let ripe := s.b.pend.filter (·.ripe now)
  let order := ripe.filter (fun p => !p.moves) ++ ripe.filter (·.moves)
  .next (s.modB fun b => order.foldl Bank.landOne { b with pend := b.pend.filter fun p => !(p.ripe now) })

end Sys2Proof.Machine
end

