-- ==== Sys2Proof/Machine/Syllables.lean ====
section
/-! DEFINITION. The syllables of a bundle by their meanings (R50, R52): what one issue of a syllable does to the state. -/

namespace Sys2Proof.Machine

open Sys2Proof

/-- One issue of a syllable, by the form's own meaning; a move of another agent stands in no bundle. -/
def State.sylOut (s : State) (i : Instr) : Out :=
  match i with
  | .bundleIssue _ => .next s
  | .asyncAbort _ => .next s
  | .waitSyllableExecute _ _ _ => .next s
  | .resultLand _ => .next s
  | .latchUpdate _ => .next s
  | .segmentExpand _ => .next s
  | .fairnessExpiry _ => .next s
  | .barrierArrival _ => .next s
  | .barrierComplete _ => .next s
  | .farRead _ _ => .next s
  | .farDataArrival _ _ => .next s
  | .farLoadLand _ => .next s
  | .gldFault _ => .next s
  | .xOpStart _ _ => .next s
  | .tileRelease _ _ => .next s
  | .mmasRow _ _ => .next s
  | .packetStart _ _ _ => .next s
  | .packetGranule _ _ _ => .next s
  | .packetComplete _ _ _ => .next s
  | .atomicPerform _ _ _ => .next s
  | .cmtCommit _ => .next s
  | .txcCommit _ => .next s
  | .tkwaitRetire _ => .next s
  | .tqputComplete _ => .next s
  | .tqgetComplete _ => .next s
  | .tqrelComplete _ => .next s
  | .fenceRetire _ => .next s
  | .cwaitRetire _ => .next s
  | .drainRetire _ => .next s
  | .postEnqueue _ => .next s
  | .launchEnqueue _ => .next s
  | .launchBind _ _ => .next s
  | .taskDispatch _ _ _ => .next s
  | .bankSwitch _ => .next s
  | .shareWindowSwitch _ _ => .next s
  | .watchdogExpiry _ _ => .next s
  | .handlerForcedEntry _ => .next s
  | .settleComplete _ => .next s
  | .droopDetect _ => .next s
  | .powerGrant _ => .next s
  | .thermalTrip _ _ => .next s
  | .mcldLoad _ => .next s
  | .softError _ => .next s
  | .sramUncorrectable _ _ => .next s
  | .cbcWrite _ _ _ _ => .next s
  | .s1rWrite _ _ => .next s
  | .tqcWrite _ _ => .next s
  | .trrWrite _ _ => .next s
  | .vpoolWrite _ => .next s
  | .registerWrite _ _ _ => .next s
  | .uqnNotify _ _ => .next s
  | .uqdWrite _ _ _ => .next s
  | .launchPacket _ => .next s
  | .loadPacket _ => .next s
  | .unloadPacket _ => .next s
  | .graphPacket _ => .next s
  | .replyPacket _ => .next s
  | .hostMemoryAccess _ => .next s
  | .fetchadd _ _ => .next s
  | .swap _ _ => .next s
  | .cas _ _ _ => .next s
  | .functionLevelReset _ => .next s
  | .flitArrival _ _ _ _ => .next s
  | .add c rd ra i b => execAdd c rd ra i b s
  | .sub c rd ra i b => execSub c rd ra i b s
  | .mul c rd ra i b => execMul c rd ra i b s
  | .mulh c rd ra i m b => execMulh c rd ra i m b s
  | .div c rd ra i m b => execDiv c rd ra i m b s
  | .rem c rd ra i m b => execRem c rd ra i m b s
  | .and c rd ra i b => execAnd c rd ra i b s
  | .or c rd ra i b => execOr c rd ra i b s
  | .xor c rd ra i b => execXor c rd ra i b s
  | .andn c rd ra i b => execAndn c rd ra i b s
  | .shl c rd ra i b => execShl c rd ra i b s
  | .shr c rd ra i b => execShr c rd ra i b s
  | .sra c rd ra i b => execSra c rd ra i b s
  | .min c rd ra i m b => execMin c rd ra i m b s
  | .max c rd ra i m b => execMax c rd ra i m b s
  | .sel c rd ra rb fs => execSel c rd ra rb fs s
  | .clz c rd ra => execClz c rd ra s
  | .popc c rd ra => execPopc c rd ra s
  | .movi c rd imm => execMovi c rd imm s
  | .movhi c rd imm => execMovhi c rd imm s
  | .cmp c fd cc ra i b => execCmp c fd cc ra i b s
  | .ext c rd ra wc sg bo => execExt c rd ra wc sg bo s
  | .br c bi bf off => execBr c bi bf off s
  | .jmp c off => execJmp c off s
  | .jmpi c ra disp => execJmpi c ra disp s
  | .call c off => execCall c off s
  | .ret c ra => execRet c ra s
  | .loopImm c cnt fin => execLoopImm c cnt fin s
  | .loopReg c ra fin => execLoopReg c ra fin s
  | .loopbrk c n => execLoopbrk c n s
  | .lidx c rd cnt lv => execLidx c rd cnt lv s
  | .seghint c off => execSeghint c off s
  | .fset c mask => execFset c mask s
  | .fclr c mask => execFclr c mask s
  | .fop c fd fa fb tt => execFop c fd fa fb tt s
  | .vcwld c idx ra cnt => execVcwld c idx ra cnt s
  | .gmset c gn ra => execGmset c gn ra s
  | .tkwait c cell ra => execTkwait c cell ra s
  | .tkadv c cell inc => execTkadv c cell inc s
  | .tkset c cell ra => execTkset c cell ra s
  | .tqput c die tq rb => execTqput c die tq rb s
  | .tqget c die tq rd => execTqget c die tq rd s
  | .tqrel c die tq => execTqrel c die tq s
  | .fence c cls => execFence c cls s
  | .post c sp pri => execPost c sp pri s
  | .launch c sp pri => execLaunch c sp pri s
  | .spat c rd lv k => execSpat c rd lv k s
  | .sqid c rd => execSqid c rd s
  | .tend c => execTend c s
  | .chk c off => execChk c off s
  | .cmt c => execCmt c s
  | .abt c code => execAbt c code s
  | .gclr c => execGclr c s
  | .asrt c code => execAsrt c code s
  | .rgst c rd => execRgst c rd s
  | .txb c off => execTxb c off s
  | .txc c rd => execTxc c rd s
  | .snap c => execSnap c s
  | .snape c => execSnape c s
  | .ctxnew c rd ra => execCtxnew c rd ra s
  | .ctxdel c rd ra => execCtxdel c rd ra s
  | .ctxcore c sp rd ra => execCtxcore c sp rd ra s
  | .ctxmem c sp rd ra => execCtxmem c sp rd ra s
  | .ctxq c sp rd ra => execCtxq c sp rd ra s
  | .ctxbud c sp rd ra => execCtxbud c sp rd ra s
  | .ctxrunRun c rd ra rb => execCtxrunRun c rd ra rb s
  | .ctxrunRetry c rd ra rb => execCtxrunRetry c rd ra rb s
  | .ctxrunRefuse c rd ra rb => execCtxrunRefuse c rd ra rb s
  | .ctxrunSkip c rd ra rb => execCtxrunSkip c rd ra rb s
  | .ctxstop c sp rd ra => execCtxstop c sp rd ra s
  | .ctxrev c rd ra => execCtxrev c rd ra s
  | .ctxdlg c rd ra rb => execCtxdlg c rd ra rb s
  | .ctxrd c rd ra rb => execCtxrd c rd ra rb s
  | .ctxsaveSave c sp rd ra => execCtxsaveSave c sp rd ra s
  | .ctxsaveRestore c sp rd ra => execCtxsaveRestore c sp rd ra s
  | .shoot c rd ra rb => execShoot c rd ra rb s
  | .trap c n => execTrap c n s
  | .eret c => execEret c s
  | .sysrd c rd num => execSysrd c rd num s
  | .syswr c rb num => execSyswr c rb num s
  | .pwracq c ra => execPwracq c ra s
  | .pwrrel c => execPwrrel c s
  | .feat c rd w => execFeat c rd w s
  | .cyc c rd k => execCyc c rd k s
  | .tbase c ra => execTbase c ra s
  | .halt c => execHalt c s
  | .brk c code => execBrk c code s
  | .mcld c rd ra => execMcld c rd ra s
  | .microcodeS c ent arg => execMicrocodeS c ent arg s
  | .ld c rs ar fmt ofs => execLd c rs ar fmt ofs s
  | .st c rs ar sz ofs => execSt c rs ar sz ofs s
  | .ldv c vc vr ar ofs => execLdv c vc vr ar ofs s
  | .stv c vc vr ar ofs => execStv c vc vr ar ofs s
  | .gath c vc vr ar ew sg => execGath c vc vr ar ew sg s
  | .scat c vc vr ar ew => execScat c vc vr ar ew s
  | .spld c rs off => execSpld c rs off s
  | .spst c rs off => execSpst c rs off s
  | .fld c rs ar fmt arr => execFld c rs ar fmt arr s
  | .fldv c vc vr ar arr => execFldv c vc vr ar arr s
  | .cbrdVector c vc vr cb off => execCbrdVector c vc vr cb off s
  | .cbrdAddress c ar tl cb => execCbrdAddress c ar tl cb s
  | .cbrel c cb => execCbrel c cb s
  | .adrsetImm c ar imm => execAdrsetImm c ar imm s
  | .adrsetReg c ar rs => execAdrsetReg c ar rs s
  | .adraddImm c ar imm => execAdraddImm c ar imm s
  | .adraddReg c ar rs => execAdraddReg c ar rs s
  | .scld c xs ar all ofs => execScld c xs ar all ofs s
  | .ldgScalar c rs ar fmt d => execLdgScalar c rs ar fmt d s
  | .ldgVector c vc vr ar d => execLdgVector c vc vr ar d s
  | .cpyIn c q sp ce co => execCpyIn c q sp ce co s
  | .cpyOut c q sp ce co => execCpyOut c q sp ce co s
  | .cpyg c q sp ce co => execCpyg c q sp ce co s
  | .cpyb c q sp ce co cb => execCpyb c q sp ce co cb s
  | .fill c q sp ce co => execFill c q sp ce co s
  | .cred c q sp ce co rop fmt => execCred c q sp ce co rop fmt s
  | .gld c q rd ra sz aq arr => execGld c q rd ra sz aq arr s
  | .gst c q rb ra sz rl => execGst c q rb ra sz rl s
  | .aadd c q sp rd sz ord arr => execAadd c q sp rd sz ord arr s
  | .amin c q sp rd sz sg ord arr => execAmin c q sp rd sz sg ord arr s
  | .amax c q sp rd sz sg ord arr => execAmax c q sp rd sz sg ord arr s
  | .aand c q sp rd sz ord arr => execAand c q sp rd sz ord arr s
  | .aor c q sp rd sz ord arr => execAor c q sp rd sz ord arr s
  | .axor c q sp rd sz ord arr => execAxor c q sp rd sz ord arr s
  | .axch c q sp rd sz ord arr => execAxch c q sp rd sz ord arr s
  | .acas c q sp rd sz ord arr => execAcas c q sp rd sz ord arr s
  | .csigCounter c q co ra => execCsigCounter c q co ra s
  | .csigAddress c q ra => execCsigAddress c q ra s
  | .cwaitReg c co sb ra => execCwaitReg c co sb ra s
  | .cwaitImm c co sb imm => execCwaitImm c co sb imm s
  | .drain c sc => execDrain c sc s
  | .qadd c ql cls lm => execQadd c ql cls lm s
  | .qmax c ql cls lm => execQmax c ql cls lm s
  | .qmin c ql cls lm => execQmin c ql cls lm s
  | .qdrn c ql rd cl => execQdrn c ql rd cl s
  | .qclr c ql iv lm => execQclr c ql iv lm s
  | .mma c t qd aa ab fa fb ncm z ps => execMma c t qd aa ab fa fb ncm z ps s
  | .mmas c t qd sp ab fa fb ncm z => execMmas c t qd sp ab fa fb ncm z s
  | .tzero c t qd => execTzero c t qd s
  | .tld c t qd ar fmt ps => execTld c t qd ar fmt ps s
  | .tst c t qd ar fmt xs sat ps => execTst c t qd ar fmt xs sat ps s
  | .tadd c t qd ta src => execTadd c t qd ta src s
  | .tmov c t qd ta => execTmov c t qd ta s
  | .trow c rd cl => execTrow c rd cl s
  | .vadd e => execVadd e s
  | .vsub e => execVsub e s
  | .vmul e => execVmul e s
  | .vfma e => execVfma e s
  | .vfms e => execVfms e s
  | .vmin e => execVmin e s
  | .vmax e => execVmax e s
  | .vabs e => execVabs e s
  | .vneg e => execVneg e s
  | .vand e => execVand e s
  | .vor e => execVor e s
  | .vxor e => execVxor e s
  | .vshl e => execVshl e s
  | .vshr e => execVshr e s
  | .vsra e => execVsra e s
  | .vcmp e => execVcmp e s
  | .vsel e => execVsel e s
  | .vcvt e => execVcvt e s
  | .vqbfp e => execVqbfp e s
  | .vxbfp e => execVxbfp e s
  | .vrcp e => execVrcp e s
  | .vrsq e => execVrsq e s
  | .vexp2 e => execVexp2 e s
  | .vlog2 e => execVlog2 e s
  | .vtanh e => execVtanh e s
  | .vperm e => execVperm e s
  | .vxc e => execVxc e s
  | .vbc e => execVbc e s
  | .vext e => execVext e s
  | .viota e => execViota e s
  | .vscan e => execVscan e s
  | .vflg e => execVflg e s
  | .microcodeVcw e ent => execMicrocodeVcw e ent s
  | .cwaitTimeout _ => .next s
  | .tdispRequest _ _ => .next s
  | .vfEnable _ _ => .next s
  | .sdrWrite _ => .next s
  | .savedBankBind _ _ => .next s
  | .trapRecordWrite => .next s
  | .versionCollect => .next s
  | .ticketUpdatePerform => .next s
  | .launchComplete => .next s
  | .contextFormComplete => .next s
  | .shootdownProcess => .next s
  | .unloadComplete => .next s
  | .getVersion => .next s
  | .getCapabilities => .next s
  | .negotiateAlgorithms => .next s
  | .getDigests => .next s
  | .getCertificate => .next s
  | .challenge => .next s
  | .getMeasurements => .next s
  | .keyExchange => .next s
  | .finish => .next s
  | .coldStart => .next s
  | .warmStart => .next s
  | .powerLoss => .next s
  | .bucketRefill => .next s

/-- The state after one issue of a syllable. -/
def State.sylExec (s : State) (i : Instr) : State :=
  match s.sylOut i with
  | .next t => t
  | _ => s

end Sys2Proof.Machine
end

