-- ==== Sys2Proof/Machine/Issue.lean ====
section
/-! DEFINITION. The issue of bundles (R47 to R52, R57, R108, R115, R124, R190, R206, R273 to R276, R282, R283, R352 to
R354, R367, R371): the legality of a bundle, hold and repeat, stalls, the causes and aborts of one issue, its effects,
retirement, wait bundles, and the merge of the two banks of a sequencer. -/

namespace Sys2Proof.Machine

open Sys2Proof

/-- A syllable of one issue: its place, its stepping number and vector slide, whether it re-issues by hold, and the form
that executes. -/
structure Work where
  col   : Nat
  slot  : Nat
  j     : Nat
  slide : Nat
  held  : Bool
  ins   : Instr
  deriving DecidableEq, Repr

/-- The free values of a syllable are drawn at its place in the issue. -/
def State.at_ (s : State) (base : Nat) (w : Work) : State :=
  { s with cur := { s.cur with col := w.col, slot := w.slot, j := w.j, slide := w.slide }, fresh := base + 8 * w.col + w.slot }

/-- The form that a syllable executes: a vector syllable names an entry of the table (R44). -/
def State.resolve (s : State) (base key j : Nat) (held : Bool) (y : Syl) : Option Work :=
  match y with
  | .op i => some ⟨key / 8, key % 8, j, 0, held, i⟩
  | .vec _ idx slide =>
    let w : Work := ⟨key / 8, key % 8, j, slide.toNat, held, .tend ⟨false, 0, false⟩⟩
    (decode? .vcw ((s.at_ base w).rvcw idx.toNat).toNat).map fun i => { w with ins := i }

/-! ### Legality (R47, R48, R57, R182, R186, R282) -/

/-- The control-flow syllables (R61). -/
def Instr.isFlow : Instr → Bool
  | .br .. | .jmp .. | .jmpi .. | .call .. | .ret .. | .loopImm .. | .loopReg .. | .loopbrk .. | .tend _ | .trap .. | .eret _
  | .halt _ | .brk .. => true
  | _ => false

/-- The six region forms that stand alone of their kind in an unrepeated bundle (R282). -/
def Instr.isRegionForm : Instr → Bool
  | .chk .. | .cmt _ | .txb .. | .txc .. | .snap _ | .snape _ => true
  | _ => false

/-- CHK and TXB, which open a region (R283). -/
def Instr.opens : Instr → Bool
  | .chk .. | .txb .. => true
  | _ => false

/-- The hold bit of a syllable. -/
def Syl.hold : Syl → Bool
  | .op i => match Instr.ctl i with | some c => c.h | none => false
  | .vec h _ _ => h

/-- The header conditions of R47; LIVE must name a list that the bound image declares. -/
def State.headerOk (s : State) (h : BHdr) : Bool :=
  h.low == 0 && (h.opc || h.opp == 0) && (h.safe || h.yld || h.live == 0) &&
    (h.live == 0 || match s.b.kern with | some k => k.live.any fun e => e.1 == h.live | none => false) &&
    (h.rep == 0 || !(h.wait || h.safe || h.yld || h.sync != 0 || h.opc))

/-- Columns strictly rise; every group has a slot and clear low bits, and the last is marked (R42, R47). The length of a
bundle whose groups are not so is unknown (R355). -/
def groupsOk : List Group → Bool
  | [] => true
  | [g] => g.tmpl != 0 && g.low == 0 && g.stop
  | g :: g' :: gs => decide (g.col < g'.col) && g.tmpl != 0 && g.low == 0 && groupsOk (g' :: gs)

/-- The present syllables of a bundle by 8 × column + slot, in template order; none stands for one that is no instruction
of its slot (R47). -/
def Bundle.slots (x : Bundle) : List (Nat × Option Syl) :=
  (x.groups.flatMap fun g => g.syls.map fun e => (8 * g.col + e.1, e.2)).map fun e =>
    match decodeSlot (slotOf (e.1 % 8)) e.2 with
    | .ok y => (e.1, some y)
    | .error _ => (e.1, none)

/-- A syllable of a column beyond the mode, that is no instruction, or that stands where its form may not (R47, R282). -/
def sylBad (cols : Nat) (h : BHdr) (e : Nat × Option Syl) : Bool :=
  let once := h.rep == 0 && !h.wait
  decide (e.1 / 8 ≥ cols) || match e.2 with
  | none => true
  | some y => (h.wait && Syl.hold y) || match y with
    | .op i => (Instr.isFlow i && !(e.1 / 8 == 0 && once)) || (Instr.isRegionForm i && !once)
    | .vec .. => false

/-- The bundle would be the 513th of its segment, or extend beyond byte 4,096 of it (R57), counted from the bundle from which
the half in issue was expanded. The first 2,048 bytes of a segment cannot break a limit. The limit is tested on bundles: a
trailer that lies past it is followed (assumption log, entry 104). -/
def State.pastLimit (s : State) (len : Nat) : Bool :=
  let pc := s.b.pc.toNat
  decide (s.b.seg.toNat + 2048 ≤ pc) && match s.bundlesTo 513 s.b.seg.toNat pc with
    | some n => decide (n ≥ 512) || decide (pc + len > s.b.seg.toNat + 4096)
    | none => false

/-- What makes a syllable of an issue illegal whatever its predicate is (R47, R153, R163, R186, R243). -/
def State.workIllegal (s : State) (w : Work) : Bool :=
  let s := s.at_ s.fresh w
  match w.ins with
  | .tkwait _ cell _ | .tkset _ cell _ | .tkadv _ cell _ => decide (s.b.ticketClaim ≤ cell.toNat)
  | .vcwld _ idx _ cnt => decide (idx.toNat + cnt.toNat > 511)
  | .microcodeS _ ent _ => (s.microAt ent.toNat).isNone
  | .microcodeVcw _ ent => (s.microAt (16 + ent.toNat)).isNone
  | .vxc e => decide (e.imm.toNat ≥ 2 * s.b.cols)
  | .trow .. => false
  | i => decide (w.slot = 5) && s.xIllegal (s.stepX i)

/-- A number stands in two places of a list. -/
def hasTwin : List Nat → Bool
  | [] => false
  | x :: xs => xs.contains x || hasTwin xs

/-- The place of the first illegal syllable of an issue, as 8 × column + slot, or 0 when the issue is illegal as a whole:
an X syllable beside a quad form, a tile named by two syllables, two region forms (R182, R186, R282). -/
def State.issueIllegal (s : State) (ws : List Work) : Option Nat :=
  let xs := ws.filter fun w => w.slot == 5
  let tiles (w : Work) : List Nat :=
    let i := (s.at_ s.fresh w).stepX w.ins
    (Instr.destTiles i ++ Instr.srcTiles i).eraseDups
  match ws.find? s.workIllegal with
  | some w => some (8 * w.col + w.slot)
  | none =>
    if (xs.any (fun w => Instr.quad w.ins) && xs.length > 1) || hasTwin (xs.flatMap tiles) ||
      decide ((ws.filter fun w => Instr.isRegionForm w.ins).length > 1) then some 0 else none

/-! ### Hold and repeat (R50, R51, R67) -/

/-- Further slots that a microcode entry's USE occupies in its column (R67, R359), in template order. -/
def State.usedSlots (s : State) (w : Work) : List Nat :=
  let use (e : Nat) : List Nat := match s.microAt e with
    | some m => (List.range 8).filter fun n => m.use.getLsbD (7 - n)
    | none => []
  ((match w.ins with
    | .microcodeS _ ent _ => use ent.toNat
    | .microcodeVcw _ ent => use (16 + ent.toNat)
    | _ => []).filter (· != w.slot)).map fun n => 8 * w.col + n

/-- Hold states after an issue has taken up its syllables, and the syllables that issue with their numbers (R50): `first`
is n = 0, `clear` a safe or yield point, `wait` a wait bundle. -/
def Bank.takeHolds (b : Bank) (ps : List (Nat × Syl)) (first clear wait : Bool) : Smap Hold × List (Nat × Hold × Bool) :=
  let h0 := if clear && first then b.holds.mapVals fun (h : Hold) => { h with act := false } else b.holds
  let one (k : Nat) : Option (Nat × Hold × Bool) :=
    let h := h0.get ⟨none, false, 0⟩ k
    match ps.find? fun e => e.1 == k with
    | some e =>
      if first then some (k, ⟨some e.2, Syl.hold e.2, 0⟩, false)
      else some (k, if Syl.hold e.2 then { h with j := h.j + 1 } else h, false)
    | none => if h.act && !wait then some (k, { h with j := h.j + 1 }, true) else none
  let xs := (List.range (8 * b.cols)).filterMap one
  (xs.foldl (fun m e => m.put e.1 e.2.1) h0, xs)

/-! ### Stalls (R68, R124, R125, R137, R141, R175, R190, R206, R217, R283) -/

/-- The scratchpad ranges that an L, W or S syllable reaches, and whether it writes them. -/
def State.reach (s : State) (i : Instr) : List (Nat × Nat) × Bool :=
  match i with
  | .ld _ _ ar fmt ofs => let u := (ldFmt fmt).1; ([(s.addr8 ar ofs u, u)], false)
  | .ldgScalar _ _ ar fmt d => let u := (ldFmt fmt).1; ([(addA (s.ra ar.toNat) (d.toInt * u), u)], false)
  | .ldgVector _ _ _ ar d => ([(addA (s.ra ar.toNat) (d.toInt * 64), 64)], false)
  | .st _ _ ar sz ofs => let u := 2 ^ sz.toNat; ([(s.addr8 ar ofs u, u)], true)
  | .ldv _ _ _ ar ofs => ([(s.addr5 ar ofs, 64)], false)
  | .stv _ _ _ ar ofs => ([(s.addr5 ar ofs, 64)], true)
  | .gath _ vc vr ar ew _ => ((s.laneAddrs (s.clOf vc) vr ar (2 ^ ew.toNat)).map fun a => (a, 2 ^ ew.toNat), false)
  | .scat _ vc vr ar ew => ((s.laneAddrs (s.clOf vc) vr ar (2 ^ ew.toNat)).map fun a => (a, 2 ^ ew.toNat), true)
  | .cbrdVector _ _ _ cb off => ([(s.cbSlot (8 * s.cur.col + cb.toNat) false + 64 * off.toNat, 64)], false)
  | .scld _ _ ar all ofs => let u := if all then 32 else 4; ([(s.addr8 ar ofs u, u)], false)
  | .vcwld _ _ ra cnt => ([(rfld (s.rs ra.toNat) 31 0, 32 * (cnt.toNat + 1))], false)
  | _ => ([], false)

/-- The queue that a C or X syllable enters now; a copy write of a region is held (R206, R233). -/
def State.enters (s : State) (i : Instr) : Option Nat :=
  let k (q : BitVec 2) : Option Nat := some (s.queueOf q)
  let w (q : BitVec 2) : Option Nat := if s.b.region.isSome then none else some (s.queueOf q)
  match i with
  | .cpyIn _ q .. | .gld _ q .. | .aadd _ q .. | .amin _ q .. | .amax _ q .. | .aand _ q .. | .aor _ q .. | .axor _ q ..
  | .axch _ q .. | .acas _ q .. => k q
  | .cpyOut _ q .. | .cpyg _ q .. | .fill _ q .. | .cred _ q .. | .gst _ q .. | .csigCounter _ q .. | .csigAddress _ q .. => w q
  | .cpyb _ q _ _ _ cb => if (s.b.cb (8 * s.cur.col + cb.toNat)).out then w q else k q
  | .mmas .. => some (4 * s.cur.col + 3)
  | _ => none

/-- The syllable makes an access that an earlier acquire holds back (R217, R219, R375, R381). -/
def State.accesses (s : State) (i : Instr) : Bool :=
  !(s.reach i).1.isEmpty || (s.enters i).isSome || !(Instr.ranges i 0 0).isEmpty ||
    match i with | .fld .. | .fldv .. | .spld .. | .spst .. | .csigCounter .. | .csigAddress .. => true | _ => false

/-- A condition of the syllable's buffer does not hold (R140, R141). -/
def State.bufferWaits (s : State) (w : Work) : Bool :=
  let waits (cb : BitVec 3) (out : Bool) : Bool :=
    let i := 8 * s.cur.col + cb.toNat
    (s.b.cb i).en && (s.b.cb i).out == out && !(s.cbOpen i)
  match w.ins with
  | .cbrdVector _ _ _ cb _ => waits cb false
  | .cbrdAddress _ _ tl cb => waits cb tl
  | .cbrel _ cb => waits cb (w.slot == 2)
  | _ => false

/-- Two banks of a core share a physical column. -/
def Bank.overlaps (x y : Bank) : Bool :=
  x.core == y.core && decide (x.col < y.col + y.cols) && decide (y.col < x.col + x.cols)

/-- The banks that share a column with the bank in focus. -/
def State.rivals (s : State) : List Bank := s.bound.filter fun x => x.key != s.b.key && x.overlaps s.b

/-- The begin of a snapshot follows every access that its bank issued before it (R400). -/
def State.beginWaits (s : State) (i : Instr) : Bool :=
  match i with
  | .snap _ | .txb .. => !s.settledBefore s.b.iss
  | _ => false

/-- The syllable names a busy tile (R190, R395). -/
def State.meetsBusyTile (s : State) (base : Nat) (w : Work) : Bool :=
  let s := s.at_ base w
  s.tileBusy (s.stepX w.ins)

/-- A syllable cannot issue now. Busy tiles count whatever the predicate is (R395); a false predicate waits for nothing
else. -/
def State.workStalls (s : State) (base : Nat) (w : Work) : Bool :=
  let s := s.at_ base w
  let x := s.stepX w.ins
  let on := match Instr.ctl w.ins with | some c => s.pred c | none => true
  s.tileBusy x || (on && (
    (w.slot == 5 && (match x with | .trow .. => false | _ => s.unitFull x)) ||
    (s.accesses x && s.b.heldBack s.now s.b.iss) || s.bufferWaits w || s.beginWaits w.ins ||
    (s.reach w.ins).1.any (fun r => s.core.locked s.b.slotB r.1 r.2 (s.reach w.ins).2) ||
    (Instr.opens w.ins && s.rivals.any fun y => y.region.isSome)))

/-- Some queue would hold a seventeenth packet (R206). -/
def State.queuesFull (s : State) (base : Nat) (ws : List Work) : Bool :=
  let ks := ws.filterMap fun w =>
    let s := s.at_ base w
    if (match Instr.ctl w.ins with | some c => s.pred c | none => true) then s.enters w.ins else none
  ks.any fun k => decide ((s.b.queues.get .empty k).pkts.length + (ks.filter (· == k)).length > 16)

/-- After an issue: some column's landing buffer would hold more than 32 entries (R137). -/
def State.landingFull (s : State) : Bool :=
  let all := (s.b :: s.rivals).flatMap fun x => x.fars.map fun f => x.col + f.col
  (List.range 4).any fun c => decide ((all.filter (· == c)).length > 32)

/-- After an issue: one of its contributions falls in a cycle of its column that is taken (R175). -/
def State.acceptTaken (s : State) : Bool :=
  let iss := s.b.iss
  let taken := (s.b :: s.rivals).flatMap fun x =>
    (x.contribs.filter fun k => k.ql.isSome && (x.key != s.b.key || k.iss != iss)).map fun k => (x.col + k.col, k.acc)
  s.b.contribs.any fun k => k.ql.isSome && k.iss == iss && taken.contains (s.b.col + k.col, k.acc)

/-! ### Power (R367, R369, R371) -/

/-- The operation class of a syllable (R369). -/
def Instr.class : Instr → Nat
  | .mma _ _ _ _ _ fa .. | .mmas _ _ _ _ _ fa .. => match chunkCycles fa with | 2 => 8 | 4 => 9 | 8 => 10 | _ => 11
  | .tzero .. | .tld .. | .tst .. | .tadd .. | .tmov .. | .trow .. => 12
  | .fld .. | .fldv .. | .gath .. | .scat .. => 7
  | .vmul _ | .vfma _ | .vfms _ | .vscan _ => 4
  | .vrcp _ | .vrsq _ | .vexp2 _ | .vlog2 _ | .vtanh _ | .vxc _ => 5
  | .microcodeS .. | .microcodeVcw .. => 14
  | i => match (Instr.slots i).head? with
    | some .s => 0
    | some .c => 13
    | some .q => 6
    | some .vcw => 3
    | _ => 1

/-- The class of a syllable in its place: a form of both address slots is of the class of the slot it stands in. -/
def Work.class (w : Work) : Nat := if w.slot = 2 ∧ Instr.class w.ins = 1 then 2 else Instr.class w.ins

/-- The predicted current of an issue, in 1/16 A (R371). -/
def State.current (s : State) (ws : List Work) : Nat :=
  let e (c : Nat) : Nat := (Config.energy (16 * s.core.cur + c)).toNat
  ws.foldl (fun n w => n + e w.class * (1 + (s.usedSlots w).length)) (e 15)

/-- The causes that a bundle's header and its issue raise (R273, R367, R371). -/
def State.headCauses (s : State) (h : BHdr) (first : Bool) (ws : List Work) : List Cause :=
  let head (num sub : Nat) : Cause := ⟨num, sub, 0, 0, 0, .ofNat 64 sub, false, .before, false, none⟩
  (if first && !h.safe && decide (s.b.sinceSafe + h.rep + 1 > 20000) then [head 9 8] else []) ++
    (if h.opc && decide (h.opp > rfld (s.ctx s.b.ctx).power 2 0) then [head 13 3] else []) ++
    (if s.b.pgr.getLsbD 63 && decide (s.current ws > rfld s.b.pgr 15 0) then [head 13 1] else [])

/-! ### One issue (R48, R50, R283, R292 to R294, R352 to R354) -/

/-- The aborts that a header raises in a region (R293). -/
def headBars (h : BHdr) : List Abort :=
  (if h.sync != 0 then [⟨5, 0xF0, 0, 0, 0⟩] else []) ++ (if h.opc then [⟨5, 0xF1, 0, 0, 0⟩] else [])

/-- The checks of every syllable of an issue, gathered. -/
def State.checks (s : State) (base : Nat) (ws : List Work) : Cur :=
  let s := { s with cur := { s.cur with phase := .collect, found := [] } }
  (ws.foldl (fun s w => (s.at_ base w).sylExec w.ins) s).cur

/-- The effects of an issue take place in passes: a region opens before the bundle writes (R283), guarded loads take their
guards before the stores of their issue are tested (R289), reads of special registers come before their writes, and an
ERET takes effect last (R357). -/
def passOf (w : Work) : Nat :=
  match w.ins with
  | .chk .. | .txb .. => 0
  | .sysrd .. | .rgst .. | .lidx .. | .trow .. | .ctxrd .. | .cyc .. => 2
  | .eret _ => 4
  | _ => if w.slot = 1 then 1 else 3

/-- The syllable is a TROW that clears the register and whose predicate is true; in a region it aborts instead (R198, R293). -/
def State.clearsTrow (s : State) (base : Nat) (w : Work) : Bool :=
  match w.ins with
  | .trow c _ cl => cl && s.b.region.isNone && (s.at_ base w).pred c
  | _ => false

/-- The effects of every syllable of an issue. TROW reads its register before any TROW of the issue clears it (R198). -/
def State.effects (s : State) (base : Nat) (ws : List Work) : State :=
  let clears := ws.any (s.clearsTrow base)
  let s := { s with cur := { s.cur with phase := .commit } }
  let order := (List.range 5).flatMap fun p => ws.filter fun w => passOf w == p
  let s := order.foldl (fun s w => (s.at_ base w).sylExec w.ins) s
  let s := { s with fresh := base + 64, cur := ⟨0, 0, 0, 0, .alone, []⟩ }
  let s := if clears && s.b.region.isNone then s.dropStreams else s
  (s.modB (·.overtake)).fixOperands

/-- Freed guards are free from the next issue on (R290). -/
def State.freeGuards (s : State) : State :=
  s.modB fun b => { b with region := b.region.map fun r => if r.clr then { r with clr := false, guards := [] } else r }

/-- The synchronous abort that takes place now: at the end of the bundle, after its last issue (R292, R296). -/
def Bank.abortDue (b : Bank) : Option Abort :=
  match b.region with
  | none => none
  | some r => if b.rep = 0 ∧ b.waitSyl.isEmpty then syncAbort r.sync else none

/-- A trap of the bundle about to issue: in an open region it aborts the region and is not delivered (R354). -/
def State.bundleTrap (s : State) (c : Cause) : State :=
  if s.b.region.isSome then s.rollback ⟨6, c.num, c.slt, c.col, 0⟩ s.b.pc else s.takeTrap c

/-- The same for a syllable of a wait bundle that has reached issue before (R52, R352). -/
def State.waitTrap (s : State) (c : Cause) : State :=
  if s.b.region.isSome then s.rollback ⟨6, c.num, c.slt, c.col, 0⟩ s.b.pc else s.trapAt c

/-- What an issue comes to: it waits; a trap or an abort takes its place or ends it; its effects take place. -/
inductive Issued where
  | stall
  | left (s : State)
  | ran (s : State)

/-- The predicate of a syllable at its place; that of ASRT is its operand, for which it does not wait (R291). -/
def State.works (s : State) (base : Nat) (w : Work) : Bool :=
  match w.ins, Instr.ctl w.ins with
  | .asrt .., _ => true
  | _, some c => (s.at_ base w).pred c
  | _, none => true

/-- The checks and effects of one issue of some syllables, in the bank in focus, which already stands in the issue. What a
header raises in a region is recorded with what its syllables raise (R292 to R294). -/
def State.issueOf (s : State) (trap : State → Cause → State) (heads : List Cause) (bars : List Abort) (ws : List Work) : Issued :=
  let base := s.fresh
  if ws.any (s.workStalls base) || s.queuesFull base ws then .stall
  else
    let cur := s.checks base ws
    match worst (heads ++ cur.found) with
    | some c => .left (trap { s with fresh := base + 64 } c)
    | none =>
      let t := s.effects base ws
      if t.landingFull || t.acceptTaken then .stall
      else .ran (t.modB fun b => { b with region := b.region.map fun r => { r with sync := r.sync ++ bars } }).freeGuards

/-! ### Retirement (R37, R52, R57, R108, R115, R270, R272 to R274, R357, R362, R364) -/

/-- The registers of R37 that a live list does not name are undefined after the point; a register's poison goes with its value,
and a tile's stays (assumption log, entry 112). -/
def State.forget (s : State) (n : Nat) : State :=
  match s.b.kern.bind fun k => (k.live.find? fun e => e.1 == n).map Prod.snd with
  | none => s
  | some items =>
    let u (w : Nat) (l : Loc) : Nat := s.undef w (37 :: l.code)
    let locs : List Loc := (List.range 63).map (fun i => Loc.s (i + 1)) ++ (List.range 32).map Loc.a ++
      (List.range 15).map (fun i => Loc.f (i + 1)) ++
      ((List.range (2 * s.b.cols)).flatMap fun cl => (List.range s.vcount).map fun i => Loc.v cl i) ++
      ((List.range s.b.cols).flatMap fun c => (List.range 4).map fun i => Loc.q c i) ++
      ((List.range s.b.cols).flatMap fun c => (List.range 8).map fun i => Loc.xs c i)
    let named (l : Loc) : Bool := match l with
      | .s i => items.contains (.s i)
      | .a i => items.contains (.a i)
      | .f i => items.contains (.f i)
      | .v _ i => items.contains (.v i)
      | .q c i => items.contains (.q i c)
      | .xs c i => items.contains (.xs i c)
      | _ => true
    let gone := locs.filter fun l => !(named l)
    let own (t : Nat) : Bool := decide (s.b.col ≤ t % 4) && decide (t % 4 < s.b.col + s.b.cols)
    let tiles := (List.range s.slot.tileCount).filter fun t => own t && !(items.contains (.t t))
    let s' := s.modB fun b => gone.foldl (fun b l => b.write l (u l.width l) 0xFFFF false)
      { b with pend := b.pend.filter fun p => !(gone.contains p.loc), poison := b.poison.filter fun l => !(gone.contains l) }
    s'.modSlot fun m => { m with tiles := tiles.foldl (fun ts t =>
      ts.set tileZero t ((List.range 4096).map fun i => .ofNat 32 (s.undef 32 [37, t, i]))) m.tiles }

/-- The scalars s56 to s63 are undefined after a yield point, whatever its live list (R15). -/
def State.forgetTemps (s : State) : State :=
  let locs : List Loc := (List.range 8).map fun i => Loc.s (56 + i)
  s.modB fun b => locs.foldl (fun b l => b.write l (s.undef l.width (15 :: l.code)) 1 false)
    { b with pend := b.pend.filter fun p => !(locs.contains p.loc), poison := b.poison.filter fun l => !(locs.contains l) }

/-- The bank is a foreground bank (R274). -/
def State.isFg (s : State) : Bool := s.core.fgB == s.b.slotB

/-- The open bundle may retire: its repetitions have issued, its forms and its barrier have completed, its pending syllables
have executed, and at a safe or yield point what R272 names has landed. -/
def State.mayRetire (s : State) : Bool :=
  let last (f : Form) : Bool := match f.kind with | .tend => s.tendDone | .eret => true | _ => false
  s.b.open_ && s.b.rep == 0 && s.b.barr.isNone && s.b.waitSyl.isEmpty && s.b.forms.all last &&
    (!(s.b.safe || s.b.yld) || (s.b.farsLanded && s.xReleased s.b && s.b.vecLanded && s.b.latchLanded))

/-- RETIREMENT of the open bundle: the loop test gives the next bundle unless the bundle took a transfer or a trap handler
runs (R108, R115, R356); TEND unbinds the bank, and ERET returns. -/
def State.retire (s : State) : State :=
  let has (k : FormKind) : Bool := s.b.forms.any fun f => f.kind == k
  if has .tend then s.unbind
  else
    let s := s.modB fun b =>
      let b := if b.taken then b else if b.esta.getLsbD 63 then { b with npc := b.fall } else b.loopTest 7
      let next := b.pc + .ofNat 56 b.len
      { b with
        pc := b.npc
        flowed := if !b.taken && b.npc == b.fall && b.fall == next then b.npc else b.flowed
        open_ := false
        bun := []
        wx := 0
        wdc := if b.safe then 0 else b.wdc }
    let fg := s.isFg
    let req := s.core.switchReq
    let s := if s.b.safe || s.b.yld then
        let s := s.modB fun b => { b with retiredSwitch := b.retiredSwitch || (fg && req && b.region.isNone) }
        let s := if s.b.yld && fg then s.modCore s.b.core fun c => { c with handler := none } else s
        let s := if s.b.yld then s.forgetTemps else s
        if s.b.live = 0 then s else s.forget s.b.live
      else s
    if s.b.forms.any fun f => f.kind == .eret then (s.modB fun b => { b with forms := [] }).eret else s

/-- After an issue: a synchronous abort takes place at the bundle's end, or the bundle retires if it may (R292). -/
def State.closeIssue (s : State) : State :=
  match s.b.abortDue with
  | some a => s.rollback a s.b.pc
  | none => if s.mayRetire then s.retire else s

/-! ### The merge stage (R275, R276) -/

/-- The slots that an issue occupies, by 8 × physical column + slot; a quad form occupies the X slot of every column. -/
def State.occupied (s : State) (ws : List Work) : List Nat :=
  let own := ws.flatMap fun w => (8 * w.col + w.slot) :: s.usedSlots w
  let quad := if ws.any fun w => w.slot == 5 && Instr.quad w.ins then [5, 13, 21, 29] else []
  (own ++ quad).map (· + 8 * s.b.col)

/-- The foreground banks of the bank's columns that issued in this cycle or have pending syllables. -/
def State.busyRivals (s : State) : List Bank :=
  s.rivals.filter fun x => x.slotB == s.core.fgB && (x.issuedCyc == s.now + 1 || !x.waitSyl.isEmpty)

/-- The slots that the pending syllables of a bank's wait bundle occupy, likewise (R275). -/
def State.pendingSlots (s : State) (x : Bank) : List Nat :=
  let t := s.focus x.key
  (t.occupied (x.waitSyl.filterMap fun e => t.resolve t.fresh e.1 0 false e.2)) ++ x.waitSyl.map fun e => e.1 + 8 * x.col

/-- The sub-bank of a scratchpad address (R124). -/
def subBank (a : Nat) : Nat := 16 * (a / 2 ^ 19) + a / 64 % 16

/-- The L and W syllables of an issue ask more of a sub-bank than one read and one write (R124). -/
def State.portsOver (s : State) (base : Nat) (ws : List Work) : Bool :=
  let rs := (ws.filter fun w => w.slot == 1 || w.slot == 2).map fun w => (s.at_ base w).reach w.ins
  let lines (r : List (Nat × Nat) × Bool) : List Nat := (r.1.map fun x => x.1 / 64).eraseDups
  let reads := ((rs.filter fun r => !r.2).flatMap lines).eraseDups.map fun l => subBank (64 * l)
  let writes := (rs.filter (·.2)).flatMap fun r => ((lines r).map fun l => subBank (64 * l)).eraseDups
  hasTwin reads || hasTwin writes

/-- A background issue may merge with what the foreground issues in this cycle: no slot is taken, and alone it would not
stall (R124, R275). -/
def State.merges (s : State) (h : BHdr) (ws : List Work) : Bool :=
  let fg := s.busyRivals
  fg.isEmpty || (!h.opc && !s.portsOver s.fresh ws &&
    (s.occupied ws).all fun k => !(s.core.occ.contains k) && fg.all fun x => !((s.pendingSlots x).contains k))

/-- A background bank that could issue and does not counts (R276). -/
def State.countFair (s : State) : State :=
  let col := s.b.col
  s.modCore s.b.core fun c => { c with fair := c.fair.upd 0 col fun n => min 4096 (n + 1) }

/-- A background bank has already issued alone in this cycle (R276). -/
def State.yielded (s : State) : Bool :=
  s.isFg && s.rivals.any fun x => x.slotB != s.b.slotB && x.issuedCyc == s.now + 1

/-! ### Issue (R50) -/

/-- The bank whose turn it was has issued in this cycle; a foreground bank's slots are taken, a background bank's fairness
count is 0 again (R275, R276). -/
def State.stamp (s t : State) (occ : List Nat) : State :=
  let b := s.b
  let now := s.now
  let fg := s.isFg
  let t := t.modBank b.key fun b => { b with issuedCyc := now + 1 }
  t.modCore b.core fun c => if fg then { c with occ := c.occ ++ occ } else { c with fair := c.fair.del b.col }

/-- What an issue leaves behind it beside its syllables' effects (R50, R52, R237, R273, R367): `holds` are the new hold
states, `pending` the syllables of a wait bundle that have not executed, `done` the places of those that have. In a region
a barrier or a power level aborts and does nothing else (R293). -/
def State.opened (t : State) (h : BHdr) (ps : List (Nat × Syl)) (first : Bool) (holds : Smap Hold) (pending : List (Nat × Syl))
    (done : List Nat) : State :=
  let mask := t.rgm h.sync
  let free := t.b.region.isNone
  let t := t.modB fun b => { b with
    holds := holds
    bun := ps
    waitSyl := pending
    wx := if h.wait then .ofNat 32 (done.foldl (fun n k => n ||| 2 ^ k) b.wx.toNat) else 0
    rep := if first then h.rep else b.rep - 1
    sinceSafe := if h.safe then 0 else b.sinceSafe + 1
    barr := if h.sync != 0 && free then some ⟨h.sync, mask, none⟩ else b.barr
    opReq := if h.opc && free then some (.ofNat 3 h.opp) else b.opReq
    open_ := true }
  if h.opc && free then t.retarget t.b.core else t

/-- One issue of the bank in focus: `ps` are the present syllables, `h` the header, `first` its first issue; the bank has
the bundle's length and the address that follows it. `alone` leaves out the merge with the foreground. None when the issue
waits. -/
def State.issueCycle (s : State) (alone : Bool) (h : BHdr) (ps : List (Nat × Syl)) (first : Bool) : Option State :=
  let (holds, xs) := s.b.takeHolds ps first (h.safe || h.yld) h.wait
  let s' := { s with
    b := { s.b with iss := s.b.iss + 1, safe := h.safe, yld := h.yld, live := h.live }
    cur := ⟨0, 0, 0, 0, .alone, []⟩ }
  let base := s'.fresh
  let rs := xs.map fun (e : Nat × Hold × Bool) => (e.1, e.2.1.syl.bind fun y => s'.resolve base e.1 e.2.1.j e.2.2 y)
  let used := (rs.filterMap Prod.snd).flatMap s'.usedSlots
  let rs := rs.filter fun r => ps.any (fun e => e.1 == r.1) || !used.contains r.1
  match rs.find? fun r => r.2.isNone with
  | some r => some (s.stamp (s.bundleTrap (s.illegalAt r.1)) [])
  | none =>
    let ws := rs.filterMap Prod.snd
    match s'.issueIllegal ws with
    | some k => some (s.stamp (s.bundleTrap (s.illegalAt k)) [])
    | none =>
      let key (w : Work) : Nat := 8 * w.col + w.slot
      let todo := if h.wait then ws.filter fun w => !(s.b.wx.getLsbD (key w)) else ws
      let now := if h.wait then todo.filter (s'.works base) else todo
      let pending := if h.wait then ps.filter fun e => todo.any (fun w => key w == e.1) && !(now.any fun w => key w == e.1) else []
      let holds := (used.filter fun k => ps.all fun e => e.1 != k).foldl (fun (m : Smap Hold) k => m.del k) holds
      if h.wait && first && s.b.wx == 0 && todo.any (s'.meetsBusyTile base) then none
      else match s'.issueOf State.bundleTrap (s'.headCauses h first ws) (headBars h) now with
      | .stall => none
      | .left t => some (if alone || s.isFg || s'.merges h ws then s.stamp t (s'.occupied ws) else s.countFair)
      | .ran t =>
        if alone || s.isFg || s'.merges h ws then
          some (s.stamp ((t.opened h ps first holds pending (now.map key)).closeIssue) (s'.occupied ws))
        else some s.countFair

/-- The header of a repetition (R47: a repeated bundle has no other field). -/
def repHdr : BHdr := ⟨false, 0, 0, false, false, 0, false, false, 0, 0⟩

/-- What stands at the bank's address is passed without being executed: a trailer that flow led to before it could be
fetched, or the end bundle of a body that is left (R57, R114, R117). It is passed now, or a line of it still cannot be
read; none when nothing is to be passed there. -/
def State.passes (s : State) : Option (Except (Nat × WalkFault) State) :=
  let pc := s.b.pc
  let go (a : BitVec 56) (owed : Option (BitVec 56 × Bool)) : State := s.modB fun b => { b with pc := a, npc := a, owed := owed }
  match s.b.owed with
  | none => none
  | some (a, whole) =>
    if a ≠ pc then none
    else if whole then match s.fetchIn 4 pc.toNat with
      | .fault l f => some (.error (l, f))
      | .illegal => none
      | .ok x =>
        let end_ := pc + .ofNat 56 x.len
        some (.ok (go (s.follow end_) (if s.unread end_ then some (end_, false) else none)))
    else match s.unreadLine pc with
      | some e => some (.error e)
      | none => (s.trailer pc).bind fun n => if n = pc then none else some (.ok (go n none))

/-- A fetch line of the bundle that reaches issue cannot be read: the poison trap or the fetch trap is taken, and in a region
it aborts. What a header that has been read makes illegal, and its power level above the context's, rank before poison
(R54, R353). -/
def State.fetchTrap (s : State) (line : Nat) (f : WalkFault) : State :=
  let hdr := (s.fetchFrom 1 s.b.pc.toNat).1
  let h := bhdr (leNat (hdr.take 4))
  let power := decide (hdr.length ≥ 4) && h.opc && decide (h.opp > rfld (s.ctx s.b.ctx).power 2 0)
  if s.b.region.isSome then s.rollback ⟨7, 0, 0, 0, 0⟩ s.b.pc
  else if f.cause = 0 then
    s.takeTrap (if decide (hdr.length ≥ 4) && h.low != TMARK && !(s.headerOk h) then s.illegalAt 0
      else if power then ⟨13, 3, 0, 0, 0, 3, false, .before, false, none⟩
      else ⟨3, 0, 0, 0, .ofNat 64 line, 0, false, .before, false, none⟩)
  else s.takeTrap ⟨2, f.cause, 0, 0, .ofNat 64 (if f.cause = 7 then f.cp else line), .ofNat 64 (f.cause * 2 ^ 59), false, .before,
    f.cause == 7, none⟩

/-- A bundle reaches issue: it is fetched and checked, and it traps, issues or waits (R47, R48, R53, R54, R57). -/
def State.issueNext (s : State) (alone : Bool) : State :=
  let s' := s.enterHalf.modB fun b => { b with
    len := 0
    fall := b.pc
    taken := false
    rep := 0 }
  let ill (t : State) : State := s.stamp (t.bundleTrap (t.illegalAt 0)) []
  let lost (e : Nat × WalkFault) : State := s.stamp ((s'.modB (·.dropLines (s'.b.pc.toNat / 64 * 64))).fetchTrap e.1 e.2) []
  match s'.passes with
  | some (.ok t) => s.stamp t []
  | some (.error e) => lost e
  | none => match s'.fetch s'.b.pc.toNat with
    | .fault line f => lost (line, f)
    | .illegal => ill s'
    | .ok x =>
      let end_ := s'.b.pc + .ofNat 56 x.len
      let n := if (s'.trailer end_).isSome then x.len + 12 else x.len
      let waits := s'.fetchWaits s'.b.pc.toNat n
      let s' := s'.fillLines s'.b.pc.toNat n
      if waits then s
      else if x.hdr.low ≠ 0 ∨ !(groupsOk x.groups) then ill s'
      else
        let fall := s'.follow end_
        let owed := if s'.unread end_ then some (end_, false) else if s'.b.esta.getLsbD 63 then s'.b.owed else none
        let s' := s'.modB fun b => { b with len := x.len, fall := fall, owed := owed }
        if s'.headerOk x.hdr && (x.hdr.ncg || !x.groups.isEmpty) && !(s'.pastLimit x.len) then
          match x.slots.find? (sylBad s'.b.cols x.hdr) with
          | some e => s.stamp (s'.bundleTrap (s'.illegalAt e.1)) []
          | none => (s'.issueCycle alone x.hdr (x.slots.filterMap fun e => e.2.map (e.1, ·)) true).getD s
        else ill s'

/-- A blocked safe point is a place of pre-emption too: in a barrier, a TKWAIT, a token form or a FENCE (R252), and in a
POST or LAUNCH (R278). -/
def Bank.blockedSafe (b : Bank) : Bool :=
  b.safe && b.rep == 0 && b.waitSyl.isEmpty && (b.barr.isSome || !b.forms.isEmpty) && b.forms.all fun f => match f.kind with
    | .tkwait _ | .tqput _ | .tqget _ | .tqrel _ | .fence _ | .post _ | .launch _ => true
    | _ => false

/-- The bank waits for the grant of the power level it held when it was saved (R343). -/
def State.awaitsGrant (s : State) : Bool :=
  s.pwrReqs.any (fun r => r.1 == s.b.key) && s.b.waiting.all fun f => f.kind != .pwracq

/-- One issue step of the bank in focus: at a boundary an asynchronous abort, a due trap and a pre-emption come first, in
this order (R292, R339, R353, R354). A bank that waits within a bundle stands at a boundary for the faults of its accesses
(R252, R278), and not for a trap that its bundle raises after it has executed (R357). A bank whose far access is performed
again does not issue before its value is written (R229). -/
def State.issueStep (s : State) (alone : Bool) : State :=
  let due := if s.b.region.isSome then none else leastBy (fun (c : Cause) => afterRank c.num) s.b.kindA
  let take (c : Cause) : State := (s.modB fun b => { b with kindA := b.kindA.erase c }).takeTrap c
  let waits := match s.b.halted with | some (.reply _) => true | some .gone => true | _ => false
  if s.b.open_ && waits then (if s.b.preempt && s.saveable then s.preempt else s)
  else if s.b.open_ then
    if s.b.rep > 0 ∧ s.b.forms.isEmpty ∧ s.b.barr.isNone then
      (if s.yielded then s else (s.issueCycle alone repHdr s.b.bun false).getD s)
    else if s.mayRetire then s.retire
    else match due with
      | some c => if s.b.rep = 0 ∧ (c.num < 15 ∨ c.num = 17) then take c else s
      | none => if s.b.preempt && s.b.blockedSafe && s.saveable then s.preempt else s
  else if s.b.halted.isSome then (if s.b.preempt && s.saveable then s.preempt else s)
  else match s.b.asyncAbort with
    | some a => s.rollback a s.b.boundaryPc
    | none =>
      match due with
      | some c => take c
      | none =>
        if s.b.preempt && s.b.safe && s.b.region.isNone then (if s.saveable then s.preempt else s)
        else if s.yielded || s.awaitsGrant || s.b.fars.any (fun f => f.due == 0) then s
        else s.issueNext alone

/-- The bank may take an issue step in this cycle: its core's clock runs (R136), and it has not issued in it (R50). -/
def State.mayStep (s : State) : Bool := s.b.bound && !s.core.frozen && s.b.issuedCyc != s.now + 1

/-- BUNDLE_ISSUE (R50): one issue cycle of a bank, or the retirement of its open bundle. -/
def execBundleIssue (bank : Nat) (s : State) : Out :=
  let s := s.draw.focus bank
  .next (if s.mayStep then s.issueStep false else s)

/-- FAIRNESS_EXPIRY: with its count at 4,096 a background bank issues alone, and the foreground issues nothing in that cycle
(R276). -/
def execFairnessExpiry (bank : Nat) (s : State) : Out :=
  let s := s.draw.focus bank
  let col := s.b.col
  .next (if s.mayStep && !s.isFg && decide (s.core.fair.get 0 col ≥ 4096) &&
      s.rivals.all (fun x => x.slotB == s.b.slotB || x.issuedCyc != s.now + 1) then s.issueStep true else s)

/-- The pending syllables of a wait bundle that could execute now: their predicates are true, and nothing holds them (R52). -/
def State.ready (s : State) (base : Nat) : List Work :=
  (s.b.waitSyl.filterMap fun e => s.resolve base e.1 0 false e.2).filter fun x => s.works base x && !s.workStalls base x

/-- A slot of the vector clusters or of the latches, whose syllables one reduction tree pairs (R174, R175). -/
def treeSlot (n : Nat) : Bool := n == 3 || n == 4 || n == 7

/-- Those of a column that one reduction tree pairs with a syllable, with it; a syllable of another slot alone. -/
def Work.paired (w : Work) (ws : List Work) : List Work :=
  if treeSlot w.slot then ws.filter fun x => x.col == w.col && treeSlot x.slot else [w]

/-- What some syllables of a wait bundle come to in this cycle, or none where they wait. -/
def State.waitIssue (s : State) (ws : List Work) : Option State :=
  let keys := ws.map fun w => 8 * w.col + w.slot
  let occ := s.occupied ws
  if (s.issueIllegal ws).isSome then some (s.stamp (s.waitTrap (s.illegalAt (keys.headD 0))) [])
  else match s.issueOf State.waitTrap [] [] ws with
    | .stall => none
    | .left t => some (s.stamp t occ)
    | .ran t =>
      let t := t.modB fun b => { b with
        waitSyl := b.waitSyl.filter fun e => !keys.contains e.1
        wx := .ofNat 32 (keys.foldl (fun n k => n ||| 2 ^ k) b.wx.toNat) }
      some (s.stamp (match t.b.abortDue with | some a => t.rollback a t.b.pc | none => t) occ)

/-- WAIT_SYLLABLE_EXECUTE: the pending syllables of a wait bundle that can execute do so, in the first cycle in which the
predicate of this one is true, which counts as their issue cycle (R52); they are of one issue (R31). A bank that a stream's fault stops at the next boundary goes on with its
bundle (R196). Where they stall
together those that one tree pairs are tried, and then this one alone; where an accept cycle is taken, a contribution and
its accumulate both wait (R175). -/
def execWaitSyllableExecute (bank : Nat) (col slot : Nat) (s : State) : Out :=
  let s := s.draw.focus bank
  let k := 8 * col + slot
  let stopped := match s.b.halted with | none | some (.fault _) => false | _ => true
  match (if s.b.bound && !s.core.frozen && !stopped && s.b.open_ && !s.yielded then s.b.waitSyl.find? fun e => e.1 == k
    else none) with
  | none => .next s
  | some (_, y) =>
    let again := s.b.issuedCyc == s.now + 1
    let s' := s.modB fun b => { b with iss := if again then b.iss else b.iss + 1 }
    match s'.resolve s'.fresh k 0 false y with
    | none => .next (s.stamp (s.waitTrap (s.illegalAt k)) [])
    | some w =>
      let all := s'.ready s'.fresh
      let pair := w.paired all
      let free (ws : List Work) : Bool := s.isFg || !(s'.occupied ws).any s.core.occ.contains
      let run (ws : List Work) : Option State := if free ws then s'.waitIssue ws else none
      if !(all.any fun x => 8 * x.col + x.slot == k) then .next s
      else .next (((run all).orElse fun _ => (run pair).orElse fun _ =>
        if pair.length == 1 || w.slot == 7 then none
        else (run [w]).filter fun t => decide (t.b.contribs.length ≤ s.b.contribs.length)).getD s)

end Sys2Proof.Machine
end

