-- ==== Sys2Proof/Machine/Plan.lean ====
section
/-! DEFINITION. One cycle of the machine as a list of moves: the clocks advance, and each agent of the package makes the
moves that its state calls for. The order among the agents of one cycle, the time of a nanosecond against a cycle and the
places that Okra chooses are the model's (assumption log, entry 5); every move checks for itself that its rule allows it. -/

namespace Sys2Proof.Machine

open Sys2Proof

/-! ### Clocks -/

/-- The package's cores: those of the compute dies and the dispatch cores of the I/O dies (R8, R20). -/
def coreNumbers : List Nat := List.range 128 ++ [128, 144]

/-- A core's clock advances unless it is frozen (R136). -/
def Core.tick (c : Core) : Core := if c.frozen then c else { c with cyc := c.cyc + 1, occ := [] }

/-- Resident time of the contexts in the present window of 1 ms: all time in a bank slot (R330, R364). -/
def State.windowTick (s : State) : Smap Nat :=
  if s.ns % 1000000 = 0 then []
  else s.bound.foldl (fun (m : Smap Nat) b => m.upd 0 (4096 * b.seq + b.ctx) (· + 1)) s.windows

/-- The clocks of the package advance by one cycle, and package time by a nanosecond (R366). -/
def State.tick (s : State) : State :=
  let s := { s with
    cores := coreNumbers.map fun n => (n, (Core.tick (s.cores.get .reset n)))
    ns := s.ns + 1 }
  { s with windows := s.windowTick }

/-! ### Okra's choices (R425) -/

/-- The places on a die where a kernel can be bound: of each core the first bank slot that is free for it. -/
def State.candidates (s : State) (ctx : Nat) (k : Kern) (die : Nat) : List Place :=
  (List.range 16).flatMap fun i =>
    let core := 16 * die + i
    let slotB := !(s.slotFits core false k.partw)
    ((seqCols k).map fun c => (⟨core, c, slotB⟩ : Place)).filter (s.placeOk ctx k)

/-- A choice of places over `p` sequencers on each of `q` dies; none when there is none. -/
def State.choose (s : State) (ctx : Nat) (k : Kern) (p q : Nat) : List Place :=
  let dies := ((List.range 8).map fun d => (d, (s.candidates ctx k d).take p)).filter fun e =>
    e.2.length == p && (s.ticketBase e.1 k.tickets).isSome
  if dies.length < q then [] else (dies.take q).flatMap Prod.snd

/-- A place for a saved bank. -/
def State.savedPlace (s : State) (b : Bank) (m : SlotMem) : Option Place :=
  let die := homeOf b / 16
  ((List.range 16).flatMap fun i => (List.range 4).flatMap fun c =>
    [(⟨16 * die + i, c, false⟩ : Place), ⟨16 * die + i, c, true⟩]).find? fun p => s.savedPlaceOk b m p

/-! ### The moves of a cycle -/

/-- The write of a system register that has come to its cycle (R351). -/
def sysMove (b : Bank) (n v : Nat) : Instr :=
  if 0x400 ≤ n ∧ n < 0x440 ∧ n % 2 = 0 then .cbcWrite b.key ((n - 0x400) / 16) ((n - 0x400) % 16 / 2) (.ofNat 64 v)
  else if 0x600 ≤ n ∧ n < 0x740 then .tqcWrite n (.ofNat 64 v)
  else if n = 0x801 then .trrWrite b.ctx (.ofNat 64 v)
  else .registerWrite b.key n (.ofNat 64 v)

/-- What lands in a bank in this cycle, and what its engines do. -/
def Bank.engineMoves (b : Bank) (now : Nat) : List Instr :=
  (if b.pend.any (·.ripe now) || !b.stores.isEmpty then [Instr.resultLand b.key] else []) ++
  (if b.contribs.isEmpty then [] else [.latchUpdate b.key]) ++
  (b.pend.filterMap fun p => match p.loc with
    | .sys n => if p.due ≤ now then some (sysMove b n p.val) else none
    | _ => none) ++
  (b.streams.map fun e => Instr.mmasRow b.key e.2.col) ++
  (b.queues.flatMap fun e => if e.2.pkts.isEmpty then [] else
    [.packetStart b.key (e.1 / 4) (e.1 % 4), .packetGranule b.key (e.1 / 4) (e.1 % 4), .atomicPerform b.key (e.1 / 4) (e.1 % 4),
      .packetComplete b.key (e.1 / 4) (e.1 % 4)]) ++
  (b.fars.flatMap fun f => [.farRead b.key f.id, .farDataArrival b.key f.id]) ++
  (if b.fars.isEmpty then [] else [.farLoadLand b.key]) ++
  (if b.queues.any (fun e => e.2.susp && !e.2.told) then [.gldFault b.key] else [])

/-- The moves that a blocked form waits for. -/
def Form.moves (b : Bank) (f : Form) : List Instr :=
  let k := b.key
  match f.kind with
  | .tkwait _ => [.tkwaitRetire k]
  | .tqput _ => [.tqputComplete k]
  | .tqget _ => [.tqgetComplete k]
  | .tqrel _ => [.tqrelComplete k]
  | .fence _ => [.fenceRetire k]
  | .post _ => [.postEnqueue k]
  | .launch _ => [.launchEnqueue k]
  | .cmt => [.cmtCommit k]
  | .txc => [.txcCommit k]
  | .pwracq => [.powerGrant k]
  | .mcld => [.mcldLoad k]
  | .cwait .. => if b.region.isSome then [.cwaitRetire k, .cwaitTimeout k] else [.cwaitRetire k]
  | .drain _ => [.drainRetire k]
  | .s1r => if f.phase = 0 then [.s1rWrite b.ctx (f.ops.headD 0)] else []
  | .tend | .eret => []
  | .ctx _ => [.contextFormComplete]

/-- The moves of a bank's sequencer. -/
def Bank.issueMoves (b : Bank) : List Instr :=
  b.forms.flatMap (·.moves b) ++
  (if b.barr.isSome then [.barrierArrival b.key, .barrierComplete b.key] else []) ++
  (if b.asyncAbort.isSome then [.asyncAbort b.key] else []) ++
  (b.waitSyl.map fun e => Instr.waitSyllableExecute b.key (e.1 / 8) (e.1 % 8)) ++
  [.segmentExpand b.key] ++
  [.bundleIssue b.key]

/-- The moves of a core: releases and starts of X operations, settling, a forced handler, a bank switch. -/
def State.coreMoves (s : State) (n : Nat) (c : Core) : List Instr :=
  (c.xops.flatMap fun o => [Instr.tileRelease n o.id, .xOpStart n o.id]) ++
  (if c.settling then [.settleComplete n] else []) ++
  (if c.handler.isSome then [.handlerForcedEntry n] else []) ++
  (if s.resident n false && s.resident n true then
    (if c.switchReq || (s.foreground n).any (fun b => b.halted.isSome) then [.bankSwitch n] else []) ++
      ((s.bound.filter fun b => b.core == n && b.slotB == c.fgB).map fun b => Instr.shareWindowSwitch b.ctx n)
   else [])

/-- The moves of the package: cells, launches, contexts, shoot-downs, records, queues, the scheduler, the Chard and the
collector. -/
def State.packageMoves (s : State) : List Instr :=
  (s.tickQ.map fun _ => Instr.ticketUpdatePerform) ++
  ((s.live.filter (·.banks.isEmpty)).map fun _ => Instr.launchComplete) ++
  (if s.ctxs.any (fun e => e.2.st == .stopping) then [.contextFormComplete] else []) ++
  (s.shoots.map fun _ => Instr.shootdownProcess) ++
  (if s.sdr.getLsbD 63 && (s.gNat (rfld s.sdr 51 5 * 32 + 32 * (s.sdh.toNat % 2 ^ rfld s.sdr 59 56)) 8).testBit 63 then
    [.shootdownProcess] else []) ++
  ((s.recs.filter fun r => !r.written).map fun _ => Instr.trapRecordWrite) ++
  (if s.objs.any (fun e => e.2.unload.isSome) then [.unloadComplete] else []) ++
  ((s.uqs.filter fun e => e.2.ridx != e.2.widx).flatMap fun e =>
    [.launchPacket e.1, .loadPacket e.1, .unloadPacket e.1, .graphPacket e.1, .replyPacket e.1]) ++
  ((List.range 8).reverse.flatMap fun pri => match s.head pri with
    | some l => match s.launchKern l with
      | some (k, _) => [.launchBind pri (s.choose l.ctx k (spreads k).1 (spreads k).2)]
      | none => [.launchBind pri []]
    | none => []) ++
  ((s.taskqs.filter fun e => !e.2.isEmpty).flatMap fun e => match e.2 with
    | t :: _ => match s.image t.ctx t.hnd false with
      | some k => match s.candidates t.ctx k (e.1 / 8) with
        | p :: _ => [.taskDispatch (e.1 / 8) (e.1 % 8) p]
        | [] => []
      | none => [.taskDispatch (e.1 / 8) (e.1 % 8) ⟨16 * (e.1 / 8), 0, false⟩]
    | [] => []) ++
  (s.saved.zipIdx.filterMap fun e =>
    if (s.ctx e.1.1.ctx).st = .run then (s.savedPlace e.1.1 e.1.2).map fun p => .savedBankBind e.2 p else none) ++
  (s.pwrReqs.map fun r => Instr.powerGrant r.1) ++
  (if s.vers.any (fun e => !e.2.old.isEmpty) then [.versionCollect] else []) ++
  (if s.ns % 1000 = 0 then .bucketRefill :: (s.bound.filterMap fun b => match b.halted with
    | some (.reply _) | some (.fault _) => none
    | _ => some (.watchdogExpiry b.key (b.wdc + 1))) else [])

/-- The moves of a cycle: results land, engines move, the banks issue, foreground first, and the package's agents act. -/
def State.moves (s : State) : List Instr :=
  let clock (b : Bank) : Nat := (s.cores.get .reset b.core).cyc
  let fg (b : Bank) : Bool := (s.cores.get .reset b.core).fgB == b.slotB
  (s.cores.flatMap fun e => s.coreMoves e.1 e.2) ++ (s.bound.flatMap fun b => b.engineMoves (clock b)) ++
    ((s.bound.filter fun b => !(fg b) && decide (4096 ≤ (s.cores.get .reset b.core).fair.get 0 b.col)).map fun b =>
      Instr.fairnessExpiry b.key) ++
    ((s.bound.filter fg).flatMap Bank.issueMoves) ++ ((s.bound.filter fun b => !(fg b)).flatMap Bank.issueMoves) ++
    s.packageMoves

/-- The next cycle: its moves stand in the agenda. -/
def State.plan (s : State) : State :=
  let s := s.tick
  { s with agenda := s.moves }

/-- A move that applies power (R419). -/
def Instr.wakes : Instr → Bool
  | .coldStart => true
  | _ => false

end Sys2Proof.Machine
end

