-- ==== Sys2Proof/Machine/Dispatch.lean ====
section
/-! DEFINITION. One arm for each instruction: its meaning. -/

namespace Sys2Proof.Machine

open Sys2Proof

/-- What an instruction does to the machine. -/
def exec (i : Instr) (s : State) : Host.Outcome State Fault Refusal :=
  match i with
  | .bundleIssue bank => Sys2Proof.Machine.execBundleIssue bank s
  | .asyncAbort bank => Sys2Proof.Machine.execAsyncAbort bank s
  | .waitSyllableExecute bank col slot => Sys2Proof.Machine.execWaitSyllableExecute bank col slot s
  | .resultLand bank => Sys2Proof.Machine.execResultLand bank s
  | .latchUpdate bank => Sys2Proof.Machine.execLatchUpdate bank s
  | .segmentExpand bank => Sys2Proof.Machine.execSegmentExpand bank s
  | .fairnessExpiry bank => Sys2Proof.Machine.execFairnessExpiry bank s
  | .barrierArrival bank => Sys2Proof.Machine.execBarrierArrival bank s
  | .barrierComplete bank => Sys2Proof.Machine.execBarrierComplete bank s
  | .farRead bank far => Sys2Proof.Machine.execFarRead bank far s
  | .farDataArrival bank far => Sys2Proof.Machine.execFarDataArrival bank far s
  | .farLoadLand bank => Sys2Proof.Machine.execFarLoadLand bank s
  | .gldFault bank => Sys2Proof.Machine.execGldFault bank s
  | .xOpStart core op => Sys2Proof.Machine.execXOpStart core op s
  | .tileRelease core op => Sys2Proof.Machine.execTileRelease core op s
  | .mmasRow bank col => Sys2Proof.Machine.execMmasRow bank col s
  | .packetStart bank col queue => Sys2Proof.Machine.execPacketStart bank col queue s
  | .packetGranule bank col queue => Sys2Proof.Machine.execPacketGranule bank col queue s
  | .packetComplete bank col queue => Sys2Proof.Machine.execPacketComplete bank col queue s
  | .atomicPerform bank col queue => Sys2Proof.Machine.execAtomicPerform bank col queue s
  | .cmtCommit bank => Sys2Proof.Machine.execCmtCommit bank s
  | .txcCommit bank => Sys2Proof.Machine.execTxcCommit bank s
  | .tkwaitRetire bank => Sys2Proof.Machine.execTkwaitRetire bank s
  | .tqputComplete bank => Sys2Proof.Machine.execTqputComplete bank s
  | .tqgetComplete bank => Sys2Proof.Machine.execTqgetComplete bank s
  | .tqrelComplete bank => Sys2Proof.Machine.execTqrelComplete bank s
  | .fenceRetire bank => Sys2Proof.Machine.execFenceRetire bank s
  | .cwaitRetire bank => Sys2Proof.Machine.execCwaitRetire bank s
  | .drainRetire bank => Sys2Proof.Machine.execDrainRetire bank s
  | .postEnqueue bank => Sys2Proof.Machine.execPostEnqueue bank s
  | .launchEnqueue bank => Sys2Proof.Machine.execLaunchEnqueue bank s
  | .launchBind pri places => Sys2Proof.Machine.execLaunchBind pri places s
  | .taskDispatch die pri place => Sys2Proof.Machine.execTaskDispatch die pri place s
  | .bankSwitch core => Sys2Proof.Machine.execBankSwitch core s
  | .shareWindowSwitch ctx core => Sys2Proof.Machine.execShareWindowSwitch ctx core s
  | .watchdogExpiry bank us => Sys2Proof.Machine.execWatchdogExpiry bank us s
  | .handlerForcedEntry core => Sys2Proof.Machine.execHandlerForcedEntry core s
  | .settleComplete core => Sys2Proof.Machine.execSettleComplete core s
  | .droopDetect core => Sys2Proof.Machine.execDroopDetect core s
  | .powerGrant bank => Sys2Proof.Machine.execPowerGrant bank s
  | .thermalTrip zone temp => Sys2Proof.Machine.execThermalTrip zone temp s
  | .mcldLoad bank => Sys2Proof.Machine.execMcldLoad bank s
  | .softError bank => Sys2Proof.Machine.execSoftError bank s
  | .sramUncorrectable core slotB => Sys2Proof.Machine.execSramUncorrectable core slotB s
  | .cbcWrite bank col buf val => Sys2Proof.Machine.execCbcWrite bank col buf val s
  | .s1rWrite ctx val => Sys2Proof.Machine.execS1rWrite ctx val s
  | .tqcWrite num val => Sys2Proof.Machine.execTqcWrite num val s
  | .trrWrite ctx val => Sys2Proof.Machine.execTrrWrite ctx val s
  | .vpoolWrite val => Sys2Proof.Machine.execVpoolWrite val s
  | .registerWrite bank num val => Sys2Proof.Machine.execRegisterWrite bank num val s
  | .uqnNotify page widx => Sys2Proof.Machine.execUqnNotify page widx s
  | .uqdWrite queue hi val => Sys2Proof.Machine.execUqdWrite queue hi val s
  | .launchPacket queue => Sys2Proof.Machine.execLaunchPacket queue s
  | .loadPacket queue => Sys2Proof.Machine.execLoadPacket queue s
  | .unloadPacket queue => Sys2Proof.Machine.execUnloadPacket queue s
  | .graphPacket queue => Sys2Proof.Machine.execGraphPacket queue s
  | .replyPacket queue => Sys2Proof.Machine.execReplyPacket queue s
  | .hostMemoryAccess req => Sys2Proof.Machine.execHostMemoryAccess req s
  | .fetchadd req val => Sys2Proof.Machine.execFetchadd req val s
  | .swap req val => Sys2Proof.Machine.execSwap req val s
  | .cas req cmp val => Sys2Proof.Machine.execCas req cmp val s
  | .functionLevelReset vf => Sys2Proof.Machine.execFunctionLevelReset vf s
  | .flitArrival port crcOk poison target => Sys2Proof.Machine.execFlitArrival port crcOk poison target s
  | .add c rd ra im b => Sys2Proof.Machine.execAdd c rd ra im b s
  | .sub c rd ra im b => Sys2Proof.Machine.execSub c rd ra im b s
  | .mul c rd ra im b => Sys2Proof.Machine.execMul c rd ra im b s
  | .mulh c rd ra im m b => Sys2Proof.Machine.execMulh c rd ra im m b s
  | .div c rd ra im m b => Sys2Proof.Machine.execDiv c rd ra im m b s
  | .rem c rd ra im m b => Sys2Proof.Machine.execRem c rd ra im m b s
  | .and c rd ra im b => Sys2Proof.Machine.execAnd c rd ra im b s
  | .or c rd ra im b => Sys2Proof.Machine.execOr c rd ra im b s
  | .xor c rd ra im b => Sys2Proof.Machine.execXor c rd ra im b s
  | .andn c rd ra im b => Sys2Proof.Machine.execAndn c rd ra im b s
  | .shl c rd ra im b => Sys2Proof.Machine.execShl c rd ra im b s
  | .shr c rd ra im b => Sys2Proof.Machine.execShr c rd ra im b s
  | .sra c rd ra im b => Sys2Proof.Machine.execSra c rd ra im b s
  | .min c rd ra im m b => Sys2Proof.Machine.execMin c rd ra im m b s
  | .max c rd ra im m b => Sys2Proof.Machine.execMax c rd ra im m b s
  | .sel c rd ra rb fs => Sys2Proof.Machine.execSel c rd ra rb fs s
  | .clz c rd ra => Sys2Proof.Machine.execClz c rd ra s
  | .popc c rd ra => Sys2Proof.Machine.execPopc c rd ra s
  | .movi c rd imm => Sys2Proof.Machine.execMovi c rd imm s
  | .movhi c rd imm => Sys2Proof.Machine.execMovhi c rd imm s
  | .cmp c fd cc ra im b => Sys2Proof.Machine.execCmp c fd cc ra im b s
  | .ext c rd ra wc sg bo => Sys2Proof.Machine.execExt c rd ra wc sg bo s
  | .br c bi bf off => Sys2Proof.Machine.execBr c bi bf off s
  | .jmp c off => Sys2Proof.Machine.execJmp c off s
  | .jmpi c ra disp => Sys2Proof.Machine.execJmpi c ra disp s
  | .call c off => Sys2Proof.Machine.execCall c off s
  | .ret c ra => Sys2Proof.Machine.execRet c ra s
  | .loopImm c cnt fin => Sys2Proof.Machine.execLoopImm c cnt fin s
  | .loopReg c ra fin => Sys2Proof.Machine.execLoopReg c ra fin s
  | .loopbrk c n => Sys2Proof.Machine.execLoopbrk c n s
  | .lidx c rd cnt lv => Sys2Proof.Machine.execLidx c rd cnt lv s
  | .seghint c off => Sys2Proof.Machine.execSeghint c off s
  | .fset c mask => Sys2Proof.Machine.execFset c mask s
  | .fclr c mask => Sys2Proof.Machine.execFclr c mask s
  | .fop c fd fa fb tt => Sys2Proof.Machine.execFop c fd fa fb tt s
  | .vcwld c idx ra cnt => Sys2Proof.Machine.execVcwld c idx ra cnt s
  | .gmset c gn ra => Sys2Proof.Machine.execGmset c gn ra s
  | .tkwait c cell ra => Sys2Proof.Machine.execTkwait c cell ra s
  | .tkadv c cell inc => Sys2Proof.Machine.execTkadv c cell inc s
  | .tkset c cell ra => Sys2Proof.Machine.execTkset c cell ra s
  | .tqput c die tq rb => Sys2Proof.Machine.execTqput c die tq rb s
  | .tqget c die tq rd => Sys2Proof.Machine.execTqget c die tq rd s
  | .tqrel c die tq => Sys2Proof.Machine.execTqrel c die tq s
  | .fence c cls => Sys2Proof.Machine.execFence c cls s
  | .post c sp pri => Sys2Proof.Machine.execPost c sp pri s
  | .launch c sp pri => Sys2Proof.Machine.execLaunch c sp pri s
  | .spat c rd lv k => Sys2Proof.Machine.execSpat c rd lv k s
  | .sqid c rd => Sys2Proof.Machine.execSqid c rd s
  | .tend c => Sys2Proof.Machine.execTend c s
  | .chk c off => Sys2Proof.Machine.execChk c off s
  | .cmt c => Sys2Proof.Machine.execCmt c s
  | .abt c code => Sys2Proof.Machine.execAbt c code s
  | .gclr c => Sys2Proof.Machine.execGclr c s
  | .asrt c code => Sys2Proof.Machine.execAsrt c code s
  | .rgst c rd => Sys2Proof.Machine.execRgst c rd s
  | .txb c off => Sys2Proof.Machine.execTxb c off s
  | .txc c rd => Sys2Proof.Machine.execTxc c rd s
  | .snap c => Sys2Proof.Machine.execSnap c s
  | .snape c => Sys2Proof.Machine.execSnape c s
  | .ctxnew c rd ra => Sys2Proof.Machine.execCtxnew c rd ra s
  | .ctxdel c rd ra => Sys2Proof.Machine.execCtxdel c rd ra s
  | .ctxcore c sp rd ra => Sys2Proof.Machine.execCtxcore c sp rd ra s
  | .ctxmem c sp rd ra => Sys2Proof.Machine.execCtxmem c sp rd ra s
  | .ctxq c sp rd ra => Sys2Proof.Machine.execCtxq c sp rd ra s
  | .ctxbud c sp rd ra => Sys2Proof.Machine.execCtxbud c sp rd ra s
  | .ctxrunRun c rd ra rb => Sys2Proof.Machine.execCtxrunRun c rd ra rb s
  | .ctxrunRetry c rd ra rb => Sys2Proof.Machine.execCtxrunRetry c rd ra rb s
  | .ctxrunRefuse c rd ra rb => Sys2Proof.Machine.execCtxrunRefuse c rd ra rb s
  | .ctxrunSkip c rd ra rb => Sys2Proof.Machine.execCtxrunSkip c rd ra rb s
  | .ctxstop c sp rd ra => Sys2Proof.Machine.execCtxstop c sp rd ra s
  | .ctxrev c rd ra => Sys2Proof.Machine.execCtxrev c rd ra s
  | .ctxdlg c rd ra rb => Sys2Proof.Machine.execCtxdlg c rd ra rb s
  | .ctxrd c rd ra rb => Sys2Proof.Machine.execCtxrd c rd ra rb s
  | .ctxsaveSave c sp rd ra => Sys2Proof.Machine.execCtxsaveSave c sp rd ra s
  | .ctxsaveRestore c sp rd ra => Sys2Proof.Machine.execCtxsaveRestore c sp rd ra s
  | .shoot c rd ra rb => Sys2Proof.Machine.execShoot c rd ra rb s
  | .trap c n => Sys2Proof.Machine.execTrap c n s
  | .eret c => Sys2Proof.Machine.execEret c s
  | .sysrd c rd num => Sys2Proof.Machine.execSysrd c rd num s
  | .syswr c rb num => Sys2Proof.Machine.execSyswr c rb num s
  | .pwracq c ra => Sys2Proof.Machine.execPwracq c ra s
  | .pwrrel c => Sys2Proof.Machine.execPwrrel c s
  | .feat c rd w => Sys2Proof.Machine.execFeat c rd w s
  | .cyc c rd k => Sys2Proof.Machine.execCyc c rd k s
  | .tbase c ra => Sys2Proof.Machine.execTbase c ra s
  | .halt c => Sys2Proof.Machine.execHalt c s
  | .brk c code => Sys2Proof.Machine.execBrk c code s
  | .mcld c rd ra => Sys2Proof.Machine.execMcld c rd ra s
  | .microcodeS c ent arg => Sys2Proof.Machine.execMicrocodeS c ent arg s
  | .ld c rs ar fmt ofs => Sys2Proof.Machine.execLd c rs ar fmt ofs s
  | .st c rs ar sz ofs => Sys2Proof.Machine.execSt c rs ar sz ofs s
  | .ldv c vc vr ar ofs => Sys2Proof.Machine.execLdv c vc vr ar ofs s
  | .stv c vc vr ar ofs => Sys2Proof.Machine.execStv c vc vr ar ofs s
  | .gath c vc vr ar ew sg => Sys2Proof.Machine.execGath c vc vr ar ew sg s
  | .scat c vc vr ar ew => Sys2Proof.Machine.execScat c vc vr ar ew s
  | .spld c rs off => Sys2Proof.Machine.execSpld c rs off s
  | .spst c rs off => Sys2Proof.Machine.execSpst c rs off s
  | .fld c rs ar fmt arr => Sys2Proof.Machine.execFld c rs ar fmt arr s
  | .fldv c vc vr ar arr => Sys2Proof.Machine.execFldv c vc vr ar arr s
  | .cbrdVector c vc vr cb off => Sys2Proof.Machine.execCbrdVector c vc vr cb off s
  | .cbrdAddress c ar tl cb => Sys2Proof.Machine.execCbrdAddress c ar tl cb s
  | .cbrel c cb => Sys2Proof.Machine.execCbrel c cb s
  | .adrsetImm c ar imm => Sys2Proof.Machine.execAdrsetImm c ar imm s
  | .adrsetReg c ar rs => Sys2Proof.Machine.execAdrsetReg c ar rs s
  | .adraddImm c ar imm => Sys2Proof.Machine.execAdraddImm c ar imm s
  | .adraddReg c ar rs => Sys2Proof.Machine.execAdraddReg c ar rs s
  | .scld c xs ar all ofs => Sys2Proof.Machine.execScld c xs ar all ofs s
  | .ldgScalar c rs ar fmt d => Sys2Proof.Machine.execLdgScalar c rs ar fmt d s
  | .ldgVector c vc vr ar d => Sys2Proof.Machine.execLdgVector c vc vr ar d s
  | .cpyIn c q sp ce co => Sys2Proof.Machine.execCpyIn c q sp ce co s
  | .cpyOut c q sp ce co => Sys2Proof.Machine.execCpyOut c q sp ce co s
  | .cpyg c q sp ce co => Sys2Proof.Machine.execCpyg c q sp ce co s
  | .cpyb c q sp ce co cb => Sys2Proof.Machine.execCpyb c q sp ce co cb s
  | .fill c q sp ce co => Sys2Proof.Machine.execFill c q sp ce co s
  | .cred c q sp ce co rop fmt => Sys2Proof.Machine.execCred c q sp ce co rop fmt s
  | .gld c q rd ra sz aq arr => Sys2Proof.Machine.execGld c q rd ra sz aq arr s
  | .gst c q rb ra sz rl => Sys2Proof.Machine.execGst c q rb ra sz rl s
  | .aadd c q sp rd sz ord arr => Sys2Proof.Machine.execAadd c q sp rd sz ord arr s
  | .amin c q sp rd sz sg ord arr => Sys2Proof.Machine.execAmin c q sp rd sz sg ord arr s
  | .amax c q sp rd sz sg ord arr => Sys2Proof.Machine.execAmax c q sp rd sz sg ord arr s
  | .aand c q sp rd sz ord arr => Sys2Proof.Machine.execAand c q sp rd sz ord arr s
  | .aor c q sp rd sz ord arr => Sys2Proof.Machine.execAor c q sp rd sz ord arr s
  | .axor c q sp rd sz ord arr => Sys2Proof.Machine.execAxor c q sp rd sz ord arr s
  | .axch c q sp rd sz ord arr => Sys2Proof.Machine.execAxch c q sp rd sz ord arr s
  | .acas c q sp rd sz ord arr => Sys2Proof.Machine.execAcas c q sp rd sz ord arr s
  | .csigCounter c q co ra => Sys2Proof.Machine.execCsigCounter c q co ra s
  | .csigAddress c q ra => Sys2Proof.Machine.execCsigAddress c q ra s
  | .cwaitReg c co sb ra => Sys2Proof.Machine.execCwaitReg c co sb ra s
  | .cwaitImm c co sb imm => Sys2Proof.Machine.execCwaitImm c co sb imm s
  | .drain c sc => Sys2Proof.Machine.execDrain c sc s
  | .qadd c ql cls lm => Sys2Proof.Machine.execQadd c ql cls lm s
  | .qmax c ql cls lm => Sys2Proof.Machine.execQmax c ql cls lm s
  | .qmin c ql cls lm => Sys2Proof.Machine.execQmin c ql cls lm s
  | .qdrn c ql rd cl => Sys2Proof.Machine.execQdrn c ql rd cl s
  | .qclr c ql iv lm => Sys2Proof.Machine.execQclr c ql iv lm s
  | .mma c t qd aa ab fa fb ncm z ps => Sys2Proof.Machine.execMma c t qd aa ab fa fb ncm z ps s
  | .mmas c t qd sp ab fa fb ncm z => Sys2Proof.Machine.execMmas c t qd sp ab fa fb ncm z s
  | .tzero c t qd => Sys2Proof.Machine.execTzero c t qd s
  | .tld c t qd ar fmt ps => Sys2Proof.Machine.execTld c t qd ar fmt ps s
  | .tst c t qd ar fmt xs sat ps => Sys2Proof.Machine.execTst c t qd ar fmt xs sat ps s
  | .tadd c t qd ta src => Sys2Proof.Machine.execTadd c t qd ta src s
  | .tmov c t qd ta => Sys2Proof.Machine.execTmov c t qd ta s
  | .trow c rd cl => Sys2Proof.Machine.execTrow c rd cl s
  | .vadd e => Sys2Proof.Machine.execVadd e s
  | .vsub e => Sys2Proof.Machine.execVsub e s
  | .vmul e => Sys2Proof.Machine.execVmul e s
  | .vfma e => Sys2Proof.Machine.execVfma e s
  | .vfms e => Sys2Proof.Machine.execVfms e s
  | .vmin e => Sys2Proof.Machine.execVmin e s
  | .vmax e => Sys2Proof.Machine.execVmax e s
  | .vabs e => Sys2Proof.Machine.execVabs e s
  | .vneg e => Sys2Proof.Machine.execVneg e s
  | .vand e => Sys2Proof.Machine.execVand e s
  | .vor e => Sys2Proof.Machine.execVor e s
  | .vxor e => Sys2Proof.Machine.execVxor e s
  | .vshl e => Sys2Proof.Machine.execVshl e s
  | .vshr e => Sys2Proof.Machine.execVshr e s
  | .vsra e => Sys2Proof.Machine.execVsra e s
  | .vcmp e => Sys2Proof.Machine.execVcmp e s
  | .vsel e => Sys2Proof.Machine.execVsel e s
  | .vcvt e => Sys2Proof.Machine.execVcvt e s
  | .vqbfp e => Sys2Proof.Machine.execVqbfp e s
  | .vxbfp e => Sys2Proof.Machine.execVxbfp e s
  | .vrcp e => Sys2Proof.Machine.execVrcp e s
  | .vrsq e => Sys2Proof.Machine.execVrsq e s
  | .vexp2 e => Sys2Proof.Machine.execVexp2 e s
  | .vlog2 e => Sys2Proof.Machine.execVlog2 e s
  | .vtanh e => Sys2Proof.Machine.execVtanh e s
  | .vperm e => Sys2Proof.Machine.execVperm e s
  | .vxc e => Sys2Proof.Machine.execVxc e s
  | .vbc e => Sys2Proof.Machine.execVbc e s
  | .vext e => Sys2Proof.Machine.execVext e s
  | .viota e => Sys2Proof.Machine.execViota e s
  | .vscan e => Sys2Proof.Machine.execVscan e s
  | .vflg e => Sys2Proof.Machine.execVflg e s
  | .microcodeVcw e ent => Sys2Proof.Machine.execMicrocodeVcw e ent s
  | .cwaitTimeout bank => Sys2Proof.Machine.execCwaitTimeout bank s
  | .tdispRequest vf req => Sys2Proof.Machine.execTdispRequest vf req s
  | .vfEnable vf ctx => Sys2Proof.Machine.execVfEnable vf ctx s
  | .sdrWrite val => Sys2Proof.Machine.execSdrWrite val s
  | .savedBankBind idx place => Sys2Proof.Machine.execSavedBankBind idx place s
  | .trapRecordWrite => Sys2Proof.Machine.execTrapRecordWrite s
  | .versionCollect => Sys2Proof.Machine.execVersionCollect s
  | .ticketUpdatePerform => Sys2Proof.Machine.execTicketUpdatePerform s
  | .launchComplete => Sys2Proof.Machine.execLaunchComplete s
  | .contextFormComplete => Sys2Proof.Machine.execContextFormComplete s
  | .shootdownProcess => Sys2Proof.Machine.execShootdownProcess s
  | .unloadComplete => Sys2Proof.Machine.execUnloadComplete s
  | .getVersion => Sys2Proof.Machine.execGetVersion s
  | .getCapabilities => Sys2Proof.Machine.execGetCapabilities s
  | .negotiateAlgorithms => Sys2Proof.Machine.execNegotiateAlgorithms s
  | .getDigests => Sys2Proof.Machine.execGetDigests s
  | .getCertificate => Sys2Proof.Machine.execGetCertificate s
  | .challenge => Sys2Proof.Machine.execChallenge s
  | .getMeasurements => Sys2Proof.Machine.execGetMeasurements s
  | .keyExchange => Sys2Proof.Machine.execKeyExchange s
  | .finish => Sys2Proof.Machine.execFinish s
  | .coldStart => Sys2Proof.Machine.execColdStart s
  | .warmStart => Sys2Proof.Machine.execWarmStart s
  | .powerLoss => Sys2Proof.Machine.execPowerLoss s
  | .bucketRefill => Sys2Proof.Machine.execBucketRefill s

end Sys2Proof.Machine
end

