-- ==== Sys2Proof/Machine/Step.lean ====
section
/-! DEFINITION. One step: the next move of the agenda, or, where the agenda is empty, the planning of the next cycle. A
program comes to run from reset by moves of the host and of the command processor, whose last is LAUNCH_BIND (assumption
log, entry 6). -/

namespace Sys2Proof.Machine

open Sys2Proof

/-- One step of the machine. With power absent nothing but a start takes place (R374). -/
def step (s : State) : Host.Outcome State Fault Refusal :=
  match s.agenda with
  | i :: rest => if s.power || Instr.wakes i then exec i { s with agenda := rest } else .next { s with agenda := rest }
  | [] => if s.power then .next s.plan else .fault .unpowered

/-- The state whose next move is the instruction that the decoder reads from a word of the opcode table. -/
def State.withFetchWord (s : State) (nbits w : Nat) : State :=
  match decodeTableWord nbits w with
  | some i => { s with agenda := [i] }
  | none => s

end Sys2Proof.Machine
end

