-- ==== Sys2Proof/WellFormed.lean ====
section
/-! DEFINITION. Which instructions are well formed: no field holds a value that its entry states to be illegal, the
constructor is the one that the encoding reads back, and a move names units that exist (R8 to R13, R40 to R47). -/

namespace Sys2Proof

/-- The constructor is the one that its encoding reads back. CTXRUN and CTXSAVE have one encoding each (R313): which of
their operations a word performs stands in an operand, so the constructors of the other operations never come out of the
decoder. -/
def Instr.canonical : Instr → Bool
  | .ctxrunRetry .. | .ctxrunRefuse .. | .ctxrunSkip .. | .ctxsaveRestore .. => false
  | _ => true

/-- A column of a sequencer (R10). -/
def colOk (col : Nat) : Bool := col < 4

/-- A copy queue of a column (R206). -/
def queueOk (q : Nat) : Bool := q < 4

/-- A priority (R255, R261). -/
def priOk (pri : Nat) : Bool := pri < 8

/-- A place has a column of its core (R10, R12). -/
def Place.ok (p : Place) : Bool := colOk p.col

/-- A move names a column, slot, queue, buffer, priority or place that exists; a syllable has no such argument. -/
def Instr.namesUnits : Instr → Bool
  | .waitSyllableExecute _ col slot => colOk col && slot < 8
  | .mmasRow _ col => colOk col
  | .packetStart _ col q | .packetGranule _ col q | .packetComplete _ col q | .atomicPerform _ col q => colOk col && queueOk q
  | .cbcWrite _ col buf _ => colOk col && buf < 8
  | .launchBind pri places => priOk pri && places.all Place.ok
  | .taskDispatch die pri place => die < 8 && priOk pri && Place.ok place
  | .savedBankBind _ place => Place.ok place
  | _ => true

/-- The instruction is well formed. -/
def Instr.wellFormed (i : Instr) : Bool := i.fieldsOk && i.canonical && i.namesUnits

end Sys2Proof
end

