-- ==== Sys2Proof/Safety.lean ====
section
/-! DEFINITION. What counts as a safe run, and the words in which statements about the machine are made: the invariant of
memory, what a run reaches, when a syllable takes effect, and which bytes and registers a move may change. -/

namespace Sys2Proof.Machine

open Sys2Proof

/-! ### Runs -/

/-- The memory of the package and what it holds of other memories are in canonical form. -/
structure State.MemOk (s : State) : Prop where
  mem    : Memory.wf s.mem = true
  remote : Memory.wf s.remote = true

/-- What a run from a state reaches. -/
inductive Reaches : State → State → Prop where
  | here (s : State) : Reaches s s
  | step {s t u : State} (before : Reaches s t) (move : step t = .next u) : Reaches s u

/-- A run is safe when every state it reaches answers a next state, or has no power (R374), and keeps memory canonical. -/
def State.Safe (s : State) : Prop :=
  ∀ t : State, Reaches s t → t.MemOk ∧ (step t = .fault .unpowered → t.power = false) ∧
    ∀ r : Refusal, step t ≠ .refused r

/-! ### When a syllable takes effect -/

/-- A syllable takes effect when its predicate is 1 (R49), its checks are not being gathered and it may stand in an open region
(R293); where it stands alone, it consumes no poison (R145, R422). -/
structure State.Performs (s : State) (i : Instr) (c : Ctl) : Prop where
  pred   : s.pred c = true
  phase  : s.cur.phase ≠ .collect
  poison : s.cur.phase = .alone → s.poisonCause i = []
  region : s.b.region.isSome = true → Instr.nspec i = none

/-- What a vector form leaves that gives element `k` of its destination, in format `fmt`, the bits `(res k).1` and the flags
`(res k).2` (R154): the elements in the lanes that take part, the flags of their lanes unless NF is set, and under TQ one
contribution of the elements for which `w k` says that they are written. -/
def State.Delivers (s : State) (e : Vcw) (fmt bound : Nat) (res : Nat → Nat × Nat) (w : Nat → Bool) (t : State) : Prop :=
  let n := fmtWidth fmt
  let on (l : Nat) : Bool := (s.laneMask e).testBit l
  ∃ v fl : Nat,
    t = (let t := s.putV s.clV (s.eff e.rd e.std) v (s.laneMask e) bound
         let t := if e.nf then t else t.resVfl s.clV fl bound
         if e.tq ∧ s.laneMask e ≠ 0 then t.contribute fmt bound
           (((List.range (512 / n)).filter fun k => w k && on (k * n / 32)).map fun k => (res k).1)
         else t) ∧
    (∀ k, k < 512 / n → v / 2 ^ (n * k) % 2 ^ n = (res k).1 % 2 ^ n) ∧ fl < 2 ^ 80 ∧
    ∀ l j, l < 16 → j < 5 → fl.testBit (5 * l + j) =
      (on l && decide (∃ i, i < 32 / n ∧ (res (l * (32 / n) + i)).2.testBit j = true))

/-! ### What a move may change -/

/-- Global memory reads the same byte at every address of both stores. -/
def State.SameGlobal (s t : State) : Prop :=
  ∀ a : Nat, Memory.read t.mem a = Memory.read s.mem a ∧ Memory.read t.remote a = Memory.read s.remote a

/-- The scratchpad shares of every core read the same. -/
def State.SameShares (s t : State) : Prop :=
  ∀ (n a : Nat) (slotB : Bool),
    Memory.read ((t.cores.get .reset n).slot slotB).share a = Memory.read ((s.cores.get .reset n).slot slotB).share a

/-- The registers of the bank in focus that a program reads are the same. -/
structure Bank.SameRegs (b x : Bank) : Prop where
  sr    : x.sr = b.sr
  ar    : x.ar = b.ar
  fl    : x.fl = b.fl
  gm    : x.gm = b.gm
  vr    : x.vr = b.vr
  vfl   : x.vfl = b.vfl
  q     : x.q = b.q
  xs    : x.xs = b.xs
  spill : x.spill = b.spill
  vcw   : x.vcw = b.vcw
  cn    : x.cn = b.cn
  cbc   : x.cbc = b.cbc
  cbs   : x.cbs = b.cbs
  kfr   : x.kfr = b.kfr

/-- The system and exception registers of the bank, its place in the program and its loops are the same. -/
structure Bank.SameSystem (b x : Bank) : Prop where
  pc    : x.pc = b.pc
  npc   : x.npc = b.npc
  lc    : x.lc = b.lc
  li    : x.li = b.li
  ls    : x.ls = b.ls
  le    : x.le = b.le
  depth : x.depth = b.depth
  rgst  : x.rgst = b.rgst
  vsnp  : x.vsnp = b.vsnp
  trow  : x.trow = b.trow
  tbr   : x.tbr = b.tbr
  epc   : x.epc = b.epc
  enpc  : x.enpc = b.enpc
  esta  : x.esta = b.esta
  ead   : x.ead = b.ead
  edt   : x.edt = b.edt
  eact  : x.eact = b.eact
  pgr   : x.pgr = b.pgr

/-- Everything outside the bank in focus but the counter of free values is the same. -/
structure State.SameRest (s t : State) : Prop where
  banks  : t.banks = s.banks
  cores  : t.cores = s.cores
  mem    : t.mem = s.mem
  remote : t.remote = s.remote
  ctxs   : t.ctxs = s.ctxs
  grants : t.grants = s.grants
  recs   : t.recs = s.recs
  cells  : t.cells = s.cells
  tickQ  : t.tickQ = s.tickQ
  tokqs  : t.tokqs = s.tokqs
  taskqs : t.taskqs = s.taskqs
  launchqs : t.launchqs = s.launchqs
  vers   : t.vers = s.vers
  snaps  : t.snaps = s.snaps
  agenda : t.agenda = s.agenda

end Sys2Proof.Machine
end

