-- ==== Sys2Proof/Certificates/Slice0/Obligations.lean ====
section
/-! DEFINITION. The statements for the provers. A statement of several parts names each part under Claims, where its docstring
cites the rules of the spec that it formalises. -/

open Sys2Proof Sys2Proof.Machine

/-- R40, R43 to R45, R60 to R67. Words written out from the tables of the spec decode to the instructions that they stand
for. -/
def Obligations.DecodedWords : Prop :=
  let c : Ctl := ⟨false, 0, false⟩
  decode? .s 0x1200C008 = some (.movi c 3 8) ∧ decode? .s 0x14014480 = some (.cmp c 1 2 9 false 0) ∧
  decode? .s 0x01224009 = some (.sub ⟨false, 1, false⟩ 9 0 false 9) ∧ decode? .s 0x1D082020 = some (.loopImm c 4 32) ∧
  decode? .s 0x58000003 = some (.trap c 3) ∧ decode? .s 0x5A010700 = some (.sysrd c 4 0x700) ∧
  decode? .s 0x2D081AA0 = some (.tqget c 8 3 21) ∧ decode? .s 0x30026000 = some (.post c 2 3) ∧
  decode? .s 0x4F030C60 = some (.ctxstop c 3 3 6) ∧ decode? .s 0x54024A2C = some (.shoot c 9 10 11) ∧
  decode? .l 0x08000031 = some (.ldv c false 0 1 17) ∧ decode? .w 0x04091E18 = some (.st c 9 3 3 24) ∧
  decode? .l 0x3C028601 = some (.ldgScalar c 5 1 4 1) ∧ decode? .c 0x00094A00 = some (.cpyOut c 1 2 true 2) ∧
  decode? .c 0x0A12CA53 = some (.gld c 2 22 20 2 true 3) ∧ decode? .q 0x18048000 = some (.qdrn c 0 9 false) ∧
  decode? .x 0x000000112C02 = some (.mma c 0 false 1 2 2 6 0 true false) ∧ decode? .x 0x0E0280000000 = some (.trow c 5 false)

/-- R43 to R47, R60 to R67. The encoder and the decoder agree: every well-formed syllable is read back from its word in every
slot where it may stand; and a word that decodes is well formed and is exactly the word of its instruction, with no bit
ignored. -/
def Obligations.EncodeAndDecodeAgree : Prop :=
  (∀ (i : Instr) (sl : Slot), i.wellFormed = true → sl ∈ i.slots → decodeSyl sl (encode i) = .ok i) ∧
  (∀ (sl : Slot) (w : Nat) (i : Instr), decodeSyl sl w = .ok i → i.wellFormed = true ∧ sl ∈ i.slots ∧ encode i = w % 2 ^ sl.width)

/-- R5, R9, R312, R358, R362, R364, R366, R373, R374, R415. What a start leaves: the registers whose reset value the spec
gives, no bank bound, and memory in its canonical form. -/
def Obligations.ResetState : Prop :=
  let s := State.reset
  s.MemOk ∧ s.bound = [] ∧ s.power = true ∧ s.sysGet 0x21 = 20000 ∧ s.sysGet 0x20 = 16384 ∧ s.sysGet 0x4A = 1360 ∧
  s.feat = 0xF ∧ s.vctr = 0 ∧ s.sysGet 0x50 = 0 ∧ s.sysGet 0x700 = 0 ∧ s.barRead 0x1000 = 0 ∧ s.barRead 0x1008 = 0 ∧
  s.barRead 0x2008 = 0 ∧ (s.barRead 0x2010).getLsbD 63 = true ∧ s.barRead 0x2100 = 0 ∧ s.barRead 0x100000 = 0 ∧ (s.ctx 0).st = .run ∧
  (∀ n, n ≠ 0 → s.ctxs.find n = none) ∧ (s.ctx 0).depth = 0 ∧ s.tokqs = [] ∧ s.readTqc 0 = 0

/-- R50, R374. One step takes the next move of the agenda; with none left it plans the next cycle. Without power every move
but a start is dropped, and the machine stops (assumption log, entry 79). A word of the opcode table, placed as the next
move, is executed as the decoder reads it. -/
def Obligations.StepRunsTheNextMove : Prop :=
  ∀ (s : State) (i : Instr) (is : List Instr) (nbits w : Nat),
    (s.agenda = i :: is → s.power = true ∨ i = .coldStart → step s = exec i { s with agenda := is }) ∧
    (s.agenda = i :: is → s.power = false → i ≠ .coldStart → step s = .next { s with agenda := is }) ∧
    (s.agenda = [] → s.power = true → step s = .next s.plan) ∧ (s.agenda = [] → s.power = false → step s = .fault .unpowered) ∧
    (decodeTableWord nbits w = some i → s.power = true → step (s.withFetchWord nbits w) = exec i { s with agenda := [] })

/-- R213, R230. No step breaks the canonical form of memory, in any state that has it. -/
def Obligations.StepKeepsMemory : Prop :=
  ∀ s t : State, s.MemOk → step s = .next t → t.MemOk

/-- R68, R69, R73, R206, R213. No syllable writes memory when it issues: whatever it does, global memory, the poison of its
lines and every scratchpad share are as they were; stores, packets and operations write later. -/
def Obligations.SyllablesWriteNoMemory : Prop :=
  ∀ (s t : State) (i : Instr) (c : Ctl), Instr.ctl i = some c → exec i s = .next t →
    t.mem = s.mem ∧ t.remote = s.remote ∧ t.poison = s.poison ∧ t.vers = s.vers ∧ s.SameShares t

/-- R68, R72, R98 to R107, R118, R132, R133, R178, R267, R268, R295, R351, R358, R366. The frame of the forms that only write
a register: no register, flag or special register changes at issue, and nothing but its own destination is on its way anew;
the bank's place in the program, its stores, packets and waits, every other bank and all memory stay. -/
def Obligations.RegisterFormsFrame : Prop :=
  ∀ (s t : State) (i : Instr) (c : Ctl) (l : Loc),
    (match i with
    | .add d rd .. | .sub d rd .. | .mul d rd .. | .mulh d rd .. | .div d rd .. | .rem d rd .. | .and d rd .. | .or d rd ..
    | .xor d rd .. | .andn d rd .. | .shl d rd .. | .shr d rd .. | .sra d rd .. | .min d rd .. | .max d rd .. | .sel d rd ..
    | .clz d rd .. | .popc d rd .. | .movi d rd .. | .movhi d rd .. | .lidx d rd .. | .spat d rd .. | .sqid d rd
    | .rgst d rd | .feat d rd .. | .cyc d rd .. | .spld d rd .. | .qdrn d _ rd false => c = d ∧ l = .s rd.toNat
    | .cmp d fd .. | .fop d fd .. => c = d ∧ l = .f fd.toNat
    | .adrsetImm d ar .. | .adrsetReg d ar .. | .adraddImm d ar .. | .adraddReg d ar .. => c = d ∧ l = .a ar.toNat
    | .gmset d gn .. => c = d ∧ l = .gm gn.toNat
    | _ => False) → s.Performs i c → exec i s = .next t →
    s.b.SameRegs t.b ∧ s.b.SameSystem t.b ∧ s.SameRest t ∧ t.b.stores = s.b.stores ∧ t.b.queues = s.b.queues ∧ t.b.forms = s.b.forms ∧
      t.b.holds = s.b.holds ∧ t.b.contribs = s.b.contribs ∧ t.b.kindA = s.b.kindA ∧ t.b.halted = s.b.halted ∧ t.b.region = s.b.region ∧
      (t.b.pend.filter fun p => p.loc != l && (p.lanes != 0 || p.ckLanes != 0)) =
        (s.b.pend.filter fun p => p.loc != l && (p.lanes != 0 || p.ckLanes != 0)) ∧
      (t.b.fars.filter fun f => f.dest != l) = s.b.fars.filter fun f => f.dest != l

/-- R49. A syllable whose predicate is 0 has no effect, whichever form it is (of ASRT the predicate is the condition it
asserts). -/
def Obligations.PredicateFalse : Prop :=
  ∀ (s : State) (i : Instr) (c : Ctl), Instr.ctl i = some c → (∀ d code, i ≠ .asrt d code) → s.pred c = false → exec i s = .next s.draw

/-- R40, R42, R48, R50, R108, R274. BUNDLE_ISSUE runs what the bundle at the bank's pc decodes to: a bundle with one
syllable, that is legal, may issue now and raises nothing, does what the syllable's instruction does to the state in which
the bundle stands, and then retires if nothing holds it; the syllable is the decoder's reading of the slot's word. Says of
each that it completes: bundleIssue. -/
def Obligations.BundleIssueRunsTheSyllable : Prop :=
  ∀ (s : State) (bank slot w tmpl len : Nat) (i : Instr) (c : Ctl), s.b.key = bank → slot < 8 → slot ≠ 3 → slot ≠ 4 → tmpl ≠ 0 →
    let hdr : BHdr := ⟨false, 0, 0, false, false, 0, false, false, 0, 0⟩
    let b := s.b
    b.bound = true → s.core.frozen = false → s.core.fgB = b.slotB → b.issuedCyc ≠ s.now + 1 → b.open_ = false → b.halted = none →
    b.kindA = [] → b.region = none → b.preempt = false → b.holds = [] → b.fars = [] → b.owed = none → (∀ r ∈ s.pwrReqs, r.1 ≠ bank) →
    (∀ x ∈ s.rivals, x.slotB = b.slotB) →
    let s1 := s.draw.enterHalf.modB fun b => { b with len := 0, fall := b.pc, taken := false, rep := 0 }
    s1.fetch b.pc.toNat = .ok ⟨hdr, [⟨0, true, tmpl, 0, [(slot, w)]⟩], len⟩ →
    decodeSyl (slotOf slot) w = .ok i → Instr.ctl i = some c → c.h = false → Instr.opens i = false →
    let end_ := b.pc + .ofNat 56 len
    let n := if (s1.trailer end_).isSome then len + 12 else len
    s1.fetchWaits b.pc.toNat n = false →
    let s2 := s1.fillLines b.pc.toNat n
    let s3 := s2.modB fun b => { b with
      len := len, fall := s2.follow end_, owed := if s2.unread end_ then some (end_, false) else none }
    let s4 := { s3 with b := { s3.b with iss := s3.b.iss + 1, safe := false, yld := false, live := 0 }, cur := ⟨0, 0, 0, 0, .alone, []⟩ }
    let x : Work := ⟨0, slot, 0, 0, false, i⟩
    let at_ (p : Phase) : State := { s4 with cur := ⟨0, slot, 0, 0, p, []⟩, fresh := s4.fresh + slot }
    s3.pastLimit len = false → s4.issueIllegal [x] = none → s4.usedSlots x = [] → s4.workStalls s4.fresh x = false →
    s4.queuesFull s4.fresh [x] = false → s4.headCauses hdr true [x] = [] → (∀ g, exec i (at_ .collect) = .next g → g.cur.found = []) →
    ∀ u, exec i (at_ .commit) = .next u →
      let u1 : State := { u with fresh := s4.fresh + 64, cur := ⟨0, 0, 0, 0, .alone, []⟩ }
      let u2 := if s4.clearsTrow s4.fresh x && u1.b.region.isNone then u1.dropStreams else u1
      let v := (u2.modB (·.overtake)).fixOperands
      v.landingFull = false → v.acceptTaken = false → v.b.region = none →
      exec (.bundleIssue bank) s = .next (s3.stamp
        ((v.opened hdr [(slot, .op i)] true [(slot, ⟨some (.op i), false, 0⟩)] [] [slot]).closeIssue) (s4.occupied [x]))

/-- R50. Hold and repeat. At the first issue of a bundle every present slot takes up its syllable with number 0, and a held
syllable of an absent slot issues again with the next number, unless the bundle waits or is a safe or yield point; at a
repetition a present syllable counts on only if it is held. -/
def Obligations.HoldsRepeat : Prop :=
  ∀ (b : Bank) (ps : List (Nat × Syl)) (first clear wait : Bool) (k : Nat), k < 8 * b.cols →
    let (h', xs) := b.takeHolds ps first clear wait
    let h := b.holds.get ⟨none, false, 0⟩ k
    let off := clear = true ∧ first = true
    (∀ e y, ps.find? (fun e => e.1 == k) = some (e, y) → first = true →
      h'.get ⟨none, false, 0⟩ k = ⟨some y, Syl.hold y, 0⟩ ∧ (k, ⟨some y, Syl.hold y, 0⟩, false) ∈ xs) ∧
    (∀ e y, ps.find? (fun e => e.1 == k) = some (e, y) → first = false →
      let g : Hold := if Syl.hold y then { h with j := h.j + 1 } else h
      h'.get ⟨none, false, 0⟩ k = g ∧ (k, g, false) ∈ xs) ∧
    (ps.find? (fun e => e.1 == k) = none → h.act = true → ¬off → wait = false →
      h'.get ⟨none, false, 0⟩ k = { h with j := h.j + 1 } ∧ (k, { h with j := h.j + 1 }, true) ∈ xs) ∧
    (ps.find? (fun e => e.1 == k) = none → (h.act = false ∨ off ∨ wait = true) →
      (∀ e ∈ xs, e.1 ≠ k) ∧ (off → (h'.get ⟨none, false, 0⟩ k).act = false) ∧ (¬off → h'.get ⟨none, false, 0⟩ k = h)) ∧
    (∀ e ∈ xs, e.1 < 8 * b.cols)

/-- R37, R108, R115, R270, R302, R356. Retirement of a bundle that holds nothing back: the next bundle is the target of its
transfer, or the loop test's choice, or inside a trap handler the fall-through, and no register of the program changes. A
bundle with TEND whose work has ended unbinds its bank, which leaves its launch. Says of each that it completes: bundleIssue.
-/
def Obligations.Retirement : Prop :=
  ∀ (s : State) (bank : Nat), s.b.key = bank → s.b.bound = true → s.core.frozen = false → s.b.issuedCyc ≠ s.now + 1 → s.b.open_ = true →
    s.b.halted = none → s.b.rep = 0 → s.b.barr = none → s.b.waitSyl = [] → s.b.safe = false → s.b.yld = false →
    (s.b.forms = [] → ∃ t : State, exec (.bundleIssue bank) s = .next t ∧ t.b.open_ = false ∧ t.b.pc = t.b.npc ∧
      (s.b.taken = true → t.b.npc = s.b.npc ∧ t.b.depth = s.b.depth) ∧
      (s.b.taken = false → s.b.esta.getLsbD 63 = true → t.b.npc = s.b.fall ∧ t.b.depth = s.b.depth) ∧
      (s.b.taken = false → s.b.esta.getLsbD 63 = false → t.b.npc = (s.b.loopTest 7).npc ∧ t.b.depth = (s.b.loopTest 7).depth) ∧
      s.b.SameRegs t.b ∧ t.b.holds = s.b.holds ∧ t.b.esta = s.b.esta ∧ s.SameRest t) ∧
    (∀ f, s.b.forms = [f] → f.kind = .tend → s.draw.tendDone = true → ∃ t : State, exec (.bundleIssue bank) s = .next t ∧
      t.b = Bank.fresh bank ∧ t.banks = s.banks ∧ t.mem = s.mem ∧ (∀ e ∈ t.snaps, e.2.bank ≠ bank) ∧ (∀ r ∈ t.pwrReqs, r.1 ≠ bank) ∧
      (∀ l ∈ s.live, l.id = s.b.lnch → l.bound = true → { l with banks := l.banks.filter (· != s.b.uid) } ∈ t.live) ∧
      (∀ l ∈ s.live, l.id ≠ s.b.lnch → l ∈ t.live)) ∧
    (∀ f, s.b.forms = [f] → f.kind = .tend → s.draw.tendDone = false → s.b.kindA = [] → s.b.preempt = false →
      exec (.bundleIssue bank) s = .next s.draw)

/-- R47, R48, R54, R57, R182, R186, R282, R353. A bundle that cannot be read, or that is illegal, traps on itself before any
part of it executes: a translation fault of its first failing line is FETCH, a poisoned line is POISON, and a bundle with
illegal header fields, column groups or syllables, past the limits of its segment, or whose syllables may not issue together,
is ILLEGAL, at the place of the first such syllable; a header that could be read and is illegal, or asks for a point above
the context's, ranks before the poison of a later line. In an open region nothing is delivered, and the region aborts. That a
header which could be read ranks before a later line, and what the limits count, is the model's reading (log entries 7, 8 and
104). -/
def Obligations.IssueTraps : Prop :=
  ∀ (s : State) (bank : Nat), s.b.key = bank → s.b.bound = true → s.core.frozen = false → s.core.fgB = s.b.slotB →
    s.b.issuedCyc ≠ s.now + 1 → s.b.open_ = false → s.b.halted = none → s.b.kindA = [] → s.b.preempt = false → s.b.fars = [] →
    s.b.owed = none → (∀ r ∈ s.pwrReqs, r.1 ≠ bank) → (∀ x ∈ s.rivals, x.slotB = s.b.slotB) → s.draw.b.asyncAbort = none →
    let pc := s.b.pc.toNat
    let s1 := s.draw.enterHalf.modB fun b => { b with len := 0, fall := b.pc, taken := false, rep := 0 }
    let s2 := s1.modB (·.dropLines (pc / 64 * 64))
    let does (t : State) : Prop := exec (.bundleIssue bank) s = .next t
    let takes (t : State) : Prop := does (s.draw.stamp t [])
    let f := s1.fetch pc
    let read := (s2.fetchFrom 1 pc).1
    let h := bhdr (leNat (read.take 4))
    let wrong : Prop := h.low ≠ TMARK ∧ s2.headerOk h = false
    let power : Prop := h.opc = true ∧ rfld (s.ctx s.b.ctx).power 2 0 < h.opp
    let cause (k : Nat) : Cause := ⟨1, 0, k % 8, k / 8, s.b.pc.setWidth 64, 0, false, .before, false, none⟩
    let illegal (t : State) (k : Nat) : Prop :=
      (s.b.region = none → does (t.stamp (t.takeTrap (cause k)) [])) ∧
      (∀ r, s.b.region = some r → ∃ u, does u ∧ u.b.region = none ∧ u.b.pc = r.label ∧ rfld u.b.rgst 60 56 = 6 ∧ rfld u.b.rgst 55 48 = 1)
    (∀ l e, f = .fault l e → s.b.region = none → e.cause ≠ 0 → takes (s2.takeTrap
      ⟨2, e.cause, 0, 0, .ofNat 64 (if e.cause = 7 then e.cp else l), .ofNat 64 (e.cause * 2 ^ 59), false, .before, e.cause == 7, none⟩)) ∧
    (∀ l e, f = .fault l e → s.b.region = none → e.cause = 0 →
      (read.length < 4 ∨ (¬wrong ∧ ¬power) →
        takes (s2.takeTrap ⟨3, 0, 0, 0, .ofNat 64 l, 0, false, .before, false, none⟩)) ∧
      (4 ≤ read.length → wrong → takes (s2.takeTrap ⟨1, 0, 0, 0, s.b.pc.setWidth 64, 0, false, .before, false, none⟩)) ∧
      (4 ≤ read.length → ¬wrong → power → takes (s2.takeTrap ⟨13, 3, 0, 0, 0, 3, false, .before, false, none⟩))) ∧
    (∀ l e r, f = .fault l e → s.b.region = some r → ∃ t, takes t ∧ t.b.region = none ∧ t.b.pc = r.label ∧ rfld t.b.rgst 60 56 = 7) ∧
    (f = .illegal → illegal s1 0) ∧
    (∀ x, f = .ok x →
      let end_ := s.b.pc + .ofNat 56 x.len
      let n := if (s1.trailer end_).isSome then x.len + 12 else x.len
      let s3 := s1.fillLines pc n
      let s4 := s3.modB fun b => { b with
        len := x.len, fall := s3.follow end_, owed := if s3.unread end_ then some (end_, false) else none }
      let form : Prop := s4.headerOk x.hdr = true ∧ (x.hdr.ncg = true ∨ x.groups ≠ []) ∧ s4.pastLimit x.len = false
      let slots := x.slots
      let bad := slots.find? (sylBad s.b.cols x.hdr)
      let ps := slots.filterMap fun e => e.2.map (e.1, ·)
      let b5 : Bank := { s4.b with iss := s4.b.iss + 1, safe := x.hdr.safe, yld := x.hdr.yld, live := x.hdr.live }
      let s5 : State := { s4 with b := b5, cur := ⟨0, 0, 0, 0, .alone, []⟩ }
      let issues := (s4.b.takeHolds ps true (x.hdr.safe || x.hdr.yld) x.hdr.wait).2
      let found := issues.map fun e => (e.1, e.2.1.syl.bind fun y => s5.resolve s5.fresh e.1 e.2.1.j e.2.2 y)
      let used := (found.filterMap Prod.snd).flatMap s5.usedSlots
      let works := found.filter fun r => ps.any (fun e => e.1 == r.1) || !used.contains r.1
      s1.fetchWaits pc n = false →
      (x.hdr.low ≠ 0 ∨ groupsOk x.groups = false → illegal s3 0) ∧
      (x.hdr.low = 0 → groupsOk x.groups = true → ¬form → illegal s4 0) ∧
      (∀ e, x.hdr.low = 0 → groupsOk x.groups = true → form → bad = some e → illegal s4 e.1) ∧
      (∀ r, x.hdr.low = 0 → groupsOk x.groups = true → form → bad = none → works.find? (fun r => r.2.isNone) = some r →
        illegal s4 r.1) ∧
      (∀ k, x.hdr.low = 0 → groupsOk x.groups = true → form → bad = none → (∀ r ∈ works, r.2.isSome = true) →
        s5.issueIllegal (works.filterMap Prod.snd) = some k → illegal s4 k))

/-- R52, R174, R276. WAIT_SYLLABLE_EXECUTE: a pending syllable whose predicate is 1 executes as its instruction does, and is
pending no more; one whose predicate is 0 stays pending. FAIRNESS_EXPIRY: a background bank whose count stands at 4,096
issues alone, and one whose count does not stays as it is. Says of each that it completes: waitSyllableExecute,
fairnessExpiry. -/
def Claims.WaitAndFairness : Prop :=
  ∀ (s : State) (bank col slot : Nat) (i : Instr) (c : Ctl), s.b.key = bank → s.b.bound = true → s.core.frozen = false →
    let k := 8 * col + slot
    let y : Work := ⟨col, slot, 0, 0, false, i⟩
    let s4 := s.draw.modB fun b => { b with iss := b.iss + 1 }
    let at_ (p : Phase) : State := { s4 with cur := ⟨col, slot, 0, 0, p, []⟩, fresh := s4.fresh + k }
    (s.b.halted = none → s.b.open_ = true → s.b.region = none → slot < 8 → col < 4 →
      s.b.waitSyl.find? (fun e => e.1 == k) = some (k, .op i) → Instr.ctl i = some c → (Instr.slots i).contains (slotOf slot) = true →
      s.core.fgB = s.b.slotB → (∀ x ∈ s.rivals, x.slotB = s.b.slotB) → s.b.issuedCyc ≠ s.now + 1 →
      (s4.works s4.fresh y = false → exec (.waitSyllableExecute bank col slot) s = .next s.draw) ∧
      (s4.ready s4.fresh = [y] → s4.issueIllegal [y] = none →
        s4.queuesFull s4.fresh [y] = false → Instr.opens i = false → (∀ g, exec i (at_ .collect) = .next g → g.cur.found = []) →
        ∀ u, exec i (at_ .commit) = .next u →
        let u1 : State := { u with fresh := s4.fresh + 64, cur := ⟨0, 0, 0, 0, .alone, []⟩ }
        let u2 := if s4.clearsTrow s4.fresh y && u1.b.region.isNone then u1.dropStreams else u1
        let v := (u2.modB (·.overtake)).fixOperands
        v.landingFull = false → v.acceptTaken = false → v.b.region = none → s.cur.found = [] →
        exec (.waitSyllableExecute bank col slot) s = .next (s4.stamp (v.modB fun b => { b with
          waitSyl := b.waitSyl.filter fun e => !([k].contains e.1), wx := .ofNat 32 (b.wx.toNat ||| 2 ^ k) }) (s4.occupied [y]))) ∧
      (∀ rd imm, i = .movi c rd imm → slot = 0 → rd ≠ 0 → s.b.fars = [] → s.b.contribs = [] → s.rivals = [] →
        (∀ p ∈ s.b.pend, p.iss ≤ s.b.iss) → s4.ready s4.fresh = [y] → (at_ .collect).poisonCause i = [] →
        ∃ t, exec (.waitSyllableExecute bank col slot) s = .next t ∧ (∀ e ∈ t.b.waitSyl, e.1 ≠ k) ∧
          (∀ e ∈ s.b.waitSyl, e.1 ≠ k → e ∈ t.b.waitSyl) ∧ t.b.wx.toNat = s.b.wx.toNat ||| 2 ^ k ∧
          (∃ p ∈ t.b.pend, p.loc = .s rd.toNat ∧ p.val = (imm.signExtend 64).toNat ∧ p.due = s.now + 1) ∧ t.mem = s.mem)) ∧
    (s.core.fgB ≠ s.b.slotB → s.b.issuedCyc ≠ s.now + 1 → (∀ x ∈ s.rivals, x.issuedCyc ≠ s.now + 1) →
      exec (.fairnessExpiry bank) s =
        .next (if 4096 ≤ s.core.fair.get 0 s.b.col then s.draw.issueStep true else s.draw))

/-- R53, R55, R57, R59, R225, R389. SEGMENT_EXPAND reads one more fetch line ahead, as memory holds it: the first that the
half in issue lacks, of the segment from the bundle in issue on, and then the first that the other half lacks of the segment
that the hint or its trailer names; it waits for the line's token and charges it. A line that cannot be translated, or is
poison, raises nothing and changes nothing, and so does a bank that is stopped. A fetched line that no half holds comes from
memory; one that a half holds is used whole as it was expanded or as memory holds it. Says of each that it completes:
segmentExpand. -/
def Claims.LinesReadAhead : Prop :=
  ∀ (s : State) (bank : Nat), s.b.key = bank →
    let does (t : State) : Prop := exec (.segmentExpand bank) s = .next t
    let lacks (xs : List (BitVec 56 × List Byte)) (a : Nat) : Bool := xs.all fun e => e.1.toNat != a
    let here := s.segmentLines 512 s.b.pc.toNat s.b.pc.toNat
    let next := (s.b.hint.orElse fun _ => here.2).filter (· != s.b.seg)
    let ahead (n : BitVec 56) : Option Nat :=
      (s.segmentLines 512 n.toNat n.toNat).1.find? (lacks (((s.b.other.filter (·.start == n)).map (·.lines)).getD []))
    let one : Option Nat := here.1.find? (lacks s.b.lines)
    let plain (l : Leaf) (a : Nat) : Prop := ∀ i, i < 64 → s.inPool (Leaf.pa l a + i) = false
    let reads (a : Nat) (n : Option (BitVec 56)) : Prop :=
      (∀ f, s.translate .fetch false s.b.ctx a = .error f → does s) ∧
      (∀ l, s.translate .fetch false s.b.ctx a = .ok l →
        (s.gPoison (Leaf.pa l a) = true ∨ s.hasToken l a = false → does s) ∧
        (s.gPoison (Leaf.pa l a) = false → s.hasToken l a = true → plain l a →
          does (((s.fillTlb l).charge l a).modB (·.expand n (va56 a, (List.range 64).map fun i => s.gByte (Leaf.pa l a + i))))))
    here.1.head? = some (s.b.pc.toNat / 64 * 64) ∧
    (s.b.halted.isSome = true → does s) ∧
    (s.b.halted = none →
      (∀ a, one = some a → reads a none) ∧
      (∀ n a, one = none → next = some n → ahead n = some a → reads a (some n)) ∧
      (one = none → (∀ n, next = some n → ahead n = none) → does s)) ∧
    (∀ a l, s.b.held.all (fun e => e.1.toNat != a) = true → s.translate .fetch false s.b.ctx a = .ok l → s.gPoison (Leaf.pa l a) = false →
      plain l a → s.fetchLine a = .ok ((List.range 64).map fun i => s.gByte (Leaf.pa l a + i))) ∧
    (∀ a e, s.b.held.find? (fun e => e.1.toNat == a) = some e → s.fetchLine a = .ok e.2 ∨ ∃ l, s.translate .fetch false s.b.ctx a = .ok l ∧
      (plain l a → s.fetchLine a = .ok ((List.range 64).map fun i => s.gByte (Leaf.pa l a + i))))

/-- Wait-bundle syllables, the fairness issue, and fetch lines read ahead. -/
def Obligations.PendingSyllablesAndReadAhead : Prop :=
  Claims.WaitAndFairness ∧ Claims.LinesReadAhead

/-- R15. s0 reads 0 and f0 reads 1, whatever the machine holds, and writes to them are discarded. -/
def Claims.FixedRegisters : Prop :=
  ∀ (s : State) (v : DWord) (x : Bool) (n : Nat),
    s.rs 0 = 0 ∧ s.rf 0 = true ∧ s.resS 0 v n = s ∧ s.resF 0 x = s

/-- R70, R72. What a read of a register finds: the landed value where no earlier issue has a result on its way to it; a
result from its bound on, and before that a free value, whose number nothing gives; and a free value while a far load to it
is in flight. The results of the reading issue itself are never seen. -/
def Claims.ReadsUnderTheBounds : Prop :=
  ∀ (s : State) (l : Loc) (landed : Nat), l.width ≠ 512 →
    ((∀ p ∈ s.b.pend, p.loc = l → s.b.iss ≤ p.iss) → (∀ f ∈ s.b.fars, f.dest = l → s.b.iss ≤ f.iss ∨ f.lanes = 0) →
      s.through l landed = landed) ∧
    (∀ ps p qs, s.b.pend = ps ++ [p] ++ qs → p.loc = l → p.iss < s.b.iss → p.orIn = false → p.lanes ≠ 0 →
      (∀ q ∈ qs, q.loc = l → s.b.iss ≤ q.iss) → (∀ f ∈ s.b.fars, f.dest = l → s.b.iss ≤ f.iss ∨ f.lanes = 0) →
      s.through l landed = if p.due ≤ s.now then p.val else s.undef l.width l.code) ∧
    (∀ f ∈ s.b.fars, f.dest = l → f.iss < s.b.iss → f.lanes ≠ 0 → s.through l landed = s.undef l.width (99 :: l.code))

/-- s0 and f0 are fixed, and what a read finds before and after a result bound. -/
def Obligations.RegistersUnderTheBounds : Prop :=
  Claims.FixedRegisters ∧ Claims.ReadsUnderTheBounds

/-- R98, R69. The arithmetic, logic, shift and choice forms of the ALU layout, with B the scalar or the immediate extended as
the form says. Says of each that it completes: add, sub, mul, mulh, and, or, xor, andn, shl, shr, sra, min, max. -/
def Claims.AluForms : Prop :=
  ∀ (s : State) (c : Ctl) (rd ra b : BitVec 6) (i m : Bool),
    let x := s.rs ra.toNat
    let y := if i then b.signExtend 64 else s.rs b.toNat
    let z := if i then b.setWidth 64 else s.rs b.toNat
    let u := if i then (if m then b.setWidth 64 else b.signExtend 64) else s.rs b.toNat
    let n := z.toNat % 64
    (s.Performs (.add c rd ra i b) c →
      exec (.add c rd ra i b) s = .next (s.resS rd.toNat (.ofInt 64 (x.toInt + y.toInt)) 1).draw) ∧
    (s.Performs (.sub c rd ra i b) c →
      exec (.sub c rd ra i b) s = .next (s.resS rd.toNat (.ofInt 64 (x.toInt - y.toInt)) 1).draw) ∧
    (s.Performs (.mul c rd ra i b) c →
      exec (.mul c rd ra i b) s = .next (s.resS rd.toNat (.ofInt 64 (x.toInt * y.toInt)) 3).draw) ∧
    (s.Performs (.mulh c rd ra i m b) c →
      exec (.mulh c rd ra i m b) s = .next (s.resS rd.toNat
        (if m then .ofNat 64 (x.toNat * u.toNat / 2 ^ 64) else .ofInt 64 (x.toInt * u.toInt / 2 ^ 64)) 3).draw) ∧
    (s.Performs (.and c rd ra i b) c → exec (.and c rd ra i b) s = .next (s.resS rd.toNat (x &&& y) 1).draw) ∧
    (s.Performs (.or c rd ra i b) c → exec (.or c rd ra i b) s = .next (s.resS rd.toNat (x ||| y) 1).draw) ∧
    (s.Performs (.xor c rd ra i b) c → exec (.xor c rd ra i b) s = .next (s.resS rd.toNat (x ^^^ y) 1).draw) ∧
    (s.Performs (.andn c rd ra i b) c → exec (.andn c rd ra i b) s = .next (s.resS rd.toNat (x &&& ~~~y) 1).draw) ∧
    (s.Performs (.shl c rd ra i b) c →
      exec (.shl c rd ra i b) s = .next (s.resS rd.toNat (.ofNat 64 (x.toNat * 2 ^ n)) 1).draw) ∧
    (s.Performs (.shr c rd ra i b) c →
      exec (.shr c rd ra i b) s = .next (s.resS rd.toNat (.ofNat 64 (x.toNat / 2 ^ n)) 1).draw) ∧
    (s.Performs (.sra c rd ra i b) c →
      exec (.sra c rd ra i b) s = .next (s.resS rd.toNat (.ofInt 64 (x.toInt / 2 ^ n)) 1).draw) ∧
    (s.Performs (.min c rd ra i m b) c → exec (.min c rd ra i m b) s = .next (s.resS rd.toNat
      (if m then (if x.toNat ≤ u.toNat then x else u) else (if x.toInt ≤ u.toInt then x else u)) 1).draw) ∧
    (s.Performs (.max c rd ra i m b) c → exec (.max c rd ra i m b) s = .next (s.resS rd.toNat
      (if m then (if x.toNat ≤ u.toNat then u else x) else (if x.toInt ≤ u.toInt then u else x)) 1).draw)

/-- R100 to R103. SEL, CLZ, POPC, MOVI, MOVHI and EXT. Says of each that it completes: sel, clz, popc, movi, movhi, ext. -/
def Claims.SelectCountMoveExtend : Prop :=
  ∀ (s : State) (c : Ctl) (rd ra rb : BitVec 6) (fs wc : BitVec 2) (imm : BitVec 14) (sg : Bool) (bo : BitVec 3),
    let x := s.rs ra.toNat
    (s.Performs (.sel c rd ra rb fs) c → exec (.sel c rd ra rb fs) s =
      .next (s.resS rd.toNat (if s.rf (1 + fs.toNat) then x else s.rs rb.toNat) 1).draw) ∧
    (s.Performs (.clz c rd ra) c → ∃ n : Nat, exec (.clz c rd ra) s = .next (s.resS rd.toNat (.ofNat 64 n) 1).draw ∧
      n ≤ 64 ∧ (∀ k, 64 - n ≤ k → x.getLsbD k = false) ∧ (n < 64 → x.getLsbD (63 - n) = true)) ∧
    (s.Performs (.popc c rd ra) c → exec (.popc c rd ra) s =
      .next (s.resS rd.toNat (.ofNat 64 ((List.range 64).countP fun k => x.getLsbD k)) 1).draw) ∧
    (s.Performs (.movi c rd imm) c → exec (.movi c rd imm) s = .next (s.resS rd.toNat (.ofInt 64 imm.toInt) 1).draw) ∧
    (s.Performs (.movhi c rd imm) c → exec (.movhi c rd imm) s =
      .next (s.resS rd.toNat (.ofNat 64 ((s.rs rd.toNat).toNat * 2 ^ 14 + imm.toNat)) 1).draw) ∧
    (s.Performs (.ext c rd ra wc sg bo) c → wc ≠ 3 → bo.toNat + 2 ^ wc.toNat ≤ 8 →
      ∃ v : DWord, exec (.ext c rd ra wc sg bo) s = .next (s.resS rd.toNat v 1).draw ∧
        let w := 8 * 2 ^ wc.toNat
        (∀ k, k < w → v.getLsbD k = x.getLsbD (8 * bo.toNat + k)) ∧
        (∀ k, w ≤ k → k < 64 → v.getLsbD k = (sg && x.getLsbD (8 * bo.toNat + w - 1))))

/-- R104, R106, R107. CMP, FSET, FCLR and FOP. Says of each that it completes: cmp, fset, fclr, fop. -/
def Claims.FlagForms : Prop :=
  ∀ (s : State) (c : Ctl) (fd fa fb tt : BitVec 4) (cc : BitVec 3) (ra b : BitVec 6) (i : Bool) (mask : BitVec 15),
    let x := s.rs ra.toNat
    let y := if i then b.signExtend 64 else s.rs b.toNat
    let u := if i then b.setWidth 64 else s.rs b.toNat
    (s.Performs (.cmp c fd cc ra i b) c → exec (.cmp c fd cc ra i b) s = .next (s.resF fd.toNat
      (match cc.toNat with
      | 0 => decide (x = y)
      | 1 => decide (x ≠ y)
      | 2 => decide (x.toInt < y.toInt)
      | 3 => decide (y.toInt ≤ x.toInt)
      | 4 => decide (x.toNat < u.toNat)
      | 5 => decide (u.toNat ≤ x.toNat)
      | 6 => decide (x &&& u ≠ 0)
      | _ => decide (x &&& u = 0))).draw) ∧
    (s.Performs (.fset c mask) c → exec (.fset c mask) s =
      .next ((List.range 15).foldl (fun r n => if mask.getLsbD n then r.resF (n + 1) true else r) s).draw) ∧
    (s.Performs (.fclr c mask) c → exec (.fclr c mask) s =
      .next ((List.range 15).foldl (fun r n => if mask.getLsbD n then r.resF (n + 1) false else r) s).draw) ∧
    (s.Performs (.fop c fd fa fb tt) c → exec (.fop c fd fa fb tt) s =
      .next (s.resF fd.toNat (tt.getLsbD (2 * (s.rf fa.toNat).toNat + (s.rf fb.toNat).toNat))).draw)

/-- The ALU, selection, count, move, extract, compare and flag forms. -/
def Obligations.ScalarAndFlagForms : Prop :=
  Claims.AluForms ∧ Claims.SelectCountMoveExtend ∧ Claims.FlagForms

/-- R99. The quotient is truncated toward zero and the remainder has the dividend's sign; the cases without a mathematical
result are fixed; and quotient × divisor + remainder is the dividend in every case. Says of each that it completes: div, rem.
-/
def Obligations.DivisionIsTruncated : Prop :=
  ∀ (s : State) (c : Ctl) (rd ra b : BitVec 6) (i m : Bool),
    s.Performs (.div c rd ra i m b) c → s.Performs (.rem c rd ra i m b) c →
    ∃ q r : DWord,
      exec (.div c rd ra i m b) s = .next (s.resS rd.toNat q 24).draw ∧
      exec (.rem c rd ra i m b) s = .next (s.resS rd.toNat r 24).draw ∧
      let x := s.rs ra.toNat
      let y := if i then (if m then b.setWidth 64 else b.signExtend 64) else s.rs b.toNat
      (y = 0 → q = 0xFFFFFFFFFFFFFFFF ∧ r = x) ∧
      (m = false → x = 0x8000000000000000 → y = -1 → q = x ∧ r = 0) ∧
      (m = true → y ≠ 0 → q.toNat = x.toNat / y.toNat ∧ r.toNat = x.toNat % y.toNat) ∧
      (m = false → y ≠ 0 → (x ≠ 0x8000000000000000 ∨ y ≠ -1) → q.toInt = x.toInt.tdiv y.toInt ∧ r.toInt = x.toInt.tmod y.toInt) ∧
      q * y + r = x

/-- R118, R267, R268, R295, R358, R366. The reads of the sequencer's own state, each with a bound of 1 (R69). Says of each
that it completes: lidx, sqid, spat, rgst, feat, cyc. -/
def Claims.SequencerReads : Prop :=
  ∀ (s : State) (c : Ctl) (rd : BitVec 6) (k : Bool) (lv : BitVec 3) (w : BitVec 2),
    (s.Performs (.lidx c rd k lv) c → exec (.lidx c rd k lv) s = .next (s.resS rd.toNat
      (if lv.toNat < s.b.depth then (if k then s.b.lc.get 0 lv.toNat else s.b.li.get 0 lv.toNat) else 0) 1).draw) ∧
    (s.Performs (.spat c rd lv k) c → exec (.spat c rd lv k) s = .next (s.resS rd.toNat
      (match (s.b.loopEnt lv.toNat).kind with
      | .temporal => if k then 1 else 0
      | .cores => .ofNat 64 (if k then s.b.cNum else s.b.cIdx)
      | .dies => .ofNat 64 (if k then s.b.dNum else s.b.dIdx)) 1).draw) ∧
    (s.Performs (.sqid c rd) c → exec (.sqid c rd) s = .next (s.resS rd.toNat s.b.sqid 1).draw) ∧
    (s.Performs (.rgst c rd) c → exec (.rgst c rd) s = .next (s.resS rd.toNat s.b.rgst 1).draw) ∧
    (s.Performs (.feat c rd w) c → ∃ v : DWord, exec (.feat c rd w) s = .next (s.resS rd.toNat v 1).draw ∧
      ∀ j, j < 64 → v.getLsbD j = s.feat.getLsbD (64 * w.toNat + j)) ∧
    (s.Performs (.cyc c rd k) c → exec (.cyc c rd k) s =
      .next (s.resS rd.toNat (.ofNat 64 (if k then s.ns else (s.cores.get .reset s.b.core).cyc)) 1).draw)

/-- R351, R355. SYSRD writes its scalar with a bound of 6, and reads the register when no write of it is on its way; SYSWR
sends its value, which takes effect in cycle issue + 6; TBASE sets TBR at once. Says of each that it completes: sysrd, syswr,
tbase, cyc. -/
def Claims.SystemForms : Prop :=
  ∀ (s : State) (c : Ctl) (r : BitVec 6) (num : BitVec 14),
    (s.Performs (.sysrd c r num) c → s.sysCauses num.toNat false = [] →
      exec (.sysrd c r num) s = .next (s.resS r.toNat (s.sysRead num.toNat) 6).draw) ∧
    (s.sysComing num.toNat = [] → s.sysRead num.toNat = s.sysGet num.toNat) ∧
    (s.Performs (.syswr c r num) c → s.sysCauses num.toNat true = [] → num ≠ 0x800 →
      (∀ p ∈ s.b.pend, p.loc = .sys num.toNat → p.iss ≠ s.b.iss) →
      exec (.syswr c r num) s = .next (s.modB fun b => { b with pend := b.pend ++
        [⟨.sys num.toNat, (s.rs r.toNat).toNat, (s.rs r.toNat).toNat, 1, 1, b.iss, (s.cores.get .reset b.core).cyc + 6, false, false, false⟩] }).draw) ∧
    (s.Performs (.syswr c r num) c → num = 0x800 →
      exec (.syswr c r num) s = .next (s.await .s1r 0 [s.rs r.toNat]).draw) ∧
    (s.Performs (.tbase c r) c → exec (.tbase c r) s =
      .next (s.modB fun b => { b with tbr := s.rs r.toNat &&& 0x80FFFFFFFFFFFFFE }).draw)

/-- R349, R350. Which numbers SYSRD and SYSWR reach from a bank, and the cause of the first obstacle (R249, R351). The answer
is the sub-cause of SYSREG, 0 where there is none, and 9 for the TQHELD of a token queue's register. -/
def Claims.SystemRegisterAccess : Prop :=
  ∀ (s : State) (n : Nat) (write : Bool),
    let bankRw := 0x10 ≤ n ∧ n ≤ 0x16 ∨ 0x800 ≤ n ∧ n ≤ 0x802 ∨ 0x400 ≤ n ∧ n < 0x400 + 16 * s.b.cols ∨
      0x500 ≤ n ∧ n < 0x500 + 16 * s.b.cols
    let ro := n = 0 ∨ n = 0x22 ∨ n = 0x30 ∨ n = 0x31 ∨ 0x38 ≤ n ∧ n ≤ 0x3F ∨ 0x40 ≤ n ∧ n ≤ 0x49 ∨ n = 0x50 ∨
      0x100 ≤ n ∧ n ≤ 0x17F ∨ 0x480 ≤ n ∧ n < 0x480 + 4 * s.b.cols ∨
      (0x700 ≤ n ∧ n ≤ 0x703 ∧ s.b.core < 128) ∨ n = 0x803
    let root := n = 0x20 ∨ n = 0x21 ∨ n = 0x4A
    let tq := 0x600 ≤ n ∧ n ≤ 0x6FF ∨ 0x700 ≤ n ∧ n ≤ 0x73F ∧ 128 ≤ s.b.core
    (bankRw → s.sysCauses n write = []) ∧
    (ro → s.sysCauses n write = if write then [s.cause 12 2 n] else []) ∧
    (root → s.sysCauses n write = if s.b.ctx = 0 then [] else [s.cause 12 3 n]) ∧
    (tq → s.sysCauses n write = if s.holdsTq (n - 0x600) then [] else [s.cause 8 1]) ∧
    (¬bankRw → ¬ro → ¬root → ¬tq → s.sysCauses n write = [s.cause 12 1 n])

/-- R355. What SYSRD reads of the trap registers and of the sequencer's other registers, and that a write which takes effect
is read back without its reserved bits. Says of each that it completes: registerWrite. -/
def Claims.TrapRegistersReadBack : Prop :=
  ∀ (s : State) (v : DWord) (bank : Nat), s.b.key = bank →
    let put (n : Nat) : State := (s.modB (·.arrived n v)).sysPut n v
    (∀ n, exec (.registerWrite bank n v) s = .next (put n)) ∧
    (put 0x10).sysGet 0x10 = v &&& 0x80FFFFFFFFFFFFFE ∧
    (put 0x11).sysGet 0x11 = v &&& 0x00FFFFFFFFFFFFFF ∧
    (put 0x12).sysGet 0x12 = v &&& 0x00FFFFFFFFFFFFFF ∧
    (put 0x13).sysGet 0x13 = v &&& 0xFFFFFE00FFFFFFFF ∧
    (put 0x14).sysGet 0x14 = v &&& 0x00FFFFFFFFFFFFFF ∧
    (put 0x15).sysGet 0x15 = v ∧
    (put 0x16).sysGet 0x16 = v &&& 3 ∧
    (put 0x20).sysGet 0x20 = v &&& 0xFFFFFFFF ∧
    (put 0x21).sysGet 0x21 = v &&& 0xFFFFFFFF ∧
    (put 0x4A).sysGet 0x4A = v &&& 0xFFFF ∧
    s.sysGet 0 = (s.slot.partw).setWidth 64 ∧ s.sysGet 0x31 = s.b.pgr ∧ s.sysGet 0x703 = (if 128 ≤ s.b.core then s.readTqc 0x103 else s.b.vsnp)

/-- Reads of sequencer state; system registers: access, effect and read-back. -/
def Obligations.SystemRegisterForms : Prop :=
  Claims.SequencerReads ∧ Claims.SystemForms ∧ Claims.SystemRegisterAccess ∧ Claims.TrapRegistersReadBack

/-- R108 to R111, R120. The transfers of control: where the next bundle is, and what CALL keeps. SEGHINT names a segment and
transfers nothing. Says of each that it completes: br, jmp, jmpi, call, ret, seghint. -/
def Claims.Transfers : Prop :=
  ∀ (s : State) (c : Ctl) (bi : Bool) (bf : BitVec 4) (o15 : BitVec 15) (o20 : BitVec 20) (ra : BitVec 6) (disp : BitVec 14),
    let go (r : State) (a : BitVec 56) : State := r.modB fun b => { b with npc := a, taken := true }
    let tgt := s.rs ra.toNat + .ofInt 64 (2 * disp.toInt)
    (s.Performs (.br c bi bf o15) c → exec (.br c bi bf o15) s =
      .next (if s.rf bf.toNat != bi then go s (s.b.pc + .ofInt 56 (2 * o15.toInt)) else s).draw) ∧
    (s.Performs (.jmp c o20) c → exec (.jmp c o20) s = .next (go s (s.b.pc + .ofInt 56 (2 * o20.toInt))).draw) ∧
    (s.Performs (.call c o20) c → exec (.call c o20) s =
      .next (go (s.resS 55 (s.b.fall.setWidth 64) 1) (s.b.pc + .ofInt 56 (2 * o20.toInt))).draw) ∧
    (s.Performs (.jmpi c ra disp) c → tgt.getLsbD 0 = false → tgt.toNat < 2 ^ 56 →
      exec (.jmpi c ra disp) s = .next (go s (tgt.setWidth 56)).draw) ∧
    (s.Performs (.ret c ra) c → (s.rs ra.toNat).getLsbD 0 = false → (s.rs ra.toNat).toNat < 2 ^ 56 →
      exec (.ret c ra) s = .next (go s ((s.rs ra.toNat).setWidth 56)).draw) ∧
    (s.Performs (.seghint c o20) c → exec (.seghint c o20) s =
      .next (s.modB fun b => { b with hint := some (b.pc + .ofInt 56 (2 * o20.toInt)) }).draw)

/-- R114, R259, R260. LOOP in a legal place opens the next level at the sequencer's coordinate, with the body behind its own
bundle and the end bundle END parcels on; where the sequencer has no iteration it goes on behind the end bundle. Says of each
that it completes: loopImm, loopReg. -/
def Claims.LoopOpens : Prop :=
  ∀ (s : State) (c : Ctl) (cnt : BitVec 8) (ra : BitVec 6) (fin : BitVec 11),
    let b := s.b
    let e := b.pc + .ofNat 56 (2 * fin.toNat)
    let legal := b.depth < 6 ∧ b.len ≤ 2 * fin.toNat ∧
      (0 < b.depth → b.pc ≠ b.le.get 0 (b.depth - 1) ∧ e.toNat ≤ (b.le.get 0 (b.depth - 1)).toNat)
    let first := match (b.loopEnt b.depth).kind with
      | .temporal => 0
      | .cores => b.cIdx
      | .dies => b.dIdx
    let opened (n : DWord) : State := s.modB fun b => { b with
      lc := b.lc.set 0 b.depth n, li := b.li.set 0 b.depth (.ofNat 64 first), ls := b.ls.set 0 b.depth (b.pc + .ofNat 56 b.len),
      le := b.le.set 0 b.depth e, depth := b.depth + 1, npc := b.pc + .ofNat 56 b.len, taken := true }
    let skipped : State := s.modB fun b => { b with npc := (s.afterBundle e).1, owed := (s.afterBundle e).2, taken := true }
    let n := s.rs ra.toNat
    let most := (b.loopEnt b.depth).most
    (s.Performs (.loopImm c cnt fin) c → legal →
      exec (.loopImm c cnt fin) s = .next (if first < cnt.toNat then opened (cnt.setWidth 64) else skipped).draw) ∧
    (s.Performs (.loopReg c ra fin) c → legal → (most = 0 ∨ n.toNat ≤ most) →
      exec (.loopReg c ra fin) s = .next (if first < n.toNat then opened n else skipped).draw) ∧
    (s.Performs (.loopImm c cnt fin) c → s.cur.phase = .alone → b.region = none → ¬legal →
      exec (.loopImm c cnt fin) s = .next (s.takeTrap s.illegal).draw) ∧
    (s.Performs (.loopReg c ra fin) c → s.cur.phase = .alone → b.region = none → ¬legal →
      exec (.loopReg c ra fin) s = .next (s.takeTrap s.illegal).draw)

/-- R117. LOOPBRK closes its n + 1 innermost levels, whose counts and indices become 0, and goes on behind the end bundle of
the outermost of them; with fewer active levels it is illegal. Says of each that it completes: loopbrk. -/
def Claims.LoopBreakCloses : Prop :=
  ∀ (s : State) (c : Ctl) (n : BitVec 3), s.Performs (.loopbrk c n) c →
    (n.toNat + 1 ≤ s.b.depth → ∃ t : State, exec (.loopbrk c n) s = .next t.draw ∧
      t.b.depth + (n.toNat + 1) = s.b.depth ∧
      (∀ d, t.b.lc.get 0 d = (if t.b.depth ≤ d ∧ d < s.b.depth then 0 else s.b.lc.get 0 d)) ∧
      (∀ d, t.b.li.get 0 d = (if t.b.depth ≤ d ∧ d < s.b.depth then 0 else s.b.li.get 0 d)) ∧
      t.b.npc = (s.afterBundle (s.b.le.get 0 t.b.depth)).1 ∧ t.b.taken = true ∧
      s.b.SameRegs t.b ∧ s.SameRest t) ∧
    (s.b.depth ≤ n.toNat → s.cur.phase = .alone → s.b.region = none → exec (.loopbrk c n) s = .next (s.takeTrap s.illegal).draw)

/-- R115, R259. The test of the loop stack after a bundle: levels that end here close from the inside out until one has an
iteration left, whose index advances by the level's spread and whose body is next; with none left the fall-through is. -/
def Claims.LoopTest : Prop :=
  ∀ (b : Bank), b.depth ≤ 6 →
    let r := b.loopTest 7
    let ends (d : Nat) : Prop := b.le.get 0 d = b.pc
    let spread (d : Nat) : Nat := match (b.loopEnt d).kind with
      | .temporal => 1
      | .cores => b.cNum
      | .dies => b.dNum
    let done (d : Nat) : Prop := (b.lc.get 0 d).toNat ≤ (b.li.get 0 d).toNat + spread d
    r.depth ≤ b.depth ∧
    (∀ d, r.depth ≤ d → d < b.depth → ends d ∧ done d ∧ r.lc.get 0 d = 0 ∧ r.li.get 0 d = 0) ∧
    (∀ d, d < r.depth → r.lc.get 0 d = b.lc.get 0 d) ∧ (∀ d, d + 1 < r.depth → r.li.get 0 d = b.li.get 0 d) ∧
    r.ls = b.ls ∧ r.le = b.le ∧ r.pc = b.pc ∧ b.SameRegs r ∧
    (0 < r.depth → ends (r.depth - 1) → ¬done (r.depth - 1) ∧ r.npc = b.ls.get 0 (r.depth - 1) ∧
      (r.li.get 0 (r.depth - 1)).toNat = (b.li.get 0 (r.depth - 1)).toNat + spread (r.depth - 1)) ∧
    ((r.depth = 0 ∨ ¬ends (r.depth - 1)) → r.npc = b.fall ∧
      (0 < r.depth → r.li.get 0 (r.depth - 1) = b.li.get 0 (r.depth - 1)))

/-- Transfers of control, and the opening, test and closing of loops. -/
def Obligations.ControlAndLoops : Prop :=
  Claims.Transfers ∧ Claims.LoopOpens ∧ Claims.LoopBreakCloses ∧ Claims.LoopTest

/-- R356. Entry at the bank's own vector: the trap registers hold the trap, the hold state is put aside, issue goes on at
TBR.VEC, and no register that the program reads changes. -/
def Claims.TrapAtOwnVector : Prop :=
  ∀ (s : State) (c : Cause), s.takesOwn c = true → c.num < 64 → c.sub < 256 → c.slt < 8 → c.col < 4 →
    let t := s.takeTrap c
    t.b.epc = s.epcOf c ∧
    t.b.enpc = (if c.kind = .after ∨ s.b.len = 0 then 0 else s.b.fall.setWidth 64) ∧
    rfld t.b.esta 63 63 = 1 ∧ rfld t.b.esta 62 57 = c.num ∧ rfld t.b.esta 56 49 = c.sub ∧ rfld t.b.esta 48 46 = c.slt ∧
    rfld t.b.esta 45 44 = c.col ∧ rfld t.b.esta 43 43 = c.rfl.toNat ∧
    rfld t.b.esta 42 41 = (match c.kind with | .before => 0 | .after => 1 | .wait => 2) ∧
    rfld t.b.esta 31 0 = (if c.kind = .wait then s.b.wx.toNat else 0) ∧
    t.b.ead = c.ead ∧ t.b.edt = c.edt ∧ t.b.eact = 0 ∧
    t.b.pc.toNat = 2 * rfld s.b.tbr 55 1 ∧ t.b.aside = s.b.holds ∧ t.b.holds = [] ∧
    s.b.SameRegs t.b ∧ s.SameRest t

/-- R331, R332, R356. When the bank takes a trap at its own vector. -/
def Claims.OwnVectorConditions : Prop :=
  ∀ (s : State) (c : Cause),
    (s.takesOwn c = true ↔
      (s.b.ctx = 0 ∨ (s.ctx s.b.ctx).mask.getLsbD c.num = true) ∧ s.b.tbr.getLsbD 63 = true ∧ s.b.esta.getLsbD 63 = false ∧
        c.num ≠ 14 ∧ c.num ≠ 15 ∧ c.stage2 = false)

/-- R332, R333. A trap that the bank does not take goes to the nearest claiming ancestor with an enabled ring, the root at
the latest: a record waits to be written, the bank stops for the reply, and no register changes. -/
def Claims.TrapReflected : Prop :=
  ∀ (s : State) (c : Cause), s.takesOwn c = false →
    let t := s.takeTrap c
    let anc (k : Nat) : Nat := Nat.repeat (fun m => (s.ctx m).parent) (k + 1) s.b.ctx
    let fit (k : Nat) : Prop := k = 0 ∨ (s.ctx k).mask.getLsbD c.num = true ∧ rfld (s.ctx k).trr 63 63 = 1
    (∃ r : Rec, t.recs = s.recs ++ [r] ∧ r.cause = c ∧ r.ctx = s.b.ctx ∧ r.bank = s.b.key ∧ r.pc = s.epcOf c ∧
      r.waits = true ∧ r.written = false ∧
      fit r.holder ∧ (s.b.ctx = 0 → r.holder = 0) ∧
      ∀ k, k < 9 → s.b.ctx ≠ 0 → fit (anc k) → (∀ j, j < k → ¬fit (anc j)) → r.holder = anc k) ∧
    t.b.halted = some (.reply c) ∧ s.b.SameRegs t.b ∧ t.mem = s.mem ∧ t.remote = s.remote ∧ t.cores = s.cores

/-- A trap enters at the bank's own vector or is reflected to the nearest claimant. -/
def Obligations.TrapEntry : Prop :=
  Claims.TrapAtOwnVector ∧ Claims.OwnVectorConditions ∧ Claims.TrapReflected

/-- R357. TRAP, BRK and HALT raise their cause after the bundle; outside a handler ERET is illegal. Says of each that it
completes: trap, halt, brk, eret. -/
def Claims.TrapForms : Prop :=
  ∀ (s : State) (c : Ctl) (n : BitVec 5) (code : BitVec 8),
    let pend (num sub edt : Nat) : State := s.modB fun b => { b with kindA := b.kindA ++
      [⟨num, sub, s.cur.slot, s.cur.col, 0, .ofNat 64 edt, false, .after, false, none⟩] }
    (s.Performs (.trap c n) c → exec (.trap c n) s = .next (pend (32 + n.toNat) n.toNat 0).draw) ∧
    (s.Performs (.brk c code) c → exec (.brk c code) s = .next (pend 16 code.toNat code.toNat).draw) ∧
    (s.Performs (.halt c) c → exec (.halt c) s = .next (pend 15 0 0).draw) ∧
    (s.Performs (.eret c) c → s.cur.phase = .alone → s.b.region = none → s.b.esta.getLsbD 63 = false →
      exec (.eret c) s = .next (s.takeTrap s.illegal).draw)

/-- R357. ERET reinstates the hold state and clears EH; RETRY continues at EPC, SKIP at ENPC when it is not 0. Says of each
that it completes: eret. -/
def Claims.ReturnFromTrap : Prop :=
  ∀ (s : State) (c : Ctl), s.Performs (.eret c) c → s.cur.phase = .alone → s.b.forms = [] → s.b.waitSyl = [] →
    s.b.esta.getLsbD 63 = true → s.b.wait = none → isFault s.b.handled.num = false →
    ∃ t : State, exec (.eret c) s = .next t.draw ∧ t.b.holds = s.b.aside ∧ t.b.esta.getLsbD 63 = false ∧
      s.b.SameRegs t.b ∧
      (rfld s.b.eact 1 0 = 0 ∨ rfld s.b.eact 1 0 = 3 → t.b.pc = .ofNat 56 (rfld s.b.epc 55 0)) ∧
      (rfld s.b.eact 1 0 = 2 → s.b.handled.kind ≠ .after → rfld s.b.enpc 55 0 ≠ 0 → t.b.pc = .ofNat 56 (rfld s.b.enpc 55 0))

/-- TRAP, BRK and HALT raise their causes, and ERET returns. -/
def Obligations.TrapFormsAndReturn : Prop :=
  Claims.TrapForms ∧ Claims.ReturnFromTrap

/-- R23, R67, R358, R359, R370, R372, R373. The forms that wait for the Chard or the microcode store, and the release of a
grant. A microcode operation whose store entry is valid only puts results on their way, which the firmware supplies; one
whose entry is not is illegal. POWER_GRANT grants the first request of its die, unless the sum of the grants would pass 4,200
A or 3,600 W (assumption log, entry 96: the model's reading) or the zone's flow is too low, which is a free choice. Says of
each that it completes: pwracq, pwrrel, mcld, microcodeS, microcodeVcw, powerGrant. -/
def Claims.PowerAndMicrocodeForms : Prop :=
  ∀ (s : State) (c : Ctl) (rd ra : BitVec 6) (bank : Nat) (ent : BitVec 4) (arg : BitVec 20) (v : Vcw),
    (s.Performs (.pwracq c ra) c → (s.rs ra.toNat).toNat < 65536 → s.rs ra.toNat ≠ 0 →
      (rfld (s.ctx s.b.ctx).power 15 4 = 0xFFF ∨ (s.rs ra.toNat).toNat ≤ rfld (s.ctx s.b.ctx).power 15 4) →
      ∃ t : State, exec (.pwracq c ra) s = .next t.draw ∧ t.b = (s.await .pwracq 0 [s.rs ra.toNat]).b ∧
        t.pwrReqs = s.pwrReqs ++ [(s.b.key, (s.rs ra.toNat).setWidth 16)]) ∧
    (s.Performs (.pwrrel c) c → exec (.pwrrel c) s = .next (s.modB fun b => { b with pgr := 0 }).draw) ∧
    (s.Performs (.mcld c rd ra) c → s.b.ctx = 0 →
      ∃ t : State, exec (.mcld c rd ra) s = .next t.draw ∧ t.b = (s.await .mcld rd.toNat [s.rs ra.toNat]).b ∧ s.SameRest t ∧
        t.micro = s.micro ∧ t.feat = s.feat) ∧
    (let does (i : Instr) (c : Ctl) (e : Nat) : Prop := s.Performs i c →
      ((s.microAt e).isSome = true → ∃ t : State, exec i s = .next t ∧ s.b.SameRegs t.b ∧ s.b.SameSystem t.b ∧ s.SameRest t) ∧
      (s.cur.phase = .alone → s.b.region = none → s.microAt e = none → exec i s = .next (s.takeTrap s.illegal).draw)
     does (.microcodeS c ent arg) c ent.toNat ∧ does (.microcodeVcw v ent) (vctl v) (16 + ent.toNat)) ∧
    (s.b.key = bank → ∀ lvl, s.pwrReqs.find? (fun r => r.1 / 128 == bank / 128) = some (bank, lvl) →
      let watts := s.wattage bank lvl.toNat
      (67200 < s.granted bank + lvl.toNat ∨ 57600000 < watts → exec (.powerGrant bank) s = .next s.draw) ∧
      (s.granted bank + lvl.toNat ≤ 67200 → watts ≤ 57600000 → ∃ t : State, exec (.powerGrant bank) s = .next t ∧ t.mem = s.mem ∧ s.b.SameRegs t.b ∧
        if s.draw.heats (bank / 128) then t.b = s.b ∧ t.pwrReqs = s.pwrReqs ∧ (∀ z, z ≠ bank / 128 → t.zst.get 0 z = s.zst.get 0 z)
        else t.b.pgr = .ofNat 64 (2 ^ 63 + lvl.toNat) ∧ t.pwrReqs = s.pwrReqs.erase (bank, lvl) ∧
          (∀ f, s.b.forms = [f] → f.kind = .pwracq → f.ops = [lvl.setWidth 64] → t.b.forms = [])))

/-- R225, R303, R316, R359, R360. MCLD_LOAD: a waiting MCLD that nothing holds back reads its image as a copy read of k0.
While the reads wait, nothing happens. An image that cannot be read, whose signature fails, that is malformed or misaligned
(assumption log, entry 68), or whose entry is pinned retires the form with its code and leaves the store and the features;
for any other the entry is being rewritten from then on, and the next move fills it, sets its feature bit and no other, and
retires the form. Says of each that it completes: mcldLoad. -/
def Claims.MicrocodeLoads : Prop :=
  ∀ (s : State) (bank : Nat) (f : Form) (va : DWord), s.b.key = bank → s.b.forms = [f] → f.kind = .mcld → f.ops = [va] →
    let w := s.draw
    let q := 4 * f.col
    let b0 := (w.modB fun b => { b with forms := [] })
    let ends (st : Nat) : Prop := ∃ t : State, exec (.mcldLoad bank) s = .next t ∧ t.b = (b0.resS f.rd (.ofNat 64 st) 1).b ∧
      t.micro = s.micro ∧ t.feat = s.feat ∧ t.rewrites = s.rewrites ∧ t.mem = s.mem
    let fails (code : Nat) : Prop := ends (2 ^ 63 + code * 2 ^ 48)
    let head := w.getAll q s.b.snapTs va.toNat 64
    (∀ e m, f.phase = 1 → s.rewrites.find bank = some (e, m) → ∃ t : State, exec (.mcldLoad bank) s = .next t ∧
      t.b = (b0.resS f.rd 0 1).b ∧ t.micro.find e = some m ∧ (∀ k, k ≠ e → t.micro.find k = s.micro.find k) ∧
      t.rewrites.find bank = none ∧ t.mem = s.mem ∧ ∀ k, k < 256 → t.feat.getLsbD k = (s.feat.getLsbD k || decide (k = m.fbit))) ∧
    (f.phase = 0 → s.b.heldBack s.now f.iss = true → exec (.mcldLoad bank) s = .next w) ∧
    (f.phase = 0 → s.b.heldBack s.now f.iss = false →
      (head = .error none → exec (.mcldLoad bank) s = .next w) ∧ (∀ x, head = .error (some x) → fails 4) ∧
      ∀ u h, head = .ok (u, h) →
        let len := leNat ((h.drop 12).take 4)
        let e := leNat ((h.drop 4).take 1)
        let body := u.getAll q s.b.snapTs (va.toNat + 64) (len + 512)
        let good := va.toNat % 64 = 0 ∧ microOk h = true
        let other (code : Nat) : Prop := (¬good → fails 2) ∧ (good → u.pinned e = true → fails 3) ∧
          (good → u.pinned e = false → code = 4 → fails 4)
        (body = .error none → exec (.mcldLoad bank) s = .next w) ∧ (∀ x, body = .error (some x) → other 4) ∧
        ∀ v r, body = .ok (v, r) →
          let signed := Config.signatureOk [s.boot.fwKey] (h ++ r)
          (¬good → fails (if signed then 2 else 1)) ∧ (good → v.pinned e = true → fails (if signed then 3 else 1)) ∧
          (good → v.pinned e = false → if signed = false then fails 1 else ∃ t : State, exec (.mcldLoad bank) s = .next t ∧ t.b.forms.map (·.phase) = [1] ∧
            t.rewrites.find bank = some (e, ⟨leNat ((h.drop 5).take 1), .ofNat 8 (leNat ((h.drop 6).take 1)), leNat ((h.drop 8).take 2),
              r.take len⟩) ∧ t.micro = s.micro ∧ t.feat = s.feat ∧ t.mem = s.mem))

/-- Power requests and grants, MCLD and what it loads, and microcode operations. -/
def Obligations.PowerAndMicrocode : Prop :=
  Claims.PowerAndMicrocodeForms ∧ Claims.MicrocodeLoads

/-- R128 to R131, R133, R143. The loads of the L slot: what they put on its way to the destination, with which bound, and the
post-step of the address register. The share is read as the bank sees it; SCLD reads it without the held stores of a region
(assumption log, entry 97). Says of each that it completes: ld, ldv, gath, spld, scld. -/
def Obligations.LoadForms : Prop :=
  ∀ (s : State) (c : Ctl) (rs : BitVec 6) (ar o5 : BitVec 5) (fmt x3 : BitVec 3) (o8 : BitVec 8) (off vr : BitVec 11)
      (ew : BitVec 2) (vc sg : Bool),
    let size : Nat := match fmt.toNat with | 0 => 1 | 1 => 1 | 2 => 2 | 3 => 2 | 4 => 4 | 5 => 4 | _ => 8
    let signed := fmt = 0 ∨ fmt = 2 ∨ fmt = 4
    let disp : Int := if o8.getLsbD 7 then (o8.extractLsb' 4 3).toInt else (o8.extractLsb' 0 7).toInt
    let post : Int := if o8.getLsbD 7 then (o8.extractLsb' 0 4).toInt else 0
    let disp5 : Int := if o5.getLsbD 4 then 0 else (o5.extractLsb' 0 4).toInt
    let post5 : Int := if o5.getLsbD 4 then (o5.extractLsb' 0 4).toInt else 0
    let at_ (d : Int) : Nat := (BitVec.ofInt 32 (s.ra ar.toNat + d)).toNat
    let step (d : Int) (t : State) : State := if d = 0 then t else t.resA ar.toNat (at_ d)
    let legal (a n : Nat) : Prop := a + n ≤ s.shareSize ∧ a % n = 0
    let cl := 2 * s.cur.col + vc.toNat
    let a := at_ (disp * size)
    let av := at_ (disp5 * 64)
    let w : Nat := 2 ^ ew.toNat
    let raw (a : Nat) : Nat := leNat ((List.range 4).map fun i => s.shareByte (a + i))
    let lane (l : Nat) : Nat :=
      (s.ra ar.toNat + s.rv cl ((vr.toNat + 1) % s.vcount) / 2 ^ (32 * l) % 2 ^ 32 * w) % 2 ^ 32
    (s.Performs (.ld c rs ar fmt o8) c → legal a size → exec (.ld c rs ar fmt o8) s = .next (step (post * size)
      (if rs = 0 then s else s.result (.s rs.toNat)
        (if signed then (BitVec.ofNat (8 * size) (s.spNat a size)).signExtend 64 else .ofNat 64 (s.spNat a size)).toNat
        1 4 (s.spPoison a size))).draw) ∧
    (s.Performs (.ldv c vc vr ar o5) c → legal av 64 → exec (.ldv c vc vr ar o5) s = .next (step (post5 * 64)
      (s.putV cl (vr.toNat % s.vcount) (s.spNat av 64) 0xFFFF 4 (s.spPoison av 64))).draw) ∧
    (s.Performs (.gath c vc vr ar ew sg) c → s.b.poison.contains (.v cl ((vr.toNat + 1) % s.vcount)) = false →
      (∀ l, l < 16 → legal (lane l) w) → ew ≠ 3 → ∃ v : BitVec 512, ∃ poison : Bool,
        exec (.gath c vc vr ar ew sg) s = .next (s.putV cl (vr.toNat % s.vcount) v.toNat 0xFFFF 8 poison).draw ∧
        (poison = true ↔ ∃ l, l < 16 ∧ s.spPoison (lane l) w = true) ∧
        ∀ l, l < 16 → v.extractLsb' (32 * l) 32 =
          if sg then (BitVec.ofNat (8 * w) (s.spNat (lane l) w)).signExtend 32 else .ofNat 32 (s.spNat (lane l) w)) ∧
    (s.Performs (.spld c rs off) c →
      exec (.spld c rs off) s = .next (if rs = 0 then s else
        s.result (.s rs.toNat) (s.spillRead off.toNat % 2 ^ 64) 1 1 (s.spillPoison off.toNat)).draw) ∧
    (let b4 := at_ (disp * 4)
     s.Performs (.scld c x3 ar false o8) c → legal b4 4 → exec (.scld c x3 ar false o8) s = .next (step (post * 4)
      (s.result (.xs s.cur.col x3.toNat) (raw b4) 1 4 (s.scalePoison b4))).draw) ∧
    (let b32 := at_ (disp * 32)
     s.Performs (.scld c x3 ar true o8) c → legal b32 32 → exec (.scld c x3 ar true o8) s = .next (step (post * 32)
      ((List.range 8).foldl (fun t j => t.result (.xs s.cur.col j) (raw (b32 + 4 * j)) 1 4 (s.scalePoison (b32 + 4 * j))) s)).draw)

/-- R132. ADRSET and ADRADD, with a bound of 1, modulo 2^32. Says of each that it completes: adrsetImm, adrsetReg, adraddImm,
adraddReg. -/
def Obligations.AddressRegisterForms : Prop :=
  ∀ (s : State) (c : Ctl) (ar : BitVec 5) (rs : BitVec 6) (imm : BitVec 16),
    let old := BitVec.ofNat 32 (s.ra ar.toNat)
    let x := (s.rs rs.toNat).setWidth 32
    (s.Performs (.adrsetImm c ar imm) c → exec (.adrsetImm c ar imm) s = .next (s.resA ar.toNat imm.toNat).draw) ∧
    (s.Performs (.adrsetReg c ar rs) c → exec (.adrsetReg c ar rs) s = .next (s.resA ar.toNat x.toNat).draw) ∧
    (s.Performs (.adraddImm c ar imm) c →
      exec (.adraddImm c ar imm) s = .next (s.resA ar.toNat (old + imm.signExtend 32).toNat).draw) ∧
    (s.Performs (.adraddReg c ar rs) c → exec (.adraddReg c ar rs) s = .next (s.resA ar.toNat (old + x).toNat).draw)

/-- R129 to R131, R133, R286. The stores of the W slot: outside a region their bytes wait for their visibility bound and
nothing else changes but the address register of a post-step; of lanes of a SCAT with one address the highest is stored. Says
of each that it completes: st, stv, scat, spst. -/
def Claims.StoreForms : Prop :=
  ∀ (s : State) (c : Ctl) (rs : BitVec 6) (ar o5 : BitVec 5) (sz ew : BitVec 2) (o8 : BitVec 8) (off vr : BitVec 11) (vc : Bool),
    s.b.region = none →
    let u : Nat := 2 ^ sz.toNat
    let disp : Int := if o8.getLsbD 7 then (o8.extractLsb' 4 3).toInt else (o8.extractLsb' 0 7).toInt
    let post : Int := if o8.getLsbD 7 then (o8.extractLsb' 0 4).toInt else 0
    let disp5 : Int := if o5.getLsbD 4 then 0 else (o5.extractLsb' 0 4).toInt
    let post5 : Int := if o5.getLsbD 4 then (o5.extractLsb' 0 4).toInt else 0
    let at_ (d : Int) : Nat := (BitVec.ofInt 32 (s.ra ar.toNat + d)).toNat
    let step (d : Int) (t : State) : State := if d = 0 then t else t.resA ar.toNat (at_ d)
    let legal (a n : Nat) : Prop := a + n ≤ s.shareSize ∧ a % n = 0
    let put (a n v lat : Nat) : State := s.modB fun b => { b with stores := b.stores ++ [⟨a, toBytes n v, b.iss, s.now + lat, false, s.fresh, []⟩] }
    let cl := 2 * s.cur.col + vc.toNat
    let n := vr.toNat % s.vcount
    let a := at_ (disp * u)
    let av := at_ (disp5 * 64)
    let w : Nat := 2 ^ ew.toNat
    let lane (l : Nat) : Nat :=
      (s.ra ar.toNat + s.rv cl ((vr.toNat + 1) % s.vcount) / 2 ^ (32 * l) % 2 ^ 32 * w) % 2 ^ 32
    (s.Performs (.st c rs ar sz o8) c → legal a u →
      exec (.st c rs ar sz o8) s = .next (step (post * u) (put a u (s.rs rs.toNat).toNat 2)).draw) ∧
    (s.Performs (.stv c vc vr ar o5) c → s.b.poison.contains (.v cl n) = false → legal av 64 →
      exec (.stv c vc vr ar o5) s = .next (step (post5 * 64) (put av 64 (s.rv cl n) 2)).draw) ∧
    (s.Performs (.scat c vc vr ar ew) c → s.b.poison.contains (.v cl n) = false →
      s.b.poison.contains (.v cl ((vr.toNat + 1) % s.vcount)) = false → (∀ l, l < 16 → legal (lane l) w) →
      ∃ ps : List (Nat × List Byte), exec (.scat c vc vr ar ew) s =
          .next (s.modB fun b => { b with stores := b.stores ++ ps.map fun p => ⟨p.1, p.2, b.iss, s.now + 4, false, s.fresh, []⟩ }).draw ∧
        (ps.map Prod.fst).Nodup ∧
        ∀ a bs, (a, bs) ∈ ps ↔ ∃ l, l < 16 ∧ lane l = a ∧ bs = toBytes w (s.rv cl n / 2 ^ (32 * l) % 2 ^ 32) ∧
          ∀ k, l < k → k < 16 → lane k ≠ a) ∧
    (s.Performs (.spst c rs off) c → exec (.spst c rs off) s =
      .next (s.result (.spill s.cur.col off.toNat) (s.rs rs.toNat).toNat 1 1).draw)

/-- R123, R126, R131, R134, R138, R140, R141, R143, R153. An access of the L or W slot outside the share, or off its
alignment, takes the scratchpad-address trap, with RANGE before ALIGN, whichever form makes it; of the lanes of a GATH or
SCAT the first in the order of these causes; a CBRD or CBREL of a buffer that is disabled or of the other direction has cause
BUFFER and a far address without a share there TARGET. No part of the syllable executes. -/
def Claims.ScratchpadTraps : Prop :=
  ∀ (s : State) (c : Ctl) (rs : BitVec 6) (ar o5 : BitVec 5) (sz ew : BitVec 2) (o8 arr : BitVec 8) (vr : BitVec 11) (vc all tl sg : Bool)
      (fmt x3 cb : BitVec 3) (o6 : BitVec 6) (d7 : BitVec 7) (d4 n4 : BitVec 4) (n9 : BitVec 9),
    s.cur.phase = .alone → s.b.region = none →
    let disp : Int := if o8.getLsbD 7 then (o8.extractLsb' 4 3).toInt else (o8.extractLsb' 0 7).toInt
    let disp5 : Int := if o5.getLsbD 4 then 0 else (o5.extractLsb' 0 4).toInt
    let at_ (d : Int) : Nat := (BitVec.ofInt 32 (s.ra ar.toNat + d)).toNat
    let trap (code a : Nat) : State :=
      (s.takeTrap ⟨4, code, s.cur.slot, s.cur.col, .ofNat 64 a, .ofNat 64 code, false, .before, false, none⟩).draw
    let size : Nat := match fmt.toNat with | 0 => 1 | 1 => 1 | 2 => 2 | 3 => 2 | 4 => 4 | 5 => 4 | _ => 8
    let traps (i : Instr) (a n align : Nat) : Prop := s.Performs i c →
      (s.shareSize < a + n → exec i s = .next (trap 1 a)) ∧
      (a + n ≤ s.shareSize → a % align ≠ 0 → exec i s = .next (trap 2 a))
    let cl := 2 * s.cur.col + vc.toNat
    let clean (n : Nat) : Prop := s.b.poison.contains (.v cl (n % s.vcount)) = false
    let w : Nat := 2 ^ ew.toNat
    let lane (l : Nat) : Nat :=
      (s.ra ar.toNat + s.rv cl ((vr.toNat + 1) % s.vcount) / 2 ^ (32 * l) % 2 ^ 32 * w) % 2 ^ 32
    let lanes (i : Instr) : Prop := s.Performs i c →
      (∀ l, l < 16 → s.shareSize < lane l + w → (∀ k, k < l → lane k + w ≤ s.shareSize) → exec i s = .next (trap 1 (lane l))) ∧
      (∀ l, l < 16 → (∀ k, k < 16 → lane k + w ≤ s.shareSize) → lane l % w ≠ 0 → (∀ k, k < l → lane k % w = 0) →
        exec i s = .next (trap 2 (lane l)))
    traps (.ld c rs ar fmt o8) (at_ (disp * size)) size size ∧
    traps (.st c rs ar sz o8) (at_ (disp * (2 ^ sz.toNat : Nat))) (2 ^ sz.toNat) (2 ^ sz.toNat) ∧
    traps (.ldv c vc vr ar o5) (at_ (disp5 * 64)) 64 64 ∧ (clean vr.toNat → traps (.stv c vc vr ar o5) (at_ (disp5 * 64)) 64 64) ∧
    (clean (vr.toNat + 1) → lanes (.gath c vc vr ar ew sg)) ∧ (clean vr.toNat → clean (vr.toNat + 1) → lanes (.scat c vc vr ar ew)) ∧
    traps (.scld c x3 ar all o8) (at_ (disp * (if all then 32 else 4))) (if all then 32 else 4) (if all then 32 else 4) ∧
    traps (.ldgScalar c rs ar fmt d7) (at_ (d7.toInt * size)) size size ∧ traps (.ldgVector c vc vr ar d4) (at_ (d4.toInt * 64)) 64 64 ∧
    (let a := (s.rs rs.toNat).toNat % 2 ^ 32
     n9.toNat + n4.toNat ≤ 511 → traps (.vcwld c n9 rs n4) a (32 * (n4.toNat + 1)) 32) ∧
    (let a := s.ra ar.toNat
     let far (i : Instr) (n : Nat) : Prop := s.Performs i c →
      (s.shareSize < a % 2 ^ 25 + n → exec i s = .next (trap 1 a)) ∧
      (a % 2 ^ 25 + n ≤ s.shareSize → a % n ≠ 0 → exec i s = .next (trap 2 a)) ∧
      (a % 2 ^ 25 + n ≤ s.shareSize → a % n = 0 → a / 2 ^ 29 % 8 ≠ 0 ∨
        (∀ x ∈ s.bound, x.lnch = s.b.lnch → x.core ≠ 16 * (s.b.core / 16) + a / 2 ^ 25 % 16) → exec i s = .next (trap 3 a))
     far (.fld c rs ar fmt arr) size ∧ far (.fldv c vc vr ar o5) 64) ∧
    (let i := 8 * s.cur.col + cb.toNat
     let cfg := s.b.cbc.get 0 i
     let st := s.b.cbs.get 0 i
     let image := (rfld cfg 49 38 + 1) * 64
     let slot (k : Nat) : Nat := rfld cfg 24 6 * 64 + k * image
     let enabled (out : Bool) : Prop := rfld cfg 63 63 = 1 ∧ rfld cfg 62 62 = out.toNat
     let v := slot (rfld st 15 8) + 64 * o6.toNat
     let a := slot (if tl then rfld st 7 0 else rfld st 15 8)
     (∀ p ∈ s.b.pend, ∀ col buf w, p.loc = .cbrel col buf w → 8 * col + buf ≠ i) →
      (s.Performs (.cbrdVector c vc vr cb o6) c →
        (¬enabled false → exec (.cbrdVector c vc vr cb o6) s = .next (trap 4 v)) ∧
        (enabled false → image < 64 * o6.toNat + 64 ∨ s.shareSize < slot (rfld st 15 8) + image →
          exec (.cbrdVector c vc vr cb o6) s = .next (trap 1 v))) ∧
      (s.Performs (.cbrdAddress c ar tl cb) c →
        (¬enabled tl → exec (.cbrdAddress c ar tl cb) s = .next (trap 4 a)) ∧
        (enabled tl → s.shareSize < a + image → exec (.cbrdAddress c ar tl cb) s = .next (trap 1 a))) ∧
      (s.Performs (.cbrel c cb) c → ¬enabled (s.cur.slot == 2) → exec (.cbrel c cb) s =
        .next (trap 4 (slot (if s.cur.slot = 2 then rfld st 7 0 else rfld st 15 8)))))

/-- The stores of the W slot, and the scratchpad-address trap. -/
def Obligations.StoreForms : Prop :=
  Claims.StoreForms ∧ Claims.ScratchpadTraps

/-- R69, R73, R378 to R380. RESULT_LAND: the bytes of a store enter the share in one cycle, by its bound at the latest
(assumption log, entry 31); of the stores of different issues to a byte the last shows, and a store whose bound has passed is
gone; a byte that no store covers is as it was, and so is the other share of the core, every other core and global memory.
Says of each that it completes: resultLand. -/
def Claims.StoresLand : Prop :=
  ∀ (s : State) (bank : Nat), s.b.key = bank →
    ∃ t : State, exec (.resultLand bank) s = .next t ∧
      (∀ st ∈ t.b.stores, s.now < st.due ∧ ∃ o ∈ s.b.stores, o.id = st.id ∧ o.addr = st.addr ∧ o.bytes = st.bytes ∧ o.iss = st.iss ∧ o.due = st.due) ∧
      (∀ o ∈ s.b.stores, s.now < o.due → ∃ st ∈ t.b.stores, st.id = o.id ∧ st.addr = o.addr ∧ st.bytes = o.bytes ∧ st.due = o.due) ∧
      (∀ a, Memory.read t.slot.share a = Memory.read s.slot.share a ∨
        ∃ st ∈ s.b.stores, st.byte a = some (Memory.read t.slot.share a) ∧ st.due ≤ s.now + 3) ∧
      (∀ st ∈ s.b.stores, ∀ a x, st.byte a = some x → st.due ≤ s.now →
        (∀ o ∈ s.b.stores, o ≠ st → (o.byte a).isSome = true → o.iss < st.iss) → Memory.read t.slot.share a = x) ∧
      (∀ n slotB, (n ≠ s.b.core ∨ slotB ≠ s.b.slotB) →
        ((t.cores.get .reset n).slot slotB) = ((s.cores.get .reset n).slot slotB)) ∧
      t.mem = s.mem ∧ t.remote = s.remote ∧ t.banks = s.banks ∧ t.ctxs = s.ctxs ∧ t.agenda = s.agenda

/-- R68, R74, R105, R139, R141, R170. RESULT_LAND: results whose bound has passed are written, in the order of their issue,
each to its register, and the counters of a released buffer move after them; results that are not due stay on their way, and
so do writes of system registers. Tiles are no such results: they are written at an operation's release. Says of each that it
completes: resultLand. -/
def Claims.ResultsLand : Prop :=
  ∀ (s : State) (bank : Nat), s.b.key = bank →
    let rel (p : Pend) : Prop := ∃ col buf w, p.loc = .cbrel col buf w
    ∃ t : State, exec (.resultLand bank) s = .next t ∧
      (∀ p ∈ s.b.pend, (s.now < p.due ∨ ∃ n, p.loc = .sys n) → ∃ q ∈ t.b.pend, q.loc = p.loc ∧ q.due = p.due ∧ q.iss = p.iss) ∧
      (∀ p ∈ t.b.pend, s.now < p.due ∨ ∃ n, p.loc = .sys n) ∧
      (∀ l : Loc, (∀ p ∈ s.b.pend, p.loc = l → s.now < p.due) → match l with
        | .s n => t.b.sr.get 0 n = s.b.sr.get 0 n
        | .a n => t.b.ar.get 0 n = s.b.ar.get 0 n
        | .v cl n => n < 2048 → t.b.vr.get 0 (2048 * cl + n) = s.b.vr.get 0 (2048 * cl + n) ∨ ∃ p ∈ s.b.pend, ∃ c' n', p.loc = .v c' n' ∧
            2048 * c' + n' = 2048 * cl + n
        | .vfl cl => t.b.vfl.get 0 cl = s.b.vfl.get 0 cl
        | .vcw n => t.b.vcw.get vcwReset n = s.b.vcw.get vcwReset n
        | .gm n => t.b.gm.get 0 n = s.b.gm.get 0 n
        | .f n => (∀ p ∈ s.b.pend, rel p → s.now < p.due) → n < 16 → t.b.fl.getLsbD n = s.b.fl.getLsbD n
        | _ => True) ∧
      (∀ ps p qs, s.b.pend = ps ++ [p] ++ qs → p.due ≤ s.now → p.lanes ≠ 0 → (∀ q ∈ qs, q.loc = p.loc → s.now < q.due) →
        match p.loc with
        | .s n => t.b.sr.get 0 n = .ofNat 64 p.val
        | .a n => t.b.ar.get 0 n = .ofNat 32 p.val
        | .f n => (∀ q ∈ s.b.pend, rel q → s.now < q.due) → 1 ≤ n → n < 16 → t.b.fl.getLsbD n = decide (p.val = 1)
        | .v cl n => (∀ q ∈ s.b.pend, q ≠ p → ∀ c' n', q.loc = .v c' n' → 2048 * c' + n' = 2048 * cl + n → s.now < q.due) →
            ∀ i, i < 16 → (t.b.vr.get 0 (2048 * cl + n)).extractLsb' (32 * i) 32 = if p.lanes.testBit i then .ofNat 32 (p.val / 2 ^ (32 * i))
              else (s.b.vr.get 0 (2048 * cl + n)).extractLsb' (32 * i) 32
        | .vfl cl => (∀ q ∈ s.b.pend, q ≠ p → q.loc = p.loc → s.now < q.due) → ∀ i, i < 80 → (t.b.vfl.get 0 cl).getLsbD i =
            if p.orIn then (s.b.vfl.get 0 cl).getLsbD i || p.val.testBit i
            else if p.lanes.testBit i then p.val.testBit i else (s.b.vfl.get 0 cl).getLsbD i
        | .q col n => col < 4 → n < 4 → (∀ q ∈ qs, ∀ c' n', q.loc = .q c' n' → 4 * c' + n' = 4 * col + n → s.now < q.due) →
            t.b.q.get 0 (4 * col + n) = .ofNat 64 p.val
        | .xs col n => (∀ q ∈ qs, ∀ c' n', q.loc = .xs c' n' → 8 * c' + n' = 8 * col + n → s.now < q.due) →
            t.b.xs.get xsReset (8 * col + n) = .ofNat 32 p.val
        | .vcw n => t.b.vcw.get vcwReset n = .ofNat 256 p.val
        | .gm n => t.b.gm.get 0 n = .ofNat 64 p.val
        | _ => True) ∧
      (∀ p col buf w, p ∈ s.b.pend → p.loc = .cbrel col buf w → p.due ≤ s.now → (∀ q ∈ s.b.pend, rel q → q.due ≤ s.now → q = p) →
        s.b.pend.Nodup → t.b.cbs = (s.b.cbrel (8 * col + buf) w).cbs) ∧
      ((∀ p ∈ s.b.pend, rel p → s.now < p.due) → t.b.cbs = s.b.cbs) ∧
      t.b.pc = s.b.pc ∧ t.b.npc = s.b.npc ∧ t.banks = s.banks ∧ t.mem = s.mem ∧ t.remote = s.remote

/-- Stores and results land when they are due, in order, and change nothing else. -/
def Obligations.Landing : Prop :=
  Claims.StoresLand ∧ Claims.ResultsLand

/-- R134 to R136. A far load reads the core that its address names; its destination is due exactly n cycles after issue. Says
of each that it completes: fld, fldv. -/
def Claims.FarForms : Prop :=
  ∀ (s : State) (c : Ctl) (rs : BitVec 6) (ar arr5 : BitVec 5) (fmt : BitVec 3) (arr : BitVec 8) (vc : Bool) (vr : BitVec 11),
    let size : Nat := match fmt.toNat with | 0 => 1 | 1 => 1 | 2 => 2 | 3 => 2 | 4 => 4 | 5 => 4 | _ => 8
    let a := s.ra ar.toNat
    let core := 16 * (s.b.core / 16) + a / 2 ^ 25 % 16
    let legal (n : Nat) : Prop := a % 2 ^ 25 + n ≤ s.shareSize ∧ a % n = 0 ∧ a / 2 ^ 29 % 8 = 0 ∧
      ∃ x ∈ s.bound, x.lnch = s.b.lnch ∧ x.core = core
    let requests (i : Instr) (dest : Loc) (n late : Nat) : Prop := ∃ t f, exec i s = .next (State.draw t) ∧
      t.b.fars.getLast? = some f ∧ t.b.fars.length = s.b.fars.length + 1 ∧ f.dest = dest ∧ f.size = n ∧ f.core = some core ∧
      f.addr = a % 2 ^ 25 ∧ f.due = s.now + late ∧ f.iss = s.b.iss ∧ f.data = none ∧ f.here = false ∧
      s.b.SameRegs t.b ∧ s.b.SameSystem t.b ∧ s.SameRest t
    (s.Performs (.fld c rs ar fmt arr) c → legal size → requests (.fld c rs ar fmt arr) (.s rs.toNat) size arr.toNat) ∧
    (s.Performs (.fldv c vc vr ar arr5) c → legal 64 → s.b.region = none → requests (.fldv c vc vr ar arr5)
      (.v (2 * s.cur.col + vc.toNat) (vr.toNat % s.vcount)) 64 (8 * (arr5.toNat + 1)))

/-- R135, R136. The moves of a far load: the target's share is read at one instant, as it stands where no TST is writing it
(and the load completes too where the share is gone: a choice of the model, log entry 86); the data reaches the landing
buffer; at its cycle it is written to the scalar, and where it is not there the core's clock freezes. Says of each that it
completes: farRead, farDataArrival, farLoadLand. -/
def Claims.FarMoves : Prop :=
  ∀ (s : State) (bank far k : Nat) (f : Far) (m : Bank), s.b.key = bank →
    (s.b.fars.find? (fun x => x.id == far && x.data.isNone) = some f → f.core = some k → s.mate k = some m →
      ∃ t : State, exec (.farRead bank far) s = .next t ∧ s.SameRest t ∧ s.b.SameRegs t.b ∧
        let c := s.cores.get .reset k
        (∀ x ∈ t.b.fars, x.id = far → x.data = some (leNat ((List.range x.size).map fun i => (c.farByte m.slotB (x.addr + i)).1))) ∧
        ((∀ o ∈ c.xops, o.start = none) → ∀ a, c.farByte m.slotB a = (Memory.read (c.slot m.slotB).share a, (c.slot m.slotB).poisoned a 1))) ∧
    (s.b.fars.find? (fun x => x.id == far && x.data.isNone) = some f → f.core = some k → s.mate k = none →
      ∃ t : State, exec (.farRead bank far) s = .next t ∧ s.SameRest t ∧ s.b.SameRegs t.b ∧ ∀ x ∈ t.b.fars, x.id = far → x.data.isSome = true) ∧
    (∃ t : State, exec (.farDataArrival bank far) s = .next t ∧ s.b.SameRegs t.b ∧ t.mem = s.mem ∧
      (∀ x ∈ t.b.fars, x.id = far → x.data.isSome = true → x.here = true) ∧
      (t.bound.all (fun x => x.core != s.b.core || !x.starved s.now) = true → (t.cores.get .reset s.b.core).frozen = false)) ∧
    (s.b.starved s.now = true → ∃ t : State, exec (.farLoadLand bank) s = .next t ∧
      (t.cores.get .reset s.b.core).frozen = true ∧ t.b = s.b ∧ t.mem = s.mem) ∧
    (∀ n d, s.b.starved s.now = false → s.b.fars.filter (fun x => decide (x.due ≤ s.now) && x.here) = [f] → f.dest = .s n →
      f.lanes ≠ 0 → f.data = some d → f.signed = false → f.size ≤ 8 → d < 2 ^ 64 →
      ∃ t : State, exec (.farLoadLand bank) s = .next t ∧ t.b.sr.get 0 n = .ofNat 64 d ∧
        (∀ j, j ≠ n → t.b.sr.get 0 j = s.b.sr.get 0 j) ∧ t.b.vr = s.b.vr ∧ t.b.ar = s.b.ar ∧ t.b.fl = s.b.fl ∧
        t.b.fars = s.b.fars.filter (fun x => !(decide (x.due ≤ s.now) && x.here)) ∧ s.SameRest t)

/-- Far loads: their request, their data, their landing and the freeze of the core. -/
def Obligations.FarLoads : Prop :=
  Claims.FarForms ∧ Claims.FarMoves

/-- R138, R140, R141. CBRD reads the head slot or names a slot of an enabled buffer of its direction, with a bound of 4; a
CBREL's counters move in cycle issue + 2. Says of each that it completes: cbrdVector, cbrdAddress, cbrel. -/
def Claims.BufferForms : Prop :=
  ∀ (s : State) (c : Ctl) (vc tl : Bool) (vr : BitVec 11) (cb : BitVec 3) (off : BitVec 6) (ar : BitVec 5),
    let i := 8 * s.cur.col + cb.toNat
    let cfg := s.b.cbc.get 0 i
    let st := s.b.cbs.get 0 i
    let size := (rfld cfg 49 38 + 1) * 64
    let slot (k : Nat) : Nat := rfld cfg 24 6 * 64 + k * size
    let enabled (out : Bool) : Prop := rfld cfg 63 63 = 1 ∧ rfld cfg 62 62 = out.toNat
    (∀ p ∈ s.b.pend, ∀ col buf w, p.loc = .cbrel col buf w → 8 * col + buf ≠ i) →
    (let a := slot (rfld st 15 8) + 64 * off.toNat
     s.Performs (.cbrdVector c vc vr cb off) c → enabled false → 0 < rfld st 33 25 → 64 * off.toNat + 64 ≤ size →
      slot (rfld st 15 8) + size ≤ s.shareSize →
      exec (.cbrdVector c vc vr cb off) s = .next (s.putV (2 * s.cur.col + vc.toNat) (vr.toNat % s.vcount) (s.spNat a 64)
        0xFFFF 4 (s.spPoison a 64)).draw) ∧
    (let a := slot (if tl then rfld st 7 0 else rfld st 15 8)
     s.Performs (.cbrdAddress c ar tl cb) c → enabled tl → (if tl then 0 < rfld st 24 16 else 0 < rfld st 33 25) →
      a + size ≤ s.shareSize →
      exec (.cbrdAddress c ar tl cb) s = .next (s.result (.a ar.toNat) a 1 4).draw) ∧
    (s.Performs (.cbrel c cb) c → enabled (s.cur.slot == 2) → (if s.cur.slot = 2 then 0 < rfld st 24 16 else 0 < rfld st 33 25) →
      exec (.cbrel c cb) s = .next (s.modB fun b => { b with pend := b.pend ++
        [⟨.cbrel s.cur.col cb.toNat (s.cur.slot == 2), 0, 0, 1, 1, b.iss, s.now + 2, false, false, b.region.isSome⟩] }).draw)

/-- R139, R142. What a release and a publication do to the counters of a buffer and to its readiness flag, and what a write
of its configuration does. -/
def Claims.BufferCounters : Prop :=
  ∀ (b : Bank) (i : Nat),
    let cfg := b.cbc.get 0 i
    let st := b.cbs.get 0 i
    let n := rfld cfg 57 50 + 1
    let up (w : Bool) : Bank := b.cbrel i w
    let now (w : Bool) : DWord := (b.cbrel i w).cbs.get 0 i
    (0 < rfld st 33 25 → rfld st 24 16 < 511 → rfld (now false) 33 25 + 1 = rfld st 33 25 ∧
      rfld (now false) 24 16 = rfld st 24 16 + 1 ∧ rfld (now false) 15 8 = (rfld st 15 8 + 1) % n ∧
      rfld (now false) 7 0 = rfld st 7 0) ∧
    (0 < rfld st 24 16 → rfld st 33 25 < 511 → rfld (now true) 24 16 + 1 = rfld st 24 16 ∧
      rfld (now true) 33 25 = rfld st 33 25 + 1 ∧ rfld (now true) 7 0 = (rfld st 7 0 + 1) % n ∧
      rfld (now true) 15 8 = rfld st 15 8) ∧
    (∀ w, (up w).cbc = b.cbc ∧ (∀ j, j ≠ i → (up w).cbs.get 0 j = b.cbs.get 0 j) ∧ (up w).sr = b.sr ∧ (up w).vr = b.vr ∧
      ∀ k, (up w).fl.getLsbD k = if rfld cfg 63 63 = 1 ∧ rfld cfg 61 58 = k ∧ k ≠ 0 ∧ (up w).cbReady i ≠ b.cbReady i then
        (up w).cbReady i else b.fl.getLsbD k) ∧
    (∀ v, rfld cfg 63 63 = 1 → (b.writeCbc i v).cbs = b.cbs ∧ (b.writeCbc i v).fl = b.fl ∧
      (b.writeCbc i v).cbc.get 0 i = if v.getLsbD 63 then cfg else setFld cfg 63 63 0) ∧
    (∀ v, rfld cfg 63 63 = 0 → (b.writeCbc i v).cbc.get 0 i = v &&& 0xFFFFFFC001FFFFC0 ∧ (b.writeCbc i v).cbs = b.cbs)

/-- Circular buffers: reads, releases, counters and readiness. -/
def Obligations.CircularBuffers : Prop :=
  Claims.BufferForms ∧ Claims.BufferCounters

/-- R151, R154. What an element-wise operation does: every element of RD′ in the lanes that take part gets the operation's
result on the elements of RA′, B and RC′, the flags of a lane's elements are gathered in its field of VFL unless NF is set,
and with TQ the elements written are offered to the column's tree. -/
def Claims.ElementwiseEffect : Prop :=
  ∀ (s : State) (e : Vcw) (bound : Nat) (op : Nat → Nat → Nat → Nat × Nat),
    let w := fmtWidth e.fmt.toNat
    let cl := 2 * s.cur.col + (s.cur.slot - 3)
    let reg (field : BitVec 11) (step : BitVec 8) : Nat :=
      (((field.toNat : Int) + s.cur.j * step.toInt + 32 * s.cur.slide) % (s.vcount : Int)).toNat
    let el (r : Nat) (k : Nat) : Nat := s.rv cl r / 2 ^ (w * k) % 2 ^ w
    let b (k : Nat) : Nat := if e.sbe then (s.rs e.sbs.toNat).toNat % 2 ^ w else el (reg e.rb e.stb) k
    let res (k : Nat) : Nat × Nat := op (el (reg e.ra e.sta) k) (b k) (el (reg e.rc e.stc) k)
    let active (l : Nat) : Bool := !e.lp || (s.rv cl 0).testBit (32 * l)
    w ∈ [8, 16, 32] →
    ∃ v fl lanes : Nat, ∃ xs : List Nat,
      s.vmap e bound op =
        (let t := s.putV cl (reg e.rd e.std) v lanes bound
         let t := if e.nf then t else t.resVfl cl fl bound
         if e.tq ∧ lanes ≠ 0 then t.contribute e.fmt.toNat bound xs else t) ∧
      (∀ l, lanes.testBit l = (decide (l < 16) && active l)) ∧
      (∀ k, k < 512 / w → v / 2 ^ (w * k) % 2 ^ w = (res k).1 % 2 ^ w) ∧
      (∀ l n, l < 16 → n < 5 → fl.testBit (5 * l + n) =
        (active l && decide (∃ j, j < 32 / w ∧ (res (l * (32 / w) + j)).2.testBit n = true))) ∧
      xs = ((List.range (512 / w)).filter fun k => active (k * w / 32)).map fun k => (res k).1

/-- R77, R155 to R157. The integer forms: the exact result of signed operands under .i and unsigned ones under .n, wrapped or
clamped, with OF when it lies outside the format; the least and the greatest; and compares, which give all ones or 0. Says of
each that it completes: vadd, vsub, vmul, vfma, vfms, vmin, vmax, vabs, vneg, vcmp. -/
def Claims.VectorIntegerForms : Prop :=
  ∀ (s : State) (e : Vcw), isFlt e.fmt.toNat = false → e.fmt.toNat < 8 → e.fmt.toNat % 4 ≠ 3 →
    let f := e.fmt.toNat
    let w := fmtWidth f
    let sg := decide (f < 4)
    let val (n : Nat) : Int := if sg then (BitVec.ofNat w n).toInt else ((BitVec.ofNat w n).toNat : Int)
    let lo : Int := if sg then -(2 ^ (w - 1) : Int) else 0
    let hi : Int := if sg then 2 ^ (w - 1) - 1 else 2 ^ w - 1
    let out (i : Int) : Nat × Nat :=
      if lo ≤ i ∧ i ≤ hi then ((i % 2 ^ w).toNat, 0)
      else (if e.sat then ((max lo (min hi i)) % 2 ^ w).toNat else (i % 2 ^ w).toNat, 4)
    let does (i : Instr) (bound : Nat) (op : Nat → Nat → Nat → Nat × Nat) : Prop :=
      ∃ g, exec i s = .next (s.vmap e bound g).draw ∧ ∀ a b c, a < 2 ^ w → b < 2 ^ w → c < 2 ^ w → g a b c = op a b c
    let mask (p : Bool) : Nat × Nat := (if p then 2 ^ w - 1 else 0, 0)
    (s.vecCauses e true true true = [] →
      (s.Performs (.vadd e) (vctl e) → does (.vadd e) 2 fun a b _ => out (val a + val b)) ∧
      (s.Performs (.vsub e) (vctl e) → does (.vsub e) 2 fun a b _ => out (val a - val b)) ∧
      (s.Performs (.vmul e) (vctl e) → does (.vmul e) 4 fun a b _ => out (val a * val b)) ∧
      (s.Performs (.vfma e) (vctl e) → does (.vfma e) 4 fun a b c => out (val a * val b + val c)) ∧
      (s.Performs (.vfms e) (vctl e) → does (.vfms e) 4 fun a b c => out (val a * val b - val c)) ∧
      (s.Performs (.vmin e) (vctl e) → does (.vmin e) 2 fun a b _ => (if val a < val b then a else b, 0)) ∧
      (s.Performs (.vmax e) (vctl e) → does (.vmax e) 2 fun a b _ => (if val a < val b then b else a, 0)) ∧
      (s.Performs (.vabs e) (vctl e) → does (.vabs e) 2 fun a _ _ => out (val a).natAbs) ∧
      (s.Performs (.vneg e) (vctl e) → does (.vneg e) 2 fun a _ _ => out (-val a)) ∧
      (s.Performs (.vcmp e) (vctl e) → e.imm.toNat < 6 → does (.vcmp e) 2 fun a b _ => mask (match e.imm.toNat with
        | 0 => decide (val a = val b) | 1 => decide (val a ≠ val b) | 2 => decide (val a < val b)
        | 3 => decide (val a ≤ val b) | 4 => decide (val b < val a) | _ => decide (val b ≤ val a))))

/-- R155, R158. The bit forms: logic, shifts by the shift amount modulo the element width, and VSEL. They raise no flag. Says
of each that it completes: vand, vor, vxor, vshl, vshr, vsra, vsel. -/
def Claims.VectorBitForms : Prop :=
  ∀ (s : State) (e : Vcw), s.vecCauses e true true true = [] →
    let w := fmtWidth e.fmt.toNat
    let does (i : Instr) (op : Nat → Nat → Nat → Nat) : Prop :=
      ∃ g, exec i s = .next (s.vmap e 2 g).draw ∧ ∀ a b c, a < 2 ^ w → b < 2 ^ w → c < 2 ^ w → g a b c = (op a b c, 0)
    w ∈ [8, 16, 32] →
    (s.Performs (.vand e) (vctl e) → does (.vand e) fun a b _ => a &&& b) ∧
    (s.Performs (.vor e) (vctl e) → does (.vor e) fun a b _ => a ||| b) ∧
    (s.Performs (.vxor e) (vctl e) → does (.vxor e) fun a b _ => a ^^^ b) ∧
    (s.Performs (.vshl e) (vctl e) → does (.vshl e) fun a b _ => (BitVec.ofNat w a <<< (b % w)).toNat) ∧
    (s.Performs (.vshr e) (vctl e) → does (.vshr e) fun a b _ => (BitVec.ofNat w a >>> (b % w)).toNat) ∧
    (s.Performs (.vsra e) (vctl e) → does (.vsra e) fun a b _ => ((BitVec.ofNat w a).sshiftRight (b % w)).toNat) ∧
    (s.Performs (.vsel e) (vctl e) → does (.vsel e) fun a b c => if c = 0 then b else a)

/-- R81, R83, R155 to R157. The floating forms: the exact sum, difference, product or fused form is delivered once by RM and
SAT; a signalling NaN raises NV; the least and the greatest put −0 below +0 and pass over one NaN; VABS and VNEG change the
sign bit alone; ordered compares are false on a NaN. Says of each that it completes: vadd, vsub, vmul, vfma, vfms, vmin,
vmax, vabs, vneg, vcmp. -/
def Claims.VectorFloatForms : Prop :=
  ∀ (s : State) (e : Vcw), isFlt e.fmt.toNat = true → s.vecCauses e true true true = [] →
    let f := e.fmt.toNat
    let w := fmtWidth f
    let rm := e.rm.toNat
    let nv (vs : List FVal) : Nat := if vs.any (·.isSnan) then 16 else 0
    let out (r : FVal × Nat) (vs : List FVal) : Nat × Nat := ((deliver f rm e.sat r.1).1, (deliver f rm e.sat r.1).2 ||| r.2 ||| nv vs)
    let does (i : Instr) (bound : Nat) (op : Nat → Nat → Nat → Nat × Nat) : Prop :=
      ∃ g, exec i s = .next (s.vmap e bound g).draw ∧ ∀ a b c, a < 2 ^ w → b < 2 ^ w → c < 2 ^ w → g a b c = op a b c
    let v := fval f
    let nan (x : Nat) : Bool := (v x).isNan
    let mask (p : Bool) (fl : Nat) : Nat × Nat := (if p then 2 ^ w - 1 else 0, fl)
    (s.Performs (.vadd e) (vctl e) → does (.vadd e) 2 fun a b _ => out (addV rm (v a) (v b)) [v a, v b]) ∧
    (s.Performs (.vsub e) (vctl e) → does (.vsub e) 2 fun a b _ => out (addV rm (v a) (v b).neg) [v a, v b]) ∧
    (s.Performs (.vmul e) (vctl e) → does (.vmul e) 4 fun a b _ => out (mulV (v a) (v b)) [v a, v b]) ∧
    (s.Performs (.vfma e) (vctl e) → does (.vfma e) 4 fun a b c =>
      out ((addV rm (mulV (v a) (v b)).1 (v c)).1, (mulV (v a) (v b)).2 ||| (addV rm (mulV (v a) (v b)).1 (v c)).2) [v a, v b, v c]) ∧
    (s.Performs (.vfms e) (vctl e) → does (.vfms e) 4 fun a b c =>
      out ((addV rm (mulV (v a) (v b)).1 (v c).neg).1, (mulV (v a) (v b)).2 ||| (addV rm (mulV (v a) (v b)).1 (v c).neg).2)
        [v a, v b, v c]) ∧
    (s.Performs (.vmin e) (vctl e) → does (.vmin e) 2 fun a b _ =>
      (if nan a && nan b then canonNan f else if nan a then b else if nan b then a else if below (v a) (v b) then a else b, nv [v a, v b])) ∧
    (s.Performs (.vmax e) (vctl e) → does (.vmax e) 2 fun a b _ =>
      (if nan a && nan b then canonNan f else if nan a then b else if nan b then a else if below (v a) (v b) then b else a, nv [v a, v b])) ∧
    (s.Performs (.vabs e) (vctl e) → does (.vabs e) 2 fun a _ _ =>
      (if nan a then canonNan f else a % 2 ^ (w - 1), nv [v a])) ∧
    (s.Performs (.vneg e) (vctl e) → does (.vneg e) 2 fun a _ _ =>
      (if nan a then canonNan f else a ^^^ 2 ^ (w - 1), nv [v a])) ∧
    (s.Performs (.vcmp e) (vctl e) → e.imm.toNat < 8 → does (.vcmp e) 2 fun a b _ =>
      let un := nan a || nan b
      let o := cmpV (v a) (v b)
      mask (match e.imm.toNat with
        | 0 => !un && o == .eq | 1 => un || o != .eq | 2 => !un && o == .lt | 3 => !un && o != .gt
        | 4 => !un && o == .gt | 5 => !un && o != .lt | 6 => un | _ => !un)
        (if (v a).isSnan || (v b).isSnan || (un && decide (2 ≤ e.imm.toNat) && decide (e.imm.toNat ≤ 5)) then 16 else 0))

/-- Element-wise vector forms: integer, bit and floating results, flags, lanes and trees. -/
def Obligations.ElementwiseVectorForms : Prop :=
  Claims.ElementwiseEffect ∧ Claims.VectorIntegerForms ∧ Claims.VectorBitForms ∧ Claims.VectorFloatForms

/-- R78 to R81. Delivery into a floating format: every finite pattern delivers itself, exactly and without a flag, under
every rounding mode; every NaN becomes the canonical one; an infinity stays one where the format has it. -/
def Claims.PatternsDeliverThemselves : Prop :=
  ∀ (f rm n : Nat) (sat : Bool), isFlt f = true → n < 2 ^ fmtWidth f →
    match fval f n with
    | .fin .. => deliver f rm sat (fval f n) = (n, 0)
    | .inf _ => deliver f rm sat (fval f n) = (n, 0)
    | .nan _ => deliver f rm sat (fval f n) = (canonNan f, 0) ∧ (fval f (canonNan f)) = .nan false

/-- R81, R83. Rounding brackets the exact value: of a finite value that does not overflow, RTZ gives the greatest magnitude
of the format that is not above it; RNE gives the nearer of that magnitude and the next one, or the even one where both are
as near; RUP gives the next one of a positive inexact value and RDN of a negative one; NX is set exactly when something is
lost. -/
def Claims.RoundingBrackets : Prop :=
  ∀ (f rm : Nat) (sat neg : Bool) (m : Nat) (e : Int), isFlt f = true → m ≠ 0 →
    let z := roundTo f 1 sat neg m e false
    let r := roundTo f rm sat neg m e false
    let mag (n : Nat) : Nat := n % 2 ^ (fmtWidth f - 1)
    let le (n : Nat) : Prop := match fval f (mag n) with
      | .fin _ k x => k * 2 ^ (x - min x e).toNat ≤ m * 2 ^ (e - min x e).toNat
      | _ => False
    z.2 &&& 4 = 0 → r.2 &&& 4 = 0 →
    le z.1 ∧ ¬le (mag z.1 + 1) ∧ (r.1 = z.1 ∨ r.1 = z.1 + 1) ∧ (z.2 &&& 1 = 0 → r = z) ∧
      r.1.testBit (fmtWidth f - 1) = neg ∧
      ∀ b k x, fval f (mag z.1) = .fin b k x →
        let h := min x e
        let v := m * 2 ^ (e - h).toNat
        let low := k * 2 ^ (x - h).toNat
        let mid := (2 * k + 1) * 2 ^ (x - h).toNat
        r.2.testBit 0 = decide (v ≠ low) ∧ (v = low → r = z) ∧
        (v ≠ low → rm < 4 → r.1 = z.1 + if (match rm with
          | 0 => decide (mid < 2 * v) || (2 * v == mid && k % 2 == 1)
          | 1 => false
          | 2 => !neg
          | _ => neg) then 1 else 0)

/-- Every pattern delivers itself, and rounding brackets the exact value. -/
def Obligations.DeliveryAndRounding : Prop :=
  Claims.PatternsDeliverThemselves ∧ Claims.RoundingBrackets

/-- R159. VCVT converts element by element: a narrowing or equal conversion fills part p of each lane and keeps the rest, a
widening one takes part p. The flags of a lane's conversions are gathered unless NF is set, and with TQ the elements of the
part that is written are contributed. Says of each that it completes: vcvt. -/
def Claims.VectorConversions : Prop :=
  ∀ (s : State) (e : Vcw), s.Performs (.vcvt e) (vctl e) → s.vecCauses e true false false = [] →
    let ws := fmtWidth e.fmt.toNat
    let wd := fmtWidth e.fmt2.toNat
    let ns := 32 / ws
    let nd := 32 / wd
    let p := e.imm.toNat
    let cl := s.clV
    let rd := s.eff e.rd e.std
    let src (l j : Nat) : Nat := s.rv cl (s.eff e.ra e.sta) / 2 ^ (32 * l + ws * j) % 2 ^ ws
    let old (l j : Nat) : Nat := s.rv cl rd / 2 ^ (32 * l + wd * j) % 2 ^ wd
    let one (x : Nat) : Nat × Nat := cvt e.fmt.toNat e.fmt2.toNat e.rm.toNat e.sat x
    let part (j : Nat) : Bool := decide (nd < ns ∨ p * ns ≤ j ∧ j < p * ns + ns)
    let res (k : Nat) : Nat × Nat :=
      if part (k % nd) then one (src (k / nd) (if ns ≤ nd then k % nd - p * ns else p * nd + k % nd)) else (old (k / nd) (k % nd), 0)
    ws ∈ [8, 16, 32] → wd ∈ [8, 16, 32] → p < max (nd / ns) (ns / nd) → s.b.poison.contains (.v cl rd) = false →
    ∃ t : State, exec (.vcvt e) s = .next t.draw ∧ s.Delivers e e.fmt2.toNat 3 res (fun k => part (k % nd)) t

/-- R88 to R91, R160, R161. VQBFP puts one quantised block into field p of the mantissa register and byte p of the exponent
register and leaves every other bit; VXBFP expands the block that stands there. Unless NF is set the flags of the elements
are gathered in VFL. Says of each that it completes: vqbfp, vxbfp. -/
def Claims.BlockFloatingForms : Prop :=
  ∀ (s : State) (e : Vcw), s.vecCauses e true true true = [] →
    let m := bfpWidth e.fmt2.toNat
    let p := e.imm.toNat
    let cl := s.clV
    let r (f : BitVec 11) (st : BitVec 8) : Nat := s.rv cl (s.eff f st)
    let q := quantise m ((List.range 16).map fun i => fval 8 (r e.ra e.sta / 2 ^ (32 * i) % 2 ^ 32))
    2 ≤ m → p < 32 / m → s.b.poison.contains (.v cl (s.eff e.rd e.std)) = false →
    (s.Performs (.vqbfp e) (vctl e) → ∃ vd vc : BitVec 512, ∃ fl : Nat,
      exec (.vqbfp e) s = .next (let t := (s.putV cl (s.eff e.rd e.std) vd.toNat 0xFFFF 3).putV cl (s.eff e.rc e.stc) vc.toNat 0xFFFF 3
        if e.nf then t else t.resVfl cl fl 3).draw ∧
      (∀ i n, i < 16 → n < 5 → fl.testBit (5 * i + n) = (q.2.2.getD i 0).testBit n) ∧
      (∀ i, i < 16 → (vd.extractLsb' (16 * m * p + m * i) m).toNat = q.2.1.getD i 0) ∧
      (∀ k, (k < 16 * m * p ∨ 16 * m * p + 16 * m ≤ k) → k < 512 → vd.getLsbD k = (r e.rd e.std).testBit k) ∧
      (vc.extractLsb' (8 * p) 8).toNat = q.1 ∧
      (∀ k, (k < 8 * p ∨ 8 * p + 8 ≤ k) → k < 512 → vc.getLsbD k = (r e.rc e.stc).testBit k)) ∧
    (s.Performs (.vxbfp e) (vctl e) → ∃ t : State, exec (.vxbfp e) s = .next t.draw ∧ s.Delivers e 8 3 (fun i =>
      deliver 8 e.rm.toNat e.sat (bfpVal m (r e.rb e.stb / 2 ^ (8 * p) % 256) (r e.ra e.sta / 2 ^ (16 * m * p + m * i) % 2 ^ m)))
      (fun _ => true) t)

/-- VCVT, VQBFP and VXBFP. -/
def Obligations.VectorConversions : Prop :=
  Claims.VectorConversions ∧ Claims.BlockFloatingForms

/-- R162. The special functions: their bound, and the cases that the table fixes, for every rounding mode. Says of each that
it completes: vrcp, vrsq, vexp2, vlog2, vtanh. -/
def Obligations.SpecialFunctions : Prop :=
  (∀ (s : State) (e : Vcw), s.vecCauses e true false false = [] →
    let does (i : Instr) (fn : Nat) : Prop := ∃ g, exec i s = .next (s.vmap e 8 g).draw ∧
      ∀ a b c r, special fn e.fmt.toNat e.rm.toNat e.sat a = some r → g a b c = r
    (s.Performs (.vrcp e) (vctl e) → does (.vrcp e) 0) ∧ (s.Performs (.vrsq e) (vctl e) → does (.vrsq e) 1) ∧
    (s.Performs (.vexp2 e) (vctl e) → does (.vexp2 e) 2) ∧ (s.Performs (.vlog2 e) (vctl e) → does (.vlog2 e) 3) ∧
    (s.Performs (.vtanh e) (vctl e) → does (.vtanh e) 4)) ∧
  (∀ (f rm : Nat) (sat : Bool), f = 8 ∨ f = 9 ∨ f = 10 →
    let top := 2 ^ (fmtWidth f - 1)
    let one := match f with | 8 => 0x3F800000 | 9 => 0x3C00 | _ => 0x3F80
    let inf := infBits f false
    let sp (fn n : Nat) : Option (Nat × Nat) := special fn f rm sat n
    let nan := canonNan f
    sp 0 0 = some (inf, 8) ∧ sp 0 top = some (inf + top, 8) ∧ sp 0 inf = some (0, 0) ∧ sp 0 (inf + top) = some (top, 0) ∧
    sp 1 0 = some (inf, 8) ∧ sp 1 top = some (inf + top, 8) ∧ sp 1 inf = some (0, 0) ∧ sp 1 (inf + top) = some (nan, 16) ∧
    sp 2 0 = some (one, 0) ∧ sp 2 top = some (one, 0) ∧ sp 2 inf = some (inf, 0) ∧ sp 2 (inf + top) = some (0, 0) ∧
    sp 3 0 = some (inf + top, 8) ∧ sp 3 top = some (inf + top, 8) ∧ sp 3 inf = some (inf, 0) ∧ sp 3 (inf + top) = some (nan, 16) ∧
    sp 4 0 = some (0, 0) ∧ sp 4 top = some (top, 0) ∧ sp 4 inf = some (one, 0) ∧ sp 4 (inf + top) = some (one + top, 0) ∧
    (∀ n, n < 2 * top → n ≠ top → (fval f n).isNan = false → (fval f n).isNeg = true → sp 1 n = some (nan, 16) ∨ (fval f n).isZero = true) ∧
    (∀ n, n < 2 * top → n ≠ top → (fval f n).isNan = false → (fval f n).isNeg = true → sp 3 n = some (nan, 16) ∨ (fval f n).isZero = true) ∧
    (∀ fn n, fn < 5 → (fval f n).isNan = true → sp fn n = some (nan, if (fval f n).isSnan then 16 else 0)))

/-- R163 to R168. Lane movement and generation: which element stands where, with no flag; with TQ the elements written are
contributed. Says of each that it completes: vperm, vxc, vbc, vext, viota. -/
def Claims.VectorMoves : Prop :=
  ∀ (s : State) (e : Vcw), s.vecCauses e true true true = [] →
    let w := fmtWidth e.fmt.toNat
    let cl := s.clV
    let el (w r k : Nat) : Nat := s.rv cl r / 2 ^ (w * k) % 2 ^ w
    let ra := s.eff e.ra e.sta
    let rb := s.eff e.rb e.stb
    let rc := s.eff e.rc e.stc
    let k := e.imm.toNat
    let scalar := (s.rs e.sbs.toNat).toNat
    let puts (i : Instr) (fmt bound : Nat) (f : Nat → Nat) : Prop := ∃ t : State,
      exec i s = .next t.draw ∧ s.Delivers e fmt bound (fun n => (f n, 0)) (fun _ => true) t
    w ∈ [8, 16, 32] →
    (s.Performs (.vperm e) (vctl e) → puts (.vperm e) 6 3 fun l =>
      if (el 32 rb l).testBit 4 then el 32 rc (el 32 rb l % 16) else el 32 ra (el 32 rb l % 16)) ∧
    (s.Performs (.vxc e) (vctl e) → k < 2 * s.b.cols → k < 8 →
      exec (.vxc e) s = .next (s.putV k (s.eff e.rd e.std) (s.rv cl ra) (s.laneMask e) 6).draw) ∧
    (s.Performs (.vbc e) (vctl e) → k < 512 / w →
      puts (.vbc e) e.fmt.toNat 2 fun _ => if e.sbe then scalar % 2 ^ w else el w ra k) ∧
    (s.Performs (.vext e) (vctl e) → k < 512 / w →
      puts (.vext e) e.fmt.toNat 2 fun n => if n + k < 512 / w then el w ra (n + k)
        else if e.sbe then scalar % 2 ^ w else el w rb (n + k - 512 / w)) ∧
    (s.Performs (.viota e) (vctl e) → puts (.viota e) e.fmt.toNat 2 fun n =>
      (((if e.sbe then (scalar : Int) else e.imm.toInt) + n) % 2 ^ w).toNat)

/-- R167. VSCAN: the first element of a lane that takes part gets itself, a NaN made canonical; each later one gets the sum,
the greater or the lesser of the result before it and itself, delivered at every step, and its step's flags. Over integers
this is the running sum, greatest or least. Says of each that it completes: vscan. -/
def Claims.ScanForm : Prop :=
  ∀ (s : State) (e : Vcw), s.Performs (.vscan e) (vctl e) → s.vecCauses e true false false = [] → e.imm.toNat < 3 →
    fmtWidth e.fmt.toNat ∈ [8, 16, 32] →
    let f := e.fmt.toNat
    let w := fmtWidth f
    let el (k : Nat) : Nat := s.rv s.clV (s.eff e.ra e.sta) / 2 ^ (w * k) % 2 ^ w
    let on (k : Nat) : Bool := (s.laneMask e).testBit (k * w / 32)
    let before (k : Nat) : List Nat := (List.range (k + 1)).filter on
    let nv (vs : List FVal) : Nat := if vs.any (·.isSnan) then 16 else 0
    let first (x : Nat) : Nat × Nat := if isFlt f ∧ (fval f x).isNan then (canonNan f, nv [fval f x]) else (x, 0)
    let step (y x : Nat) : Nat × Nat :=
      let vs := [fval f y, fval f x]
      let nan (n : Nat) : Bool := (fval f n).isNan
      let most (up : Bool) : Nat × Nat := (if nan y && nan x then canonNan f else if nan y then x else if nan x then y
        else if below (fval f y) (fval f x) = up then x else y, nv vs)
      match e.imm.toNat with
      | 0 => let r := addV e.rm.toNat (fval f y) (fval f x)
             let d := deliver f e.rm.toNat e.sat r.1
             (d.1, d.2 ||| r.2 ||| nv vs)
      | n => most (n == 1)
    ∃ (res : Nat → Nat × Nat) (t : State), exec (.vscan e) s = .next t.draw ∧ s.Delivers e f 6 res (fun _ => true) t ∧
      ∀ k, k < 512 / w → on k = true →
        (isFlt f = true → match (before k).dropLast.getLast? with
          | none => res k = first (el k)
          | some i => res k = step (res i).1 (el k)) ∧
        (isFlt f = false → f < 8 → f % 4 ≠ 3 →
          let y := (res k).1
          (e.imm = 0 → e.sat = false → y = ((before k).map el).sum % 2 ^ w) ∧
          (e.imm = 0 → ∀ i, (before k).dropLast.getLast? = some i →
            res k = intDeliver f e.sat (intVal f (res i).1 + intVal f (el k))) ∧
          (e.imm = 1 → y ∈ (before k).map el ∧ ∀ i ∈ before k, intVal f (el i) ≤ intVal f y) ∧
          (e.imm = 2 → y ∈ (before k).map el ∧ ∀ i ∈ before k, intVal f y ≤ intVal f (el i)) ∧
          (e.imm ≠ 0 → (res k).2 = 0))

/-- Lane movement, generation and scan. -/
def Obligations.VectorMovement : Prop :=
  Claims.VectorMoves ∧ Claims.ScanForm

/-- R169. VFLG reads VFL into lanes, clears the flags of a mask, and writes VFL from lanes. Says of each that it completes:
vflg. -/
def Claims.StickyFlagForms : Prop :=
  ∀ (s : State) (e : Vcw), s.Performs (.vflg e) (vctl e) → s.vecCauses e true false false = [] →
    let cl := s.clV
    let on (l : Nat) : Bool := (s.laneMask e).testBit l
    (e.imm = 0 → ∃ v : Nat, exec (.vflg e) s = .next (s.putV cl (s.eff e.rd e.std) v (s.laneMask e) 2).draw ∧
      ∀ l, l < 16 → v / 2 ^ (32 * l) % 2 ^ 32 = (s.rvfl cl).toNat / 2 ^ (5 * l) % 32) ∧
    (e.imm.toNat % 4 ≠ 0 → e.imm.toNat % 4 ≠ 3 → s.laneMask e ≠ 0 → ∃ v m : Nat,
      exec (.vflg e) s = .next (s.result (.vfl cl) v m 2).draw ∧ v < 2 ^ 80 ∧ m / 2 ^ 80 = s.laneMask e ∧
      ∀ l n, l < 16 → n < 5 →
        (e.imm.toNat % 4 = 1 → v.testBit (5 * l + n) = false ∧ m.testBit (5 * l + n) = (on l && e.imm.getLsbD (n + 2))) ∧
        (e.imm.toNat % 4 = 2 → m.testBit (5 * l + n) = on l ∧ v.testBit (5 * l + n) =
          (on l && (s.rv cl (s.eff e.ra e.sta)).testBit (32 * l + n)))) ∧
    ((∀ p ∈ s.b.pend, p.loc ≠ .vfl cl) → s.rvfl cl = s.b.vfl.get 0 cl)

/-- R153. VCWLD reads its entries from the share at issue; they are loaded from issue + 4 on. Says of each that it completes:
vcwld. -/
def Claims.TableLoad : Prop :=
  ∀ (s : State) (c : Ctl) (idx : BitVec 9) (ra : BitVec 6) (cnt : BitVec 4), s.Performs (.vcwld c idx ra cnt) c →
    let a := (s.rs ra.toNat).toNat % 2 ^ 32
    let n := cnt.toNat + 1
    (idx.toNat + cnt.toNat ≤ 511 → a + 32 * n ≤ s.shareSize → a % 32 = 0 →
      exec (.vcwld c idx ra cnt) s = .next ((List.range n).foldl (fun t k => t.result (.vcw (idx.toNat + k))
        (s.spNat (a + 32 * k) 32) 1 4 (s.spPoison (a + 32 * k) 32)) s).draw) ∧
    (511 < idx.toNat + cnt.toNat → s.cur.phase = .alone → s.b.region = none →
      exec (.vcwld c idx ra cnt) s = .next (s.takeTrap s.illegal).draw)

/-- VFLG and VCWLD. -/
def Obligations.StickyFlagsAndTableLoad : Prop :=
  Claims.StickyFlagForms ∧ Claims.TableLoad

/-- R174, R177 to R179. The Q forms: an accumulate takes the contributions of its issue from its clusters, QDRN reads a latch
with a bound of 3, and QCLR and QDRN.clr write it with a bound of 1 and discard the updates of earlier accumulates. Says of
each that it completes: qadd, qmax, qmin, qdrn, qclr. -/
def Claims.ReductionForms : Prop :=
  ∀ (s : State) (c : Ctl) (ql cls iv : BitVec 2) (lm cl : Bool) (rd : BitVec 6),
    let mine (k : Contrib) : Bool := k.ql.isNone && k.col == s.cur.col && k.cyc == s.now && k.iss == s.b.iss &&
      (cls == 2 || k.half == cls.toNat)
    let accumulates (i : Instr) (op : Nat) : Prop := ∃ js : List Contrib,
      exec i s = .next (s.modB fun b => { b with contribs := (b.contribs.filter fun k => !mine k) ++ js }).draw ∧
      (∀ j ∈ js, j.ql = some ql.toNat ∧ j.i64 = lm ∧ j.op = op ∧ ∃ k ∈ s.b.contribs, mine k = true ∧ j.acc = k.acc) ∧
      (∀ k ∈ s.b.contribs, mine k = true → ∃ j ∈ js, ∀ x ∈ k.elems, x ∈ j.elems)
    let kill (b : Bank) (k : Contrib) : Contrib := if k.col = s.cur.col ∧ k.ql = some (ql.toNat) ∧ k.iss < b.iss then
      { k with dead := true, ckDead := k.ckDead || !(b.region.isSome && !k.reg) } else k
    let wipe (v : Nat) (t : State) : State :=
      (t.modB fun b => { b with contribs := b.contribs.map (kill b) }).result (.q s.cur.col ql.toNat) v 1 1
    let value : Nat := match iv.toNat, lm with
      | 1, false => 0xFF800000
      | 1, true => 0x8000000000000000
      | 2, false => 0x7F800000
      | 2, true => 0x7FFFFFFFFFFFFFFF
      | _, _ => 0
    (s.Performs (.qadd c ql cls lm) c → accumulates (.qadd c ql cls lm) 0) ∧
    (s.Performs (.qmax c ql cls lm) c → accumulates (.qmax c ql cls lm) 1) ∧
    (s.Performs (.qmin c ql cls lm) c → accumulates (.qmin c ql cls lm) 2) ∧
    (s.Performs (.qdrn c ql rd cl) c → exec (.qdrn c ql rd cl) s =
      .next (let t := s.resS rd.toNat (s.rq s.cur.col ql.toNat) 3; if cl then wipe 0 t else t).draw) ∧
    (s.Performs (.qclr c ql iv lm) c → exec (.qclr c ql iv lm) s = .next (wipe value s).draw)

/-- R176, R177. LATCH_UPDATE: updates come in six cycles after their acceptance, in order. In the .i64 mode the latch takes
the sum modulo 2^64, or the signed extreme, of itself and every element; a discarded update changes nothing. Says of each
that it completes: latchUpdate. -/
def Claims.LatchUpdates : Prop :=
  (∀ (s : State) (bank : Nat), s.b.key = bank → s.b.region = none →
    (s.b.contribs.filter fun k => k.ql.isSome && decide (k.acc + 6 ≤ s.now)) = [] →
    ∃ t : State, exec (.latchUpdate bank) s = .next t ∧ t.b.q = s.b.q ∧ s.SameRest t) ∧
  (∀ (s : State) (bank : Nat) (k : Contrib) (l : Nat), s.b.key = bank → s.b.region = none →
    (s.b.contribs.filter fun k => k.ql.isSome && decide (k.acc + 6 ≤ s.now)) = [k] → k.ql = some l →
    ∃ t : State, exec (.latchUpdate bank) s = .next t ∧ s.SameRest t ∧ k ∉ t.b.contribs ∧
      (∀ j, j ≠ 4 * k.col + l → t.b.q.get 0 j = s.b.q.get 0 j) ∧
      (k.dead = true → t.b.q.get 0 (4 * k.col + l) = s.b.q.get 0 (4 * k.col + l)) ∧
      (∀ v, k.dead = false → foldLatch (s.b.q.get 0 (4 * k.col + l)) k = some v → t.b.q.get 0 (4 * k.col + l) = v)) ∧
  (∀ (q : DWord) (k : Contrib), k.i64 = true → (∀ x ∈ k.elems, isFlt x.1 = false) →
    ∃ v, foldLatch q k = some v ∧
      (k.op = 0 → v = q + .ofInt 64 ((k.elems.map fun x => intVal x.1 x.2).sum)) ∧
      (k.op = 1 → q.toInt ≤ v.toInt ∧ (∀ x ∈ k.elems, fmtWidth x.1 < 64 → intVal x.1 x.2 ≤ v.toInt) ∧ (v = q ∨ ∃ x ∈ k.elems, v = .ofInt 64 (intVal x.1 x.2))) ∧
      (k.op = 2 → v.toInt ≤ q.toInt ∧ (∀ x ∈ k.elems, fmtWidth x.1 < 64 → v.toInt ≤ intVal x.1 x.2) ∧ (v = q ∨ ∃ x ∈ k.elems, v = .ofInt 64 (intVal x.1 x.2))))

/-- The Q forms and the updates of the latches. -/
def Obligations.Reductions : Prop :=
  Claims.ReductionForms ∧ Claims.LatchUpdates

/-- R181, R182, R186. Which tiles a form may name: every one below ACC × 32; for a single tile the destination, and the tile
that TST stores, in the quarter of the syllable's physical column and the sources in quarters that the sequencer owns; for a
quad, multiples of 4 in whole mode, column 0. -/
def Claims.TileLegality : Prop :=
  ∀ (s : State) (i : Instr),
    let d := Instr.destTiles i
    let r := Instr.srcTiles i
    let count := rfld (s.slot.partw.setWidth 64) 13 8 * 32
    let named : List Nat := match i with | .tst _ t .. => [t.toNat] | _ => d
    let firsts : List Nat := match i with
      | .mma _ t .. => [t.toNat] | .mmas _ t .. => [t.toNat] | .tzero _ t _ => [t.toNat] | .tld _ t .. => [t.toNat]
      | .tst _ t .. => [t.toNat] | .tmov _ t _ ta => [t.toNat, ta.toNat]
      | .tadd _ t _ ta src => [t.toNat, ta.toNat] ++ (if src.getLsbD 13 then [] else [src.toNat / 4 % 2048])
      | _ => []
    (Instr.quad i = false → (s.xIllegal i = false ↔ (∀ t ∈ firsts, t < count) ∧ (∀ t ∈ named, t % 4 = s.b.col + s.cur.col) ∧
      ∀ t ∈ r, s.b.col ≤ t % 4 ∧ t % 4 < s.b.col + s.b.cols)) ∧
    (Instr.quad i = true → (s.xIllegal i = false ↔ (∀ t ∈ firsts, t + 3 < count ∧ t % 4 = 0) ∧ s.b.mode = .whole ∧ s.cur.col = 0)) ∧
    (Instr.quad i = false → firsts = d ++ r) ∧
    (Instr.quad i = true → d ++ r = firsts.flatMap fun t => [t, t + 1, t + 2, t + 3])

/-- R186, R187, R190, R198, R199 to R202. An X form that may name its tiles, whose panels and images lie in the share at
multiples of 64, and whose tiles are free in a quarter that holds fewer than eight operations, enters its unit with the
operands read at issue, makes its tiles busy, and steps its address register; TROW reads its register. Says of each that it
completes: mma, tzero, tld, tst, tadd, tmov, trow. -/
def Claims.MatrixForms : Prop :=
  ∀ (s : State) (c : Ctl) (t ta : BitVec 11) (qd z ps sat cl : Bool) (aa ab ar fmt : BitVec 5) (fa fb xs : BitVec 3) (ncm : BitVec 7)
      (src : BitVec 14) (rd : BitVec 6), s.b.region = none → t.toNat + 4 * s.cur.j < 2048 →
    let u : BitVec 11 := .ofNat 11 (t.toNat + 4 * s.cur.j)
    let a (r : BitVec 5) : Nat := s.ra r.toNat
    let n := ncm.toNat + 1
    let width (f : BitVec 3) : Nat := if f = 7 then 16 else f.toNat + 2
    let cols := if qd then 128 else 32
    let image (f : BitVec 5) : Nat := if isBfp f.toNat then cols / 16 * 128 * (2 * bfpWidth f.toNat + 1) else fmtWidth f.toNat / 8 * 128 * cols
    let pa := n * 128 * (2 * width fa + 1)
    let pb := (cols * n + 63) / 64 * 64 + cols * n * 2 * width fb
    let fits (b k : Nat) : Prop := b + k ≤ s.shareSize ∧ b % 64 = 0
    let issues (i j : Instr) (aa ab : Nat) (step : Option (BitVec 5 × Nat)) : Prop :=
      s.Performs i c → s.xIllegal j = false → s.xBusy j = false → ∃ r o, exec i s = .next (State.draw r) ∧
        r.core.xops = s.core.xops ++ [o] ∧ o.ins = j ∧ o.aa = aa ∧ o.ab = ab ∧ o.bank = s.b.key ∧ o.start = none ∧ o.cyc = s.now ∧
        r.slot.busy = s.slot.busy ++ Instr.destTiles j ++ Instr.srcTiles j ∧
        r.b = (match step with | some (x, k) => s.resA x.toNat (s.ra x.toNat + k) | none => s).b ∧
        r.slot.tiles = s.slot.tiles ∧ r.slot.share = s.slot.share ∧ r.mem = s.mem ∧ r.banks = s.banks
    (fits (a aa) pa → fits (a ab) pb → issues (.mma c t qd aa ab fa fb ncm z ps) (.mma c u qd aa ab fa fb ncm z ps) (a aa) (a ab)
      (if ps then some (ab, pb) else none)) ∧
    (issues (.tzero c t qd) (.tzero c u qd) 0 0 none) ∧
    (fits (a ar) (image fmt) → issues (.tld c t qd ar fmt ps) (.tld c u qd ar fmt ps) (a ar) 0 (if ps then some (ar, image fmt) else none)) ∧
    ((∀ k, k < 4 → s.b.poison.contains (.xs k xs.toNat) = false) → s.b.poison.contains (.xs s.cur.col xs.toNat) = false →
      fits (a ar) (image fmt) → issues (.tst c t qd ar fmt xs sat ps) (.tst c u qd ar fmt xs sat ps) (a ar) 0
      (if ps then some (ar, image fmt) else none)) ∧
    (src.getLsbD 13 = false → issues (.tadd c t qd ta src) (.tadd c u qd ta src)
      (a (src.extractLsb' 8 5)) 0 none) ∧
    (src.getLsbD 13 = true → s.b.poison.contains (.a (src.toNat / 256 % 32)) = false → fits (a (src.extractLsb' 8 5)) (4 * 128 * cols) →
      issues (.tadd c t qd ta src) (.tadd c u qd ta src) (a (src.extractLsb' 8 5)) 0
      (if src.getLsbD 7 then some (src.extractLsb' 8 5, 4 * 128 * cols) else none)) ∧
    (issues (.tmov c t qd ta) (.tmov c u qd ta) 0 0 none) ∧
    (s.Performs (.trow c rd cl) c → exec (.trow c rd cl) s =
      .next (let r := s.resS rd.toNat s.b.trow 2; if cl then r.dropStreams else r).draw)

/-- R195. MMAS enters its unit and queue k3 of its column as one packet; its stream begins at row 0 with the parameters read
at issue. Says of each that it completes: mmas. -/
def Claims.StreamStarts : Prop :=
  ∀ (s : State) (c : Ctl) (t : BitVec 11) (qd z : Bool) (sp ab : BitVec 5) (fa fb : BitVec 3) (ncm : BitVec 7),
    s.b.region = none → t.toNat + 4 * s.cur.j < 2048 →
    let u : BitVec 11 := .ofNat 11 (t.toNat + 4 * s.cur.j)
    let i : Instr := .mmas c t qd sp ab fa fb ncm z
    let j : Instr := .mmas c u qd sp ab fa fb ncm z
    let n := ncm.toNat + 1
    let width (f : BitVec 3) : Nat := if f = 7 then 16 else f.toNat + 2
    let cols := if qd then 128 else 32
    let k := 4 * s.cur.col + 3
    s.Performs i c → s.xIllegal j = false → s.xBusy j = false → (s.b.queues.get .empty k).pkts.length < 16 →
    s.ra ab.toNat % 64 = 0 → s.ra ab.toNat + ((cols * n + 63) / 64 * 64 + cols * n * 2 * width fb) ≤ s.shareSize →
    ∃ r : State, exec i s = .next r.draw ∧ ∃ st, r.b.streams.find s.core.xser = some st ∧
      st.row = 0 ∧ st.col = s.cur.col ∧ st.t = u.toNat ∧ st.qd = qd ∧ st.fa = width fa ∧ st.fb = width fb ∧ st.nc = n ∧ st.z = z ∧
      st.va = s.rs (2 * sp.toNat) ∧ st.str = s.rs (2 * sp.toNat + 1) ∧ st.ab = s.ra ab.toNat ∧ st.susp = false ∧
      ((r.b.queues.get .empty k).pkts.map (·.kind)) = ((s.b.queues.get .empty k).pkts.map (·.kind)) ++ [.mmas s.core.xser] ∧
      r.slot.busy = s.slot.busy ++ Instr.destTiles j ∧ r.slot.tiles = s.slot.tiles ∧ s.b.SameSystem r.b

/-- X forms: tile legality, their entry into a unit, and the start of a stream. -/
def Obligations.MatrixForms : Prop :=
  Claims.TileLegality ∧ Claims.MatrixForms ∧ Claims.StreamStarts

/-- R125, R189, R191, R192. X_OP_START: an operation starts when its unit has finished the ones before it, nothing younger is
at work there, and no operation before it or at work locks its banks, and it releases its tiles after the cycles of the
table. Says of each that it completes: xOpStart. -/
def Claims.OperationStarts : Prop :=
  ∀ (s : State) (core op : Nat) (o : XOp),
    let k := s.cores.get .reset core
    k.xops.find? (fun x => x.id == op && x.start.isNone) = some o →
    (∀ x ∈ k.xops, x.id = op ∨ Instr.onArray x.ins ≠ Instr.onArray o.ins ∨ x.quarters.any (fun q => o.quarters.contains q) = false ∨
      match x.start with | none => op < x.id | some t => ∃ n r, Instr.xTime x.ins = some (n, r) ∧ t + n ≤ k.cyc) →
    (Instr.ranges o.ins o.aa o.ab).any
      (fun r => k.lockedBy (fun x => decide (x.id < op) || x.start.isSome) o.slotB r.2.1 r.2.2 r.1) = false →
    (∀ b, s.bank? o.bank = some b → ∀ e ∈ b.streams, e.2.xop = o.id → e.2.susp = false) → o.cyc ≤ k.cyc →
    let cycles : Option Nat := match o.ins with
      | .mma _ _ _ _ _ fa _ ncm _ _ => some ((ncm.toNat + 1) * (match fa.toNat with | 0 => 2 | 1 => 4 | 2 => 4 | 7 => 16 | _ => 8) + 6)
      | .tzero .. => some 4
      | .tld _ _ _ _ fmt _ => some ((if isBfp fmt.toNat then 4 + 8 * bfpWidth fmt.toNat else 8 * fmtWidth fmt.toNat) + 4)
      | .tst _ _ _ _ fmt _ _ _ => some ((if isBfp fmt.toNat then 4 + 8 * bfpWidth fmt.toNat else 8 * fmtWidth fmt.toNat) + 4)
      | .tadd _ _ _ _ src => some (if src.getLsbD 13 then 260 else 132)
      | .tmov .. => some 132
      | _ => none
    ∃ t : State, exec (.xOpStart core op) s = .next t ∧
      (t.cores.get .reset core).xops = k.xops.map (fun x => if x.id = op then
        { x with start := some k.cyc, due := cycles.map (k.cyc + ·), loose := false } else x) ∧
      t.b = s.b ∧ t.banks = s.banks ∧ t.mem = s.mem ∧ ∀ n, n ≠ core → t.cores.get .reset n = s.cores.get .reset n

/-- R93 to R95, R184, R195, R196. MMAS_ROW: the stream's row is read through k3 and performed into that row of its tiles
alone, and the stream goes on with the next row, or after row 127 ends, and its operation releases six cycles later; where
its read faults no tile changes, the stream suspends at that row and TROW says so. Says of each that it completes: mmasRow.
-/
def Claims.StreamRows : Prop :=
  ∀ (s : State) (bank col : Nat) (id : Nat) (st : Stream) (o : XOp), s.b.key = bank → s.b.region = none → st.reg = false →
    s.b.streams.find? (fun e => e.2.col == col) = some (id, st) → st.susp = false → id = st.xop → st.row < 128 →
    let q := s.b.queues.get .empty (4 * col + 3)
    q.susp = false → (q.pkts.takeWhile fun p => match p.kind with | .mmas _ => false | _ => true).all (·.done) = true →
    s.core.xops.find? (fun o => o.id == st.xop) = some o → o.start.isSome = true → o.due = none →
    let w := s.draw
    let va := (st.va.toNat + st.row * st.str.toNat) % 2 ^ 64
    let n := st.nc * (2 * st.fa + 1)
    let cols := if st.qd then 128 else 32
    let old (q k : Nat) : Word := (s.slot.tile (st.t + q)).getD k 0
    (∀ bs bad ls, w.readGlobal .mmas false st.snap (n / 128 + 2) va n = .ok (bs, bad, ls) → w.readWaits (4 * col + 3) ls st.snap = false →
      ∃ t : State, exec (.mmasRow bank col) s = .next t ∧
        (∀ k, k ∉ quadOf st.t st.qd → t.slot.tile k = s.slot.tile k) ∧
        (∀ q r j, q < (if st.qd then 4 else 1) → r < 128 → j < 32 → (t.slot.tile (st.t + q)).getD (32 * r + j) 0 =
          if r ≠ st.row then old q (32 * r + j)
          else (List.range st.nc).foldl (fun acc c =>
            let J := 32 * q + j
            let num (a k : Nat) : Nat := w.opNat o.fix a k
            let row (i k : Nat) : Nat := leNat ((bs.drop i).take k)
            let mant (x m : Nat) : List Nat := (List.range 16).map fun i => x / 2 ^ (m * i) % 2 ^ m
            accStep acc (chunk (row (c * (2 * st.fa + 1)) 1) st.fa (num (st.ab + cols * c + J) 1) st.fb
              (mant (row (c * (2 * st.fa + 1) + 1) (2 * st.fa)) st.fa)
              (mant (num (st.ab + (cols * st.nc + 63) / 64 * 64 + (cols * c + J) * (2 * st.fb)) (2 * st.fb)) st.fb)))
            (if st.z then 0 else old q (32 * r + j))) ∧
        (st.row < 127 → ∃ x, t.b.streams.find id = some x ∧ x.row = st.row + 1 ∧ x.susp = false) ∧
        (st.row = 127 → t.b.streams.find id = none ∧ (∃ x ∈ t.core.xops, x.id = id ∧ x.due = some (s.now + 6)) ∧
          ∀ p ∈ (t.b.queues.get .empty (4 * col + 3)).pkts, p.kind = .mmas id → p.done = true) ∧
        t.b.trow = s.b.trow ∧ s.b.SameRegs t.b ∧ s.SameGlobal t) ∧
    (∀ f a, w.readGlobal .mmas false st.snap (n / 128 + 2) va n = .error (some (f, a)) → col < 4 →
      ∃ t : State, exec (.mmasRow bank col) s = .next t ∧ (∀ k, t.slot.tile k = s.slot.tile k) ∧
        (∃ x, t.b.streams.find id = some x ∧ x.row = st.row ∧ x.susp = true) ∧
        rfld t.b.trow (16 * col + 15) (16 * col + 15) = 1 ∧ rfld t.b.trow (16 * col + 13) (16 * col + 7) = st.row)

/-- When an operation starts and for how long it holds its tiles; the rows of a stream. -/
def Obligations.MatrixProgress : Prop :=
  Claims.OperationStarts ∧ Claims.StreamRows

/-- R92 to R95, R183, R184, R193, R194, R199 to R202. TILE_RELEASE: what an operation has done to its tiles and its image
when it releases them, reading what stood in flight at its issue as that issue fixed it: the product in increasing k with one
rounding a chunk, zeros, the loaded image, the sum, the copy, and the scaled store; the tiles it named are free and every
other tile of the slot is as it was. Says of each that it completes: tileRelease. -/
def Obligations.TileResults : Prop :=
  ∀ (s : State) (core op : Nat) (o : XOp) (d : Nat),
    (s.cores.get .reset core).xops.find? (fun x => x.id == op && (match x.due with | some d => decide (d ≤ (s.cores.get .reset core).cyc) | none => false)) = some o →
    o.due = some d → s.b.key = o.bank → s.b.core = core → s.b.slotB = o.slotB → s.b.region = none → o.reg = false →
    let m := s.slot
    let old (n k : Nat) : Word := (m.tile n).getD k 0
    let w := s.draw
    let num (a n : Nat) : Nat := w.opNat o.fix a n
    ∃ t : State, exec (.tileRelease core op) s = .next t ∧
      let new (n k : Nat) : Word := (t.slot.tile n).getD k 0
      let dst := Instr.destTiles o.ins
      (∀ n ∈ dst ++ Instr.srcTiles o.ins, n ∉ t.slot.busy) ∧
      (∀ n, n ∉ dst → t.slot.tile n = m.tile n) ∧
      (t.mem = s.mem ∧ t.remote = s.remote ∧ s.b.SameRegs t.b ∧ s.b.SameSystem t.b ∧
        ((∀ c t qd ar fmt xs sat ps, o.ins ≠ .tst c t qd ar fmt xs sat ps) → t.slot.share = m.share)) ∧
      (∀ c t qd aa ab fa fb ncm z ps, o.ins = .mma c t qd aa ab fa fb ncm z ps →
        let nc := ncm.toNat + 1
        let ma := if fa = 7 then 16 else fa.toNat + 2
        let mb := if fb = 7 then 16 else fb.toNat + 2
        let cols := if qd then 128 else 32
        ∀ q r j, q < (if qd then 4 else 1) → r < 128 → j < 32 →
          new (t.toNat + q) (32 * r + j) = (List.range nc).foldl (fun acc c =>
            let J := 32 * q + j
            let mant (base m : Nat) : List Nat := (List.range 16).map fun i => num base (2 * m) / 2 ^ (m * i) % 2 ^ m
            accStep acc (chunk (num (o.aa + 128 * c + r) 1) ma (num (o.ab + cols * c + J) 1) mb
              (mant (o.aa + 128 * nc + (128 * c + r) * (2 * ma)) ma)
              (mant (o.ab + (cols * nc + 63) / 64 * 64 + (cols * c + J) * (2 * mb)) mb)))
            (if z then 0 else old (t.toNat + q) (32 * r + j))) ∧
      (∀ c t qd, o.ins = .tzero c t qd → ∀ q k, q < (if qd then 4 else 1) → k < 4096 → new (t.toNat + q) k = 0) ∧
      (∀ c t qd ar fmt ps, o.ins = .tld c t qd ar fmt ps → ∀ q r j, q < (if qd then 4 else 1) → r < 128 → j < 32 →
        let size := fmtWidth fmt.toNat / 8
        let x := num (o.aa + size * (if qd then 128 * r + 32 * q + j else 32 * r + j)) size
        new (t.toNat + q) (32 * r + j) = if fmt = 8 then .ofNat 32 x else .ofNat 32 (deliver 8 0 false (fval fmt.toNat x)).1) ∧
      (∀ c t qd ta src, o.ins = .tadd c t qd ta src → ∀ q r j, q < (if qd then 4 else 1) → r < 128 → j < 32 →
        let x := old (ta.toNat + q) (32 * r + j)
        let y := if src.getLsbD 13 then .ofNat 32 (num (o.aa + 4 * (if qd then 128 * r + 32 * q + j else 32 * r + j)) 4)
          else old (src.toNat / 4 % 2048 + q) (32 * r + j)
        new (t.toNat + q) (32 * r + j) = .ofNat 32 (deliver 8 0 false (addV 0 (fval 8 x.toNat) (fval 8 y.toNat)).1).1) ∧
      (∀ c t qd ta, o.ins = .tmov c t qd ta → ∀ q k, q < (if qd then 4 else 1) → k < 4096 →
        new (t.toNat + q) k = old (ta.toNat + q) k) ∧
      (∀ c n qd ar fmt xs sat ps, o.ins = .tst c n qd ar fmt xs sat ps → isBfp fmt.toNat = false →
        o.xs.length = (if qd then 4 else 1) → fmtWidth fmt.toNat ∈ [8, 16, 32] → ∀ q r j, q < (if qd then 4 else 1) → r < 128 → j < 32 →
        let size := fmtWidth fmt.toNat / 8
        let v := (mulV (fval 8 (old (n.toNat + q) (32 * r + j)).toNat) (fval 8 (o.xs.getD q 0).toNat)).1
        let y := if isFlt fmt.toNat then (deliver fmt.toNat 0 sat v).1 else (toIntFmt fmt.toNat 0 v).1
        ∀ i, i < size → Memory.read t.slot.share (o.aa + size * (if qd then 128 * r + 32 * q + j else 32 * r + j) + i) =
          .ofNat 8 (y / 256 ^ i)) ∧
      (∀ c n qd ar fmt xs sat ps, o.ins = .tst c n qd ar fmt xs sat ps →
        let cols := if qd then 128 else 32
        let size := if isBfp fmt.toNat then cols / 16 * 128 * (2 * bfpWidth fmt.toNat + 1) else fmtWidth fmt.toNat / 8 * 128 * cols
        ∀ a, (a < o.aa ∨ o.aa + size ≤ a) → Memory.read t.slot.share a = Memory.read m.share a)

/-- R206 to R208, R212, R216. A block form whose packet group passes its checks enqueues one packet with the group's scalars
on the queue it names, and does nothing else; outside a region. Says of each that it completes: cpyIn, cpyOut, cpyg, cpyb,
fill, cred. -/
def Claims.BlockCopyForms : Prop :=
  ∀ (s : State) (c : Ctl) (q : BitVec 2) (sp co fmt : BitVec 4) (ce : Bool) (rop cb : BitVec 3), s.b.region = none →
    let k := 4 * s.cur.col + q.toNat
    let g (n : Nat) : DWord := s.rs (4 * sp.toNat + n)
    let len := rfld (g 2) 31 0
    let rows := rfld (g 2) 47 32 + 1
    let stride (hi lo : Nat) : Int := (BitVec.ofNat 32 (rfld (g 3) hi lo)).toInt
    let room := (s.b.queues.get .empty k).pkts.length < 16
    let group := rfld (g 2) 63 48 = 0 ∧ (rows ≠ 1 → s.b.poison.contains (.s (4 * sp.toNat + 3)) = false)
    let global (v : DWord) (hi lo : Nat) : Prop := rfld v 63 56 = 0 ∧ v.toNat % 32 = 0 ∧ (rows ≠ 1 → rfld (g 3) hi lo % 32 = 0)
    let within (base size : Nat) : Prop := (rows ≠ 1 → rfld (g 3) 31 0 % 32 = 0) ∧ (len ≠ 0 → ∀ i, i < rows →
      0 ≤ (base : Int) + i * stride 31 0 ∧ (base : Int) + i * stride 31 0 + len ≤ size)
    let scratch := rfld (g 1) 63 32 = 0 ∧ rfld (g 1) 31 0 % 32 = 0 ∧ within (rfld (g 1) 31 0) s.shareSize
    let buf := s.b.cb (8 * s.cur.col + cb.toNat)
    let enqueues (i : Instr) (kind : PktKind) (b : Nat) : Prop := s.Performs i c → room → group → ∃ p : Pkt,
      exec i s = .next (s.modB fun b => { b with queues := b.queues.upd .empty k fun x => { x with pkts := x.pkts ++ [p] } }).draw ∧
      p.kind = kind ∧ p.p0 = g 0 ∧ p.p1 = g 1 ∧ p.p2 = g 2 ∧ p.p3 = g 3 ∧ p.ce = ce ∧ p.co = co.toNat ∧ p.buf = b ∧
      p.iss = s.b.iss ∧ p.row = 0 ∧ p.pos = 0 ∧ p.started = false ∧ p.done = false
    (global (g 0) 63 32 → scratch → enqueues (.cpyIn c q sp ce co) .cpyIn 0) ∧
    (global (g 0) 63 32 → scratch → enqueues (.cpyOut c q sp ce co) .cpyOut 0) ∧
    (global (g 0) 63 32 → global (g 1) 31 0 → enqueues (.cpyg c q sp ce co) .cpyg 0) ∧
    (global (g 0) 63 32 → g 1 = 0 → buf.en = true → within 0 buf.size → buf.base + buf.nsl * buf.size ≤ s.shareSize →
      enqueues (.cpyb c q sp ce co cb) .cpyb cb.toNat) ∧
    (global (g 0) 63 32 → enqueues (.fill c q sp ce co) .fill 0) ∧
    (global (g 0) 63 32 → scratch → len % (fmtWidth fmt.toNat / 8) = 0 →
      enqueues (.cred c q sp ce co rop fmt) (.cred rop.toNat fmt.toNat) 0)

/-- R217 to R220. GLD, GST, the atomics and CSIG enqueue their packet; GLD and an atomic that returns a value also take a
landing entry, due 128 × (ARR + 1) cycles after issue. Says of each that it completes: gld, gst, aadd, amin, amax, aand, aor,
axor, axch, acas, csigCounter, csigAddress. -/
def Claims.GlobalAccessForms : Prop :=
  ∀ (s : State) (c : Ctl) (q sz ord : BitVec 2) (sp arr co : BitVec 4) (rd ra rb : BitVec 6) (w sg aq : Bool), s.b.region = none →
    let k := 4 * s.cur.col + q.toNat
    let room := (s.b.queues.get .empty k).pkts.length < 16
    let addr (v : DWord) (n : Nat) : Prop := rfld v 63 56 = 0 ∧ v.toNat % n = 0
    let g (n : Nat) : DWord := s.rs (4 * sp.toNat + n)
    let n := 2 ^ sz.toNat
    let an := if w then 8 else 4
    let enqueues (i : Instr) (far : Bool) (ok : Pkt → Prop) : Prop := s.Performs i c → room → ∃ (t : State) (p : Pkt),
      exec i s = .next t.draw ∧ (t.b.queues.get .empty k).pkts = (s.b.queues.get .empty k).pkts ++ [p] ∧
      (∀ j, j ≠ k → t.b.queues.get .empty j = s.b.queues.get .empty j) ∧ p.iss = s.b.iss ∧ p.started = false ∧ p.done = false ∧ ok p ∧
      s.b.SameRegs t.b ∧ s.b.SameSystem t.b ∧ s.SameRest t ∧
      if far then ∃ f, t.b.fars.getLast? = some f ∧ t.b.fars.length = s.b.fars.length + 1 ∧ p.far = some f.id ∧ f.dest = .s rd.toNat ∧
        f.due = s.now + 128 * (arr.toNat + 1) ∧ f.data = none ∧ f.here = false ∧ f.signed = false
      else t.b.fars = s.b.fars ∧ p.far = none
    let atomic (i : Instr) (op : Nat) (signed : Bool) : Prop := addr (g 0) an → enqueues i (rd != 0) fun p =>
      p.kind = .atomic op an signed ∧ p.p0 = g 0 ∧ p.p1 = g 1 ∧ (op = 7 → p.p2 = g 2) ∧ p.acq = ord.getLsbD 0 ∧ p.rel = ord.getLsbD 1
    (addr (s.rs ra.toNat) n → enqueues (.gld c q rd ra sz aq arr) true fun p =>
      p.kind = .gld n ∧ p.p0 = s.rs ra.toNat ∧ p.acq = aq ∧ p.rel = false) ∧
    (addr (s.rs ra.toNat) n → enqueues (.gst c q rb ra sz aq) false fun p =>
      p.kind = .gst n ∧ p.p0 = s.rs ra.toNat ∧ p.p1 = s.rs rb.toNat ∧ p.rel = aq ∧ p.acq = false) ∧
    atomic (.aadd c q sp rd w ord arr) 0 false ∧ atomic (.amin c q sp rd w sg ord arr) 1 sg ∧
    atomic (.amax c q sp rd w sg ord arr) 2 sg ∧ atomic (.aand c q sp rd w ord arr) 3 false ∧
    atomic (.aor c q sp rd w ord arr) 4 false ∧ atomic (.axor c q sp rd w ord arr) 5 false ∧
    atomic (.axch c q sp rd w ord arr) 6 false ∧ atomic (.acas c q sp rd w ord arr) 7 false ∧
    (enqueues (.csigCounter c q co ra) false fun p => p.kind = .csigCounter ∧ p.ce = true ∧ p.co = co.toNat) ∧
    (addr (s.rs ra.toNat) 8 → enqueues (.csigAddress c q ra) false fun p =>
      p.kind = .csigAddress ∧ p.p0 = s.rs ra.toNat ∧ p.rel = true ∧ p.ce = false)

/-- C forms: what each enqueues at issue. -/
def Obligations.CopyForms : Prop :=
  Claims.BlockCopyForms ∧ Claims.GlobalAccessForms

/-- R210, R215, R217, R218. PACKET_START and PACKET_COMPLETE: packets of one queue start in order, each when those before it
have been performed, no acquire or form that holds later accesses back is outstanding, and for a release every earlier access
of the bank is performed; the oldest, once performed, leaves its queue and adds 1 to its counter. That no later packet
overtakes is the model's reading of R215 (assumption log, entry 31). Says of each that it completes: packetStart,
packetComplete. -/
def Claims.PacketsInOrder : Prop :=
  ∀ (s : State) (bank col queue : Nat), s.b.key = bank →
    let k := 4 * col + queue
    let q := s.b.queues.get .empty k
    (∀ pre p post, q.pkts = pre ++ p :: post → (∀ x ∈ pre, x.started = true ∧ x.done = true) → p.started = false → q.susp = false →
      (∀ e ∈ s.b.queues, ∀ x ∈ e.2.pkts, x.acq = true → x.iss < p.iss → x.done = true) →
      (∀ f ∈ s.b.waiting, f.kind.holdsBack = true → p.iss ≤ f.iss) → (∀ e ∈ s.b.ctxRds, e.1 < p.iss → e.2 ≤ s.now) →
      (p.rel = true → s.settledBefore p.iss = true) → p.kind ≠ .cpyb →
      ∃ (t : State) (p' : Pkt), exec (.packetStart bank col queue) s = .next t ∧ (t.b.queues.get .empty k).pkts = pre ++ p' :: post ∧
        p'.started = true ∧ p'.kind = p.kind ∧ p'.p0 = p.p0 ∧ p'.p1 = p.p1 ∧
        (p.done = false → p'.done = (match p.kind with
          | .csigCounter => true
          | .cpyIn | .cpyOut | .cpyg | .fill | .cred _ _ => decide (rfld p.p2 31 0 = 0)
          | _ => false)) ∧ t.mem = s.mem ∧ s.b.SameRegs t.b) ∧
    (∀ pre p post, q.pkts = pre ++ p :: post → (∀ x ∈ pre, x.started = true) → (∃ x ∈ pre, x.done = false) → p.started = false →
      exec (.packetStart bank col queue) s = .next s) ∧
    (∀ p ps, q.pkts = p :: ps → p.done = true → p.kind ≠ .cpyb →
      ∃ t : State, exec (.packetComplete bank col queue) s = .next t ∧ (t.b.queues.get .empty k).pkts = ps ∧
        (∀ n, t.b.cn.get 0 n = if p.ce = true ∧ n = 16 * col + p.co then
          setFld (s.b.cn.get 0 n) 31 0 (rfld (s.b.cn.get 0 n) 31 0 + 1) else s.b.cn.get 0 n) ∧ s.SameRest t) ∧
    (∀ p ps, q.pkts = p :: ps → p.done = false → exec (.packetComplete bank col queue) s = .next s)

/-- R139, R142, R212. A CPYB claims the tail slot of an inbound buffer, or the head slot of an outbound one, when it starts,
and waits where there is none; the oldest inbound slot counts as filled when its packet completes. Says of each that it
completes: packetStart, packetComplete. -/
def Claims.BufferedCopyClaims : Prop :=
  ∀ (s : State) (bank col queue : Nat) (p : Pkt), s.b.key = bank →
    let k := 4 * col + queue
    let i := 8 * col + p.buf
    let r := s.b.cbs.get 0 i
    s.b.queues = [(k, { (s.b.queues.get .empty k) with pkts := [p], susp := false })] → p.kind = .cpyb →
    p.orphan = false → p.rel = false → p.acq = false → s.b.filled = [] → s.b.forms = [] → s.b.wait = none → s.b.ctxRds = [] → queue < 4 → p.buf < 8 →
    0 < p.len → (s.b.cb i).en = true →
    (p.started = false → p.slot = none → (s.b.cb i).out = false →
      (rfld r 24 16 = 0 → exec (.packetStart bank col queue) s = .next s) ∧
      (0 < rfld r 24 16 → ∃ (t : State) (p' : Pkt), exec (.packetStart bank col queue) s = .next t ∧
        (t.b.queues.get .empty k).pkts = [p'] ∧ p'.started = true ∧ p'.slot = some (rfld r 7 0 % (s.b.cb i).nsl) ∧
        p'.side0 = some ((s.b.cb i).base, (s.b.cb i).size, false) ∧
        rfld (t.b.cbs.get 0 i) 24 16 + 1 = rfld r 24 16 ∧ rfld (t.b.cbs.get 0 i) 33 25 = rfld r 33 25)) ∧
    (p.started = false → p.slot = none → (s.b.cb i).out = true →
      (rfld r 33 25 = 0 → exec (.packetStart bank col queue) s = .next s) ∧
      (0 < rfld r 33 25 → ∃ (t : State) (p' : Pkt), exec (.packetStart bank col queue) s = .next t ∧
        (t.b.queues.get .empty k).pkts = [p'] ∧ p'.started = true ∧ p'.slot = some (rfld r 15 8 % (s.b.cb i).nsl) ∧
        p'.side0 = some ((s.b.cb i).base, (s.b.cb i).size, true) ∧ t.b.cbs = s.b.cbs)) ∧
    (p.done = true → p.slot = some (rfld r 7 0) → (s.b.cb i).out = false → rfld r 33 25 < 511 →
      ∃ t : State, exec (.packetComplete bank col queue) s = .next t ∧ (t.b.queues.get .empty k).pkts = [] ∧
        rfld (t.b.cbs.get 0 i) 33 25 = rfld r 33 25 + 1 ∧ rfld (t.b.cbs.get 0 i) 24 16 = rfld r 24 16 ∧
        rfld (t.b.cbs.get 0 i) 7 0 = (rfld r 7 0 + 1) % (s.b.cb i).nsl ∧ rfld (t.b.cbs.get 0 i) 15 8 = rfld r 15 8)

/-- Packets start, claim their buffer and complete in order. -/
def Obligations.CopyQueues : Prop :=
  Claims.PacketsInOrder ∧ Claims.BufferedCopyClaims

/-- R212, R213. PACKET_GRANULE of a copy in: the granule's bytes stand in the scratchpad, every other byte of the share is as
it was, global memory too, and the packet goes on with the next granule of the row, the next row, or is done. Says of each
that it completes: packetGranule. -/
def Claims.CopyInGranule : Prop :=
  ∀ (s : State) (bank col queue : Nat) (pre post : List Pkt) (p : Pkt) (l : Leaf), s.b.key = bank →
    let k := 4 * col + queue
    let q := s.b.queues.get .empty k
    let w := s.draw
    let va := ((BitVec.ofInt 64 (p.p0.toNat + p.row * (BitVec.ofNat 32 (rfld p.p3 63 32)).toInt)).toNat + p.pos) % 2 ^ 64
    let n := min 32 (rfld p.p2 31 0 - p.pos)
    let at_ := ((rfld p.p1 31 0 : Int) + p.row * (BitVec.ofNat 32 (rfld p.p3 31 0)).toInt).toNat + p.pos
    q.pkts = pre ++ p :: post → (∀ x ∈ pre, x.done = true) → p.started = true → p.done = false → q.susp = false → p.underway = false → p.kind = .cpyIn →
    p.reg = false → s.core.locked s.b.slotB at_ n true = false → w.translate (.k (k % 4)) false s.b.ctx va = .ok l →
    s.unlinked l va = false → s.portWaits k l va = false → Tlb.ver l = false → (∀ i, i < n → s.inPool (Leaf.pa l va + i) = false) →
    ∃ (t : State) (p' : Pkt), exec (.packetGranule bank col queue) s = .next t ∧ (t.b.queues.get .empty k).pkts = pre ++ p' :: post ∧
      (∀ i, i < n → Memory.read t.slot.share (at_ + i) = s.gByte (Leaf.pa l va + i)) ∧
      (∀ a, (a < at_ ∨ at_ + n ≤ a) → Memory.read t.slot.share a = Memory.read s.slot.share a) ∧
      s.SameGlobal t ∧ s.b.SameRegs t.b ∧
      (if p.pos + 32 < rfld p.p2 31 0 then p'.row = p.row ∧ p'.pos = p.pos + 32 ∧ p'.done = false
       else if p.row < rfld p.p2 47 32 then p'.row = p.row + 1 ∧ p'.pos = 0 ∧ p'.done = false else p'.done = true)

/-- R212, R213, R228. PACKET_GRANULE of a copy out or a fill: the granule's bytes stand in memory at the leaf's frame, and
every byte outside it is as it was; a fault changes no memory, suspends the queue and sets its fault register. Says of each
that it completes: packetGranule. -/
def Claims.CopyOutGranule : Prop :=
  ∀ (s : State) (bank col queue : Nat) (pre post : List Pkt) (p : Pkt), s.b.key = bank →
    let k := 4 * col + queue
    let q := s.b.queues.get .empty k
    let w := s.draw
    let va := ((BitVec.ofInt 64 (p.p0.toNat + p.row * (BitVec.ofNat 32 (rfld p.p3 63 32)).toInt)).toNat + p.pos) % 2 ^ 64
    let n := min 32 (rfld p.p2 31 0 - p.pos)
    let at_ := ((rfld p.p1 31 0 : Int) + p.row * (BitVec.ofNat 32 (rfld p.p3 31 0)).toInt).toNat + p.pos
    q.pkts = pre ++ p :: post → (∀ x ∈ pre, x.done = true) → p.started = true → p.done = false → q.susp = false → p.underway = false →
    (p.kind = .cpyOut ∨ p.kind = .fill) → p.reg = false → s.b.stores = [] → va % 32 = 0 →
    s.core.locked s.b.slotB at_ n false = false →
    (∀ l, w.translate (.k (k % 4)) true s.b.ctx va = .ok l → s.unlinked l va = false → s.portWaits k l va = false → Tlb.ver l = false →
      ∃ t : State, exec (.packetGranule bank col queue) s = .next t ∧
        let pa := Leaf.pa l va
        (∀ i, i < n → t.gByte (pa + i) = if p.kind = .fill then BitVec.ofNat 8 (p.p1.toNat / 256 ^ ((p.pos + i) % 8))
          else Memory.read s.slot.share (at_ + i)) ∧
        (∀ a, (∀ i, i < n → s.canon a ≠ s.canon (pa + i)) → t.gByte a = s.gByte a) ∧ s.SameShares t ∧ s.b.SameRegs t.b) ∧
    (∀ f, w.translate (.k (k % 4)) true s.b.ctx va = .error f → f.cause ≠ 6 → queue < 4 → va < 2 ^ 56 → f.cause < 16 →
      ∃ t : State, exec (.packetGranule bank col queue) s = .next t ∧ t.mem = s.mem ∧ t.remote = s.remote ∧ t.cores = s.cores ∧
        (t.b.queues.get .empty k).susp = true ∧ (t.b.queues.get .empty k).pkts = q.pkts ∧
        rfld (t.b.kfr.get 0 k) 63 63 = 1 ∧ rfld (t.b.kfr.get 0 k) 62 59 = f.cause ∧ rfld (t.b.kfr.get 0 k) 58 58 = 1 ∧
        rfld (t.b.kfr.get 0 k) 55 0 = va)

/-- R219. ATOMIC_PERFORM: one read-modify-write at the location; the old value goes to the landing entry, and every other
byte of memory is as it was. Says of each that it completes: atomicPerform. -/
def Claims.AtomicsPerform : Prop :=
  ∀ (s : State) (bank col queue op n : Nat) (sg : Bool) (pre post : List Pkt) (p : Pkt) (l : Leaf), s.b.key = bank →
    let k := 4 * col + queue
    let q := s.b.queues.get .empty k
    let w := s.draw
    let va := p.p0.toNat
    let pa := Leaf.pa l va
    let m := 256 ^ n
    let old := s.gNat pa n
    let x := p.p1.toNat % m
    let less (a b : Nat) : Bool := if sg then decide ((BitVec.ofNat (8 * n) a).toInt < (BitVec.ofNat (8 * n) b).toInt) else decide (a < b)
    let new := match op with
      | 0 => (old + x) % m
      | 1 => if less x old then x else old
      | 2 => if less old x then x else old
      | 3 => old &&& x
      | 4 => old ||| x
      | 5 => old ^^^ x
      | 6 => x
      | _ => if old = p.p2.toNat % m then x else old
    q.pkts = pre ++ p :: post → (∀ x ∈ pre, x.done = true) → p.started = true → p.done = false → q.susp = false → p.underway = false →
    p.kind = .atomic op n sg → n = 4 ∨ n = 8 → va % n = 0 → w.translate (.k (k % 4)) true s.b.ctx va true = .ok l →
    s.unlinked l va = false → s.portWaits k l va = false → Tlb.ver l = false → s.gPoison pa = false →
    (∀ i, i < n → s.inPool (pa + i) = false) →
    ∃ t : State, exec (.atomicPerform bank col queue) s = .next t ∧ t.gNat pa n = new ∧
      (∀ a, (∀ i, i < n → s.canon a ≠ s.canon (pa + i)) → t.gByte a = s.gByte a) ∧
      (∀ id, p.far = some id → ∀ f ∈ t.b.fars, f.id = id → f.data = some old) ∧ s.SameShares t ∧ s.b.SameRegs t.b

/-- R217, R218. PACKET_GRANULE of a GLD and a GST: the bytes at the address go to the landing entry and no memory changes;
the bytes of the operand stand at the address and every other byte is as it was. Says of each that it completes:
packetGranule. -/
def Claims.PlainAccessesPerform : Prop :=
  ∀ (s : State) (bank col queue n : Nat) (pre post : List Pkt) (p : Pkt) (l : Leaf), s.b.key = bank →
    let k := 4 * col + queue
    let q := s.b.queues.get .empty k
    let va := p.p0.toNat
    let pa := Leaf.pa l va
    q.pkts = pre ++ p :: post → (∀ x ∈ pre, x.done = true) → p.started = true → p.done = false → q.susp = false → p.underway = false →
    p.reg = false → n ∈ [1, 2, 4, 8] → va % n = 0 → s.unlinked l va = false → s.portWaits k l va = false → Tlb.ver l = false →
    (p.kind = .gld n → (∀ i, i < n → s.inPool (pa + i) = false) → s.draw.translate (.k (k % 4)) false s.b.ctx va = .ok l →
      ∃ t : State, exec (.packetGranule bank col queue) s = .next t ∧ s.SameGlobal t ∧ s.SameShares t ∧ s.b.SameRegs t.b ∧
        (t.b.queues.get .empty k).pkts = pre ++ { p with done := true } :: post ∧
        ∀ id, p.far = some id → ∀ f ∈ t.b.fars, f.id = id → f.data = some (s.gNat pa n) ∧ f.poison = s.gPoison pa) ∧
    (p.kind = .gst n → s.draw.translate (.k (k % 4)) true s.b.ctx va = .ok l →
      ∃ t : State, exec (.packetGranule bank col queue) s = .next t ∧ s.SameShares t ∧ s.b.SameRegs t.b ∧
        (t.b.queues.get .empty k).pkts = pre ++ { p with done := true } :: post ∧
        (∀ i, i < n → t.gByte (pa + i) = .ofNat 8 (p.p1.toNat / 256 ^ i)) ∧
        ∀ a, (∀ i, i < n → s.canon a ≠ s.canon (pa + i)) → t.gByte a = s.gByte a)

/-- R222, R228, R377. Accesses on their way: the core's memory port accepts a GST of a packet under way; each step takes what
was accepted one point further, but for an access behind another packet's to its line; at the last it is performed at its
home (how many steps that takes: assumption log, entry 92); behind another packet's access to the line it waits; and where
its home refuses it, the packet stands before it, to make it again in full. Says of each that it completes: packetGranule. -/
def Claims.PacketsOnTheirWay : Prop :=
  ∀ (s : State) (bank col queue n : Nat) (pre post : List Pkt) (p : Pkt), s.b.key = bank →
    let k := 4 * col + queue
    let q := s.b.queues.get .empty k
    let va := p.p0.toNat
    let behind (w : Posted) : Bool := s.behind k (s.lineOf w.leaf w.va)
    let on (w : Posted) : Posted := if behind w = true then w else { w with point := min (w.point + 1) (s.pointsTo w.leaf w.va) }
    q.pkts = pre ++ p :: post → (∀ x ∈ pre, x.done = true) → p.started = true → p.done = false → q.susp = false → p.underway = true →
    p.kind = .gst n → n ∈ [1, 2, 4, 8] → va % n = 0 → p.reg = false →
    let goes (p' : Pkt) (t : State) : Prop := exec (.packetGranule bank col queue) s = .next t ∧
      (t.b.queues.get .empty k).pkts = pre ++ p' :: post ∧ s.SameShares t ∧ s.b.SameRegs t.b
    (∀ l, p.sent = false → p.posted = [] → s.draw.translate (.k (k % 4)) true s.b.ctx va = .ok l → s.unlinked l va = false →
      s.portWaits k l va = false → ∃ t, s.SameGlobal t ∧
      goes { p with done := false, sent := true, posted := [⟨l, va, toBytes n p.p1.toNat, none, false, false, 1, p.row, p.pos⟩] } t) ∧
    (p.sent = true → p.posted ≠ [] → p.posted.all behind = true → exec (.packetGranule bank col queue) s = .next s.draw) ∧
    (p.sent = true → p.posted.all behind = false → 0 < p.lag → ∃ t, s.SameGlobal t ∧
      goes { p with lag := p.lag - 1, posted := p.posted.map on } t) ∧
    (∀ w, p.sent = true → p.posted = [w] → p.lag = 0 → s.portWaits k w.leaf w.va = false → behind w = false → Tlb.ver w.leaf = false →
      w.cred = none →
      (s.unlinked w.leaf w.va = false → w.bytes.length ≤ 32 → w.va % 32 = 0 → ∃ t, goes { p with posted := [], done := true } t ∧
        (∀ i (h : i < w.bytes.length), t.gByte (Leaf.pa w.leaf w.va + i) = w.bytes[i]) ∧
        ∀ a, (∀ i, i < w.bytes.length → s.canon a ≠ s.canon (Leaf.pa w.leaf w.va + i)) → t.gByte a = s.gByte a) ∧
      (s.unlinked w.leaf w.va = true → ∃ t, s.SameGlobal t ∧ exec (.packetGranule bank col queue) s = .next t ∧
        (t.b.kfr.get 0 k).getLsbD 63 = true ∧ rfld (t.b.kfr.get 0 k) 62 59 = 6))

/-- A granule of a copy or fill, its fault, an atomic, a plain access and its way home, each with its frame. -/
def Obligations.CopyGranules : Prop :=
  Claims.CopyInGranule ∧ Claims.CopyOutGranule ∧ Claims.AtomicsPerform ∧ Claims.PlainAccessesPerform ∧ Claims.PacketsOnTheirWay

/-- R213, R230, R424. Global memory: within one line, a byte reads what was written last, and every location that a write
does not name reads as before; the window of this package's own number names local memory. -/
def Claims.GlobalReadAfterWrite : Prop :=
  ∀ (s : State) (pa : Nat) (bs : List Byte), pa % 128 + bs.length ≤ 128 →
    (∀ i (h : i < bs.length), (s.gPut pa bs).gByte (pa + i) = bs[i]) ∧
    (∀ a, (∀ i, i < bs.length → s.canon a ≠ s.canon (pa + i)) → (s.gPut pa bs).gByte a = s.gByte a) ∧
    (∀ a, a < 2 ^ 43 → s.gByte (2 ^ 51 + rfld s.pkgid 7 0 * 2 ^ 43 + a) = s.gByte a)

/-- R223, R224. A walk of the root's page tables of four levels: an entry that is not valid is NOMAP; a level-3 leaf faults
with FORMAT, ENGINE or PERM, the first that holds, and otherwise gives its frame. -/
def Claims.RootTranslation : Prop :=
  ∀ (s : State) (eng : Eng) (wr : Bool) (va : Nat), va < 2 ^ 56 → (s.ctx 0).s1rOld = none →
    let entry (table lo bits : Nat) : Nat := s.gNat (table + 8 * (va / 2 ^ lo % 2 ^ bits)) 8
    let pointer (e level : Nat) : Prop := e.testBit 63 = true ∧ e / 2 ^ 52 % 2 ^ 11 = 0 ∧ e / 2 ^ 6 % 4 = 0 ∧ e % 64 = 0 ∧
      (level = 2 ∨ e / 2 ^ 8 % 16 = 0)
    let next (e : Nat) : Nat := e / 2 ^ 8 % 2 ^ 44 * 256
    let e0 := entry (rfld (s.ctx 0).s1r 51 20 * 2 ^ 20) 39 17
    let e1 := entry (next e0) 30 9
    let e2 := entry (next e1) 21 9
    let e3 := entry (next e2) 16 5
    let w := s.walk eng wr 0 va
    (e0.testBit 63 = false → w = .error ⟨1, 0⟩) ∧
    (pointer e0 0 → e1.testBit 63 = false → w = .error ⟨1, 0⟩) ∧
    (pointer e0 0 → pointer e1 1 → e2.testBit 63 = false → w = .error ⟨1, 0⟩) ∧
    (pointer e0 0 → pointer e1 1 → pointer e2 2 →
      let leaf := e3.testBit 5 = true ∧ e3.testBit 52 = false ∧ e3 % 32 = 0 ∧ e3 / 2 ^ 6 % 4 = 0
      let engine := e3.testBit (55 + eng.bit) = true
      let perm := if wr then e3.testBit 61 = true else e3.testBit 62 = true
      (e3.testBit 63 = false → w = .error ⟨1, 0⟩) ∧
      (e3.testBit 63 = true → ¬leaf → w = .error ⟨4, 0⟩) ∧
      (e3.testBit 63 = true → leaf → ¬engine → w = .error ⟨3, 0⟩) ∧
      (e3.testBit 63 = true → leaf → engine → ¬perm → w = .error ⟨2, 0⟩) ∧
      (e3.testBit 63 = true → leaf → engine → perm → ∃ l, w = .ok l ∧ Tlb.frame l = e3 / 2 ^ 16 % 2 ^ 36 ∧
        Leaf.pa l va = e3 / 2 ^ 16 % 2 ^ 36 * 65536 + va % 65536 ∧ Tlb.ver l = e3.testBit 54 ∧ Tlb.conf l = e3.testBit 53))

/-- R323, R324. Stage 2 of a context that is not the root: an output page that its stage 2 does not map, or that it maps
without the permission or the engine, is a STAGE2 fault that names the context-physical address; otherwise the permissions
and the engine masks intersect and the frame is stage 2's. -/
def Claims.TwoStageTranslation : Prop :=
  ∀ (s : State) (eng : Eng) (wr : Bool) (ctx va e cp : Nat), ctx ≠ 0 →
    s.walk1 ctx va 4 0 (s.s1root ctx) = .ok (e, cp) → e.testBit (55 + eng.bit) = true →
    (if wr then e.testBit 61 = true else e.testBit 62 = true) →
    let w := s.walk eng wr ctx va
    match (s.ctx ctx).s2.find (cp / 65536) with
    | none => w = .error ⟨7, cp⟩
    | some l2 =>
      if (if wr then l2.wp else l2.rp) = true ∧ l2.em.getLsbD eng.bit = true then
        ∃ l, w = .ok l ∧ Tlb.frame l = (l2.frame * 65536 + cp % 65536) / 65536 ∧ (Tlb.rp l = (e.testBit 62 && l2.rp)) ∧
          (Tlb.wp l = (e.testBit 61 && l2.wp)) ∧ (Tlb.conf l = (e.testBit 53 || l2.conf)) ∧ Tlb.bkt l = l2.bkt ∧
          ∀ n, n < 6 → (Tlb.em l).getLsbD n = (e.testBit (55 + n) && l2.em.getLsbD n)
      else w = .error ⟨7, cp⟩

/-- Global memory reads what was written last; both stages of translation. -/
def Obligations.MemoryAndTranslation : Prop :=
  Claims.GlobalReadAfterWrite ∧ Claims.RootTranslation ∧ Claims.TwoStageTranslation

/-- R236, R243, R244, R247, R249, R250. GMSET writes its mask with a bound of 1; TKSET and TKADV send their update to the
cell that the bank's base and the CELL name; TKWAIT, the token forms and FENCE read their operands at issue and block. A CELL
beyond the claim is illegal, and a token form takes the synchronisation trap where its queue is not held or off. Says of each
that it completes: gmset, tkwait, tkadv, tkset, tqput, tqget, tqrel, fence. -/
def Claims.SyncForms : Prop :=
  ∀ (s : State) (c : Ctl) (gn die cls : BitVec 4) (ra : BitVec 6) (cell : BitVec 8) (inc : BitVec 12) (tq : BitVec 5),
    let own := cell.toNat < ((s.b.kern.map (·.tickets)).getD 0)
    let k := 256 * s.b.die + s.b.tkBase + cell.toNat
    let n := 32 * die.toNat + tq.toNat
    let held := s.qOwner.get 0 n = s.b.ctx
    let on := (s.tokqs.get ⟨false, 0, [], 0⟩ n).en = true
    let blocks (i : Instr) (kind : FormKind) (rd : Nat) (ops : List DWord) : Prop := exec i s =
      .next (s.modB fun b => { b with forms := b.forms ++ [⟨kind, s.cur.col, s.cur.slot, rd, ops, s.fresh, b.iss, s.now, 0⟩] }).draw
    let token (i : Instr) (kind : FormKind) (rd : Nat) (ops : List DWord) : Prop :=
      (s.Performs i c → held → on → blocks i kind rd ops) ∧
      (s.Performs i c → s.cur.phase = .alone → s.b.region = none → ¬held →
        exec i s = .next (s.takeTrap (s.cause 8 1)).draw) ∧
      (s.Performs i c → s.cur.phase = .alone → s.b.region = none → held → ¬on →
        exec i s = .next (s.takeTrap (s.cause 8 2)).draw)
    let ticket (i : Instr) (good : Prop) : Prop := (s.Performs i c → own → good) ∧
      (s.Performs i c → s.cur.phase = .alone → s.b.region = none → ¬own → exec i s = .next (s.takeTrap s.illegal).draw)
    (s.Performs (.gmset c gn ra) c → exec (.gmset c gn ra) s =
      .next (s.result (.gm gn.toNat) (s.rs ra.toNat).toNat 1 1).draw) ∧
    ticket (.tkset c cell ra) (exec (.tkset c cell ra) s =
      .next (State.draw { s with tickQ := s.tickQ ++ [⟨s.b.key, k, true, (s.rs ra.toNat).setWidth 32, s.b.iss⟩] })) ∧
    ticket (.tkadv c cell inc) (exec (.tkadv c cell inc) s =
      .next (State.draw { s with tickQ := s.tickQ ++ [⟨s.b.key, k, false, inc.setWidth 32, s.b.iss⟩] })) ∧
    ticket (.tkwait c cell ra) (blocks (.tkwait c cell ra) (.tkwait k) 0 [s.rs ra.toNat &&& 0xFFFFFFFF]) ∧
    token (.tqput c die tq ra) (.tqput n) 0 [s.rs ra.toNat] ∧ token (.tqget c die tq ra) (.tqget n) ra.toNat [] ∧
    token (.tqrel c die tq) (.tqrel n) 0 [] ∧
    (s.Performs (.fence c cls) c → blocks (.fence c cls) (.fence cls.toNat) 0 [])

/-- R255, R257, R261, R265, R269, R270. POST and LAUNCH read their group at issue, and with its checks passed wait for their
queue: POST with the home die of its hash address. The first check that fails, in the order of the causes, is a work trap,
and nothing waits. TEND waits for the end of the bank's work. Says of each that it completes: post, launch, tend. -/
def Claims.WorkForms : Prop :=
  ∀ (s : State) (c : Ctl) (sp : BitVec 4) (pri : BitVec 3),
    let g (n : Nat) : DWord := s.rs (4 * sp.toNat + n)
    let blocks (i : Instr) (kind : FormKind) (ops : List DWord) : Prop := exec i s =
      .next (s.modB fun b => { b with forms := b.forms ++ [⟨kind, s.cur.col, s.cur.slot, 0, ops, s.fresh, b.iss, s.now, 0⟩] }).draw
    let traps (i : Instr) (sub edt : Nat) : Prop := s.cur.phase = .alone → s.b.region = none →
      exec i s = .next (s.takeTrap (s.cause 9 sub 0 edt)).draw
    let alloc := s.b.pri < pri.toNat
    let img (h : Nat) : Bool := (s.image s.b.ctx h true).isSome
    let graph (h : Nat) : Bool := (s.graphs.find (65536 * s.b.ctx + h)).isSome
    let h := rfld (g 1) 47 32
    let j := rfld (g 0) 47 32
    let pfld := rfld (g 0) 63 56 = 0 ∧ rfld (g 1) 63 48 = 0 ∧ rfld (g 1) 31 0 = 0
    let lfld := rfld (g 0) 63 48 = 0 ∧ rfld (g 0) 31 0 = 0 ∧ rfld (g 1) 63 56 = 0 ∧ (g 1).toNat % 8 = 0
    let at_ := s.translate (.k 0) false s.b.ctx (g 0).toNat
    (s.Performs (.post c sp pri) c →
      (img h = false → traps (.post c sp pri) 1 1) ∧
      (img h = true → alloc → traps (.post c sp pri) 2 2) ∧
      (img h = true → ¬alloc → ¬pfld → traps (.post c sp pri) 3 3) ∧
      (img h = true → ¬alloc → pfld → ∀ f, at_ = .error f → f.cause = 2 ∨ f.cause = 3 → traps (.post c sp pri) 5 5) ∧
      (img h = true → ¬alloc → pfld → ∀ f, at_ = .error f → f.cause ≠ 2 → f.cause ≠ 3 →
        traps (.post c sp pri) 4 (4 + f.cause * 2 ^ 59)) ∧
      (img h = true → ¬alloc → pfld → ∀ l, at_ = .ok l →
        let pa := s.canon (Leaf.pa l (g 0).toNat)
        (pa.testBit 51 = true → traps (.post c sp pri) 6 6) ∧
        (pa.testBit 51 = false → blocks (.post c sp pri) (.post pri.toNat)
          [g 0, g 1, g 2, g 3, .ofNat 64 (if pa < 2 ^ 39 then pa / 2 ^ 36 else s.b.key / 128)]))) ∧
    (s.Performs (.launch c sp pri) c →
      (img j = false → graph j = false → traps (.launch c sp pri) 1 1) ∧
      (img j = true ∨ graph j = true → alloc → traps (.launch c sp pri) 2 2) ∧
      (img j = true ∨ graph j = true → ¬alloc → ¬lfld → traps (.launch c sp pri) 3 3) ∧
      (img j = true ∨ graph j = true → ¬alloc → lfld → blocks (.launch c sp pri) (.launch pri.toNat) [g 0, g 1, g 2, g 3])) ∧
    (s.Performs (.tend c) c → blocks (.tend c) .tend [])

/-- R69, R221, R222, R377. CWAIT and DRAIN read their operands at issue and block; CWAIT retires when its counter has reached
the target, and with SB takes it off; DRAIN when every access issued before it has been performed at its scope: at .col and
.core once the core's memory port has accepted it, at .die and .pkg once it has left the die's or the package's egress, and
at .sys at its home. Says of each that it completes: cwaitReg, cwaitImm, cwaitRetire, drain, drainRetire. -/
def Claims.WaitForms : Prop :=
  ∀ (s : State) (c : Ctl) (co : BitVec 4) (sb : Bool) (ra : BitVec 6) (imm : BitVec 10) (sc : BitVec 3) (bank : Nat) (f : Form) (t : DWord),
    let blocks (i : Instr) (kind : FormKind) (ops : List DWord) : Prop := s.Performs i c → ∃ f : Form,
      exec i s = .next (s.modB fun b => { b with forms := b.forms ++ [f] }).draw ∧ f.kind = kind ∧ f.ops = ops ∧ f.iss = s.b.iss ∧
      f.col = s.cur.col
    let cn := s.b.cn.get 0 (16 * f.col + co.toNat)
    let past (p : Pkt) : Prop := p.done = true ∨ (p.sent = true ∧ ∀ w ∈ p.posted, (sc.toNat ≤ 1 ∧ 1 ≤ w.point) ∨
      (2 ≤ sc.toNat ∧ sc.toNat ≤ 3 ∧ sc.toNat ≤ w.point ∧ sc.toNat ≤ s.pointsTo w.leaf w.va))
    blocks (.cwaitReg c co sb ra) (.cwait co.toNat sb) [(s.rs ra.toNat) &&& 0xFFFFFFFF] ∧
    blocks (.cwaitImm c co sb imm) (.cwait co.toNat sb) [imm.setWidth 64] ∧
    blocks (.drain c sc) (.drain sc.toNat) [] ∧
    (s.b.key = bank → f.kind = .cwait co.toNat sb → f.ops = [t] → s.b.forms = [f] →
      ((cn.setWidth 32 - t.setWidth 32 : BitVec 32).toNat < 2 ^ 31 → exec (.cwaitRetire bank) s = .next (s.modB fun b => { b with
        forms := [], cn := if sb then b.cn.set 0 (16 * f.col + co.toNat)
          (setFld cn 31 0 (cn.setWidth 32 - t.setWidth 32 : BitVec 32).toNat) else b.cn })) ∧
      (2 ^ 31 ≤ (cn.setWidth 32 - t.setWidth 32 : BitVec 32).toNat → exec (.cwaitRetire bank) s = .next s)) ∧
    (s.b.key = bank → f.kind = .drain sc.toNat → s.b.forms = [f] →
      ((∀ st ∈ s.b.stores, f.iss ≤ st.iss) → (∀ e ∈ s.b.queues, ∀ p ∈ e.2.pkts, f.iss ≤ p.iss ∨ past p) →
        (∀ x ∈ s.b.fars, f.iss ≤ x.iss ∨ x.data.isSome = true ∨ x.core = none) → (∀ o ∈ s.core.xops, o.bank ≠ s.b.key ∨ f.iss ≤ o.iss) →
        exec (.drainRetire bank) s = .next (s.modB fun b => { b with forms := [] })) ∧
      ((∃ e ∈ s.b.queues, ∃ p ∈ e.2.pkts, p.iss < f.iss ∧ ¬past p) → exec (.drainRetire bank) s = .next s))

/-- The forms of synchronisation and work, and the waits for counters. -/
def Obligations.BlockingForms : Prop :=
  Claims.SyncForms ∧ Claims.WorkForms ∧ Claims.WaitForms

/-- R237, R239, R240. BARRIER_ARRIVAL counts the bank's arrival on its line once every store it issued before has landed, and
not before; BARRIER_COMPLETE lets it go on when every participant's count has reached its own, and not before. Nothing else
changes. Says of each that it completes: barrierArrival, barrierComplete. -/
def Claims.BarrierMoves : Prop :=
  ∀ (s : State) (bank line : Nat) (mask : DWord) (g : BitVec 32), s.b.key = bank →
    let stored := (∀ st ∈ s.b.stores, s.b.iss ≤ st.iss) ∧ ∀ o ∈ s.core.xops, o.bank = bank → o.iss < s.b.iss →
      ∀ c t qd ar fmt xs sat ps, o.ins ≠ .tst c t qd ar fmt xs sat ps
    let reached (x : Bank) : Prop := (x.bcn.get 0 line - g).toNat < 2 ^ 31
    let joins (x : Bank) : Prop := x ∈ s.bound ∧ x.key ≠ bank ∧ x.key / 128 = bank / 128 ∧ x.lnch = s.b.lnch ∧
      mask.getLsbD (x.key / 2 % 64) = true
    (s.b.barr = some ⟨line, mask, none⟩ → stored → ∃ t : State, exec (.barrierArrival bank) s = .next t ∧
      t.b.bcn.get 0 line = s.b.bcn.get 0 line + 1 ∧ (∀ n, n ≠ line → t.b.bcn.get 0 n = s.b.bcn.get 0 n) ∧
      t.b.barr = some ⟨line, mask, some (s.b.bcn.get 0 line + 1)⟩ ∧ s.b.SameRegs t.b ∧ s.b.SameSystem t.b ∧ s.SameRest t) ∧
    (s.b.barr = some ⟨line, mask, none⟩ → ¬stored → exec (.barrierArrival bank) s = .next s) ∧
    (s.b.barr = some ⟨line, mask, some g⟩ → reached s.b → (∀ x, joins x → reached x) →
      exec (.barrierComplete bank) s = .next (s.modB fun b => { b with barr := none })) ∧
    (s.b.barr = some ⟨line, mask, some g⟩ → (∃ x, joins x ∧ ¬reached x) → exec (.barrierComplete bank) s = .next s)

/-- R244, R245, R377. TICKET_UPDATE_PERFORM: the oldest update is performed, once every access that its bank issued before it
has been at .die and no earlier acquire, FENCE or other form holds it back, and only its cell changes; an update that is not
ready leaves everything. TKWAIT_RETIRE: the wait ends when its cell has reached the ticket, and not before. Says of each that
it completes: ticketUpdatePerform, tkwaitRetire. -/
def Claims.TicketMoves : Prop :=
  ∀ (s : State) (bank cell : Nat) (u : Tick) (us : List Tick) (f : Form) (t : DWord), s.b.key = bank →
    let v := s.cells.get 0 u.cell
    (s.tickQ = u :: us → u.bank = bank → s.settledAt 2 u.iss = true → s.b.heldBack s.now u.iss = false →
      ∃ r : State, exec .ticketUpdatePerform s = .next r ∧
      r.tickQ = us ∧ r.cells.get 0 u.cell = (if u.set then u.val else v + u.val) ∧
      (∀ n, n ≠ u.cell → r.cells.get 0 n = s.cells.get 0 n) ∧ r.b = s.b ∧ r.banks = s.banks ∧ r.mem = s.mem) ∧
    (s.tickQ = [u] → u.bank = bank → s.b.bound = true → s.settledAt 2 u.iss = false ∨ s.b.heldBack s.now u.iss = true →
      exec .ticketUpdatePerform s = .next s) ∧
    (s.b.forms = [f] → f.kind = .tkwait cell → f.ops = [t] →
      exec (.tkwaitRetire bank) s = .next (if (s.cells.get 0 cell - t.setWidth 32).toNat < 2 ^ 31 then
        s.modB fun b => { b with forms := [] } else s))

/-- R250. FENCE_RETIRE: the FENCE ends when what its classes name and the bank issued before it has finished, and not before.
Says of each that it completes: fenceRetire. -/
def Claims.FenceRetires : Prop :=
  ∀ (s : State) (bank cls : Nat) (f : Form), s.b.key = bank → s.b.forms = [f] → f.kind = .fence cls →
    let st := ∀ x ∈ s.b.stores, f.iss ≤ x.iss
    let x := ∀ o ∈ s.core.xops, o.bank = bank → f.iss ≤ o.iss ∨ ∃ e ∈ s.b.streams, e.2.xop = o.id ∧ e.2.susp = true
    let far := ∀ y ∈ s.b.fars, f.iss ≤ y.iss
    let res := (∀ p ∈ s.b.pend, f.iss ≤ p.iss) ∧ ∀ k ∈ s.b.contribs, f.iss ≤ k.iss ∨ k.ql = none
    ((cls.testBit 0 = true → st) ∧ (cls.testBit 1 = true → x) ∧ (cls.testBit 2 = true → far) ∧ (cls.testBit 3 = true → res) →
      exec (.fenceRetire bank) s = .next (s.modB fun b => { b with forms := [] })) ∧
    ((cls.testBit 0 = true ∧ ¬st) ∨ (cls.testBit 1 = true ∧ ¬x) ∨ (cls.testBit 2 = true ∧ ¬far) ∨ (cls.testBit 3 = true ∧ ¬res) →
      exec (.fenceRetire bank) s = .next s)

/-- Barrier arrival and completion, ticket updates and waits, FENCE. -/
def Obligations.BarriersTicketsAndFences : Prop :=
  Claims.BarrierMoves ∧ Claims.TicketMoves ∧ Claims.FenceRetires

/-- R246, R247, R248. The token moves: of several waiters of one kind on a queue the one that began to wait first is served
first, once no earlier acquire of its bank holds it back. A TQPUT whose turn it is takes a permit and appends its token, a
TQGET takes the oldest token to its register, a TQREL gives the permit back or, with none out, traps; each waits otherwise.
Says of each that it completes: tqputComplete, tqgetComplete, tqrelComplete. -/
def Claims.TokenMoves : Prop :=
  ∀ (s : State) (bank n : Nat) (f : Form) (v : DWord), s.b.key = bank → s.b.forms = [f] → s.b.wait = none → f.phase < 8 →
    let q := s.tokqs.get ⟨false, 0, [], 0⟩ n
    let after (x : TokQ) : State := { s.modB fun b => { b with forms := [] } with tokqs := s.tokqs.put n x }
    let waiter (g : Form) : Prop := g.kind = f.kind ∧ g.phase < 8 ∧ ∃ x : Bank, (x.bound = true ∧ (∃ e ∈ s.banks, e.2 = x) ∨ ∃ e ∈ s.saved, e.1 = x) ∧
      (g ∈ x.forms ∨ ∃ w, x.wait = some w ∧ g ∈ w.forms)
    let turn := (∀ g, waiter g → f.since ≤ g.since) ∧ s.b.heldBack s.now f.iss = false
    (f.kind = .tqput n → f.ops = [v] → q.en = true → q.toks.length + q.out < q.depth + 1 → s.settledAt 3 f.iss = true → turn →
      exec (.tqputComplete bank) s = .next (after { q with toks := q.toks ++ [v] })) ∧
    (f.kind = .tqput n → q.en = true → q.depth + 1 ≤ q.toks.length + q.out ∨ s.settledAt 3 f.iss = false ∨ ¬turn →
      exec (.tqputComplete bank) s = .next s) ∧
    (f.kind = .tqget n → q.en = true → q.toks = [] ∨ ¬turn → exec (.tqgetComplete bank) s = .next s) ∧
    (∀ vs, f.kind = .tqget n → q.en = true → q.toks = v :: vs → turn → exec (.tqgetComplete bank) s = .next
      ((after { q with toks := vs, out := q.out + 1 }).resS f.rd v 1)) ∧
    (f.kind = .tqrel n → q.en = true → s.settledAt 3 f.iss = false ∨ s.b.heldBack s.now f.iss = true → exec (.tqrelComplete bank) s = .next s) ∧
    (f.kind = .tqrel n → q.en = true → s.settledAt 3 f.iss = true → s.b.heldBack s.now f.iss = false → 0 < q.out →
      exec (.tqrelComplete bank) s = .next (after { q with out := q.out - 1 })) ∧
    (f.kind = .tqrel n → q.en = true → s.settledAt 3 f.iss = true → s.b.heldBack s.now f.iss = false → q.out = 0 → s.b.wx = 0 →
      exec (.tqrelComplete bank) s = .next ((s.modB fun b => { b with forms := [], barr := none, waitSyl := [], rep := 0, open_ := false }).takeTrap
        ⟨8, 3, f.slot, f.col, 0, 3, false, .before, false, none⟩))

/-- R246. TQC_WRITE: DEPTH is taken while the queue is off; switching it off discards its tokens and traps the bank that
waits on it in a TQPUT, a TQGET or a TQREL; the register reads back EN, DEPTH, TOKENS and OUT. Says of each that it
completes: tqcWrite. -/
def Claims.TokenQueueRegister : Prop :=
  ∀ (s : State) (n : Nat) (v : DWord), n < 320 → s.b.pend = [] → (∀ x ∈ s.banks, x.2.bound = true → x.2.pend = [] ∧ x.2.forms = []) →
    s.b.wait = none → (∀ x ∈ s.banks, x.2.wait = none) → s.saved = [] →
    let q := s.tokqs.get ⟨false, 0, [], 0⟩ n
    let put (x : TokQ) : State := { s with tokqs := s.tokqs.put n x }
    (q.en = false → exec (.tqcWrite (0x600 + n) v) s =
      .next (put { q with en := v.getLsbD 63, depth := (v.extractLsb' 55 8).toNat })) ∧
    (q.en = true → v.getLsbD 63 = true → exec (.tqcWrite (0x600 + n) v) s = .next s) ∧
    (q.en = true → v.getLsbD 63 = false → s.b.forms = [] → exec (.tqcWrite (0x600 + n) v) s = .next (put ⟨false, q.depth, [], 0⟩)) ∧
    (∀ f, q.en = true → v.getLsbD 63 = false → s.b.bound = true → s.b.forms = [f] →
      f.kind = .tqget n ∨ f.kind = .tqput n ∨ f.kind = .tqrel n → s.b.wx = 0 →
      exec (.tqcWrite (0x600 + n) v) s =
        .next (((put ⟨false, q.depth, [], 0⟩).modB fun b => { b with forms := [], barr := none, waitSyl := [], rep := 0, open_ := false }).takeTrap
          ⟨8, 2, f.slot, f.col, 0, 2, false, .before, false, none⟩)) ∧
    (q.depth < 256 → q.toks.length < 512 → q.out < 512 → let r := s.readTqc n
      rfld r 63 63 = q.en.toNat ∧ rfld r 62 55 = q.depth ∧ rfld r 54 46 = q.toks.length ∧ rfld r 45 37 = q.out ∧ rfld r 36 0 = 0)

/-- Token queues: permits, tokens, and the register of a queue. -/
def Obligations.TokenQueues : Prop :=
  Claims.TokenMoves ∧ Claims.TokenQueueRegister

/-- R255, R261, R262, R278. POST_ENQUEUE and LAUNCH_ENQUEUE: the record enters the end of the task queue of its home die, of
512 records, and the launch the end of its launch queue, of 64, each once, and the form ends; with the queue full the bank
goes on waiting and the queues keep what they hold, and a launch that waits enters before none that began to wait earlier at
its priority or a higher one. Says of each that it completes: postEnqueue, launchEnqueue. -/
def Claims.WorkQueues : Prop :=
  ∀ (s : State) (bank pri : Nat) (f : Form) (p0 p1 p2 p3 d : DWord), s.b.key = bank → s.b.forms = [f] →
    let k := 8 * d.toNat + pri
    let q := s.taskqs.get [] k
    let l := s.launchqs.get [] pri
    (f.kind = .post pri → f.ops = [p0, p1, p2, p3, d] →
      (q.length < 512 → ∃ (t : State) (r : Task), exec (.postEnqueue bank) s = .next t ∧ t.b = { s.b with forms := [] } ∧
        t.taskqs.get [] k = q ++ [r] ∧ (∀ n, n ≠ k → t.taskqs.get [] n = s.taskqs.get [] n) ∧ r.ctx = s.b.ctx ∧
        r.hnd = rfld p1 47 32 ∧ r.pri = pri ∧ r.args = [p0, p2, p3] ∧ t.launchqs = s.launchqs ∧ t.mem = s.mem) ∧
      (512 ≤ q.length → exec (.postEnqueue bank) s = .next s.draw)) ∧
    (f.kind = .launch pri → f.ops = [p0, p1, p2, p3] → s.b.bound = true → s.b.wait = none →
      (∀ x ∈ s.banks, x.2.bound = true → x.2.waiting = []) → (∀ x ∈ s.saved, x.1.waiting = []) →
      (∀ u ∈ s.uqs, u.2.since = none) →
      (l.length < 64 → ∃ (t : State) (r : Launch), exec (.launchEnqueue bank) s = .next t ∧ t.b = { s.b with forms := [] } ∧
        t.launchqs.get [] pri = l ++ [r] ∧ (∀ n, n ≠ pri → t.launchqs.get [] n = s.launchqs.get [] n) ∧ r.ctx = s.b.ctx ∧
        r.hnd = rfld p0 47 32 ∧ r.pri = pri ∧ r.args = [0, p2, p3] ∧ r.compl = .ofNat 56 p1.toNat ∧ r.bound = false ∧
        t.taskqs = s.taskqs ∧ t.mem = s.mem) ∧
      (64 ≤ l.length → ∃ t : State, exec (.launchEnqueue bank) s = .next t ∧ t.launchqs = s.launchqs ∧ t.taskqs = s.taskqs ∧
        t.b.forms.map (·.kind) = [.launch pri] ∧ t.b.forms.map (·.ops) = [f.ops] ∧ t.mem = s.mem)) ∧
    (f.kind = .launch pri → f.ops = [p0, p1, p2, p3] → l.length < 64 → f.phase = 1 → (∃ x ∈ s.waiters, pri ≤ x.1 ∧ x.2 < f.since) →
      exec (.launchEnqueue bank) s = .next s.draw)

/-- R262, R263. TASK_DISPATCH: the head record of a task queue is run as a launch of one sequencer on its die, under the
poster's context, with the hash address in s1 and P2 and P3 in s2 and s3; a record whose handle is gone leaves its queue.
Says of each that it completes: taskDispatch. -/
def Claims.TaskRuns : Prop :=
  ∀ (s : State) (die pri : Nat) (p : Place) (r : Task) (rs : List Task), s.taskqs.get [] (8 * die + pri) = r :: rs → pri < 8 →
    (s.image r.ctx r.hnd false = none → ∃ t : State, exec (.taskDispatch die pri p) s = .next t ∧
      t.taskqs.get [] (8 * die + pri) = rs ∧ t.b = s.b ∧ t.banks = s.banks ∧ t.live = s.live ∧ t.mem = s.mem) ∧
    (∀ k, s.image r.ctx r.hnd false = some k → s.bindChecks r.ctx k = true → s.placesOk r.ctx k 1 1 [p] = true → p.core / 16 = die → p.col < 4 →
      (∀ n, n ≠ pri → n < 8 → s.taskqs.get [] (8 * die + n) = []) → (∀ n, s.launchqs.get [] n = []) →
      ∃ t : State, exec (.taskDispatch die pri p) s = .next t ∧ t.taskqs.get [] (8 * die + pri) = rs ∧ t.mem = s.mem ∧
        ∃ b, t.bank? (8 * p.core + 2 * p.col + p.slotB.toNat) = some b ∧ b.bound = true ∧ b.ctx = r.ctx ∧ b.pri = r.pri ∧
          b.kern = some k ∧ b.pc = k.entry ∧ (∀ n, b.sr.get 0 n = if n = 0 then 0 else r.args.getD (n - 1) 0) ∧
          (∀ n, b.ar.get 0 n = 0) ∧ b.cNum = 1 ∧ b.cIdx = 0 ∧ ∃ x ∈ t.live, x.id = b.lnch ∧ x.banks = [b.uid] ∧ x.compl = 0)

/-- R266, R277. LAUNCH_COMPLETE: with no bank of the launch left it leaves the live launches and, with a completion address
given, 1 is added to the 64-bit word there; a graph's launch goes on with its next image instead. Other launches stay. Says
of each that it completes: launchComplete. -/
def Claims.LaunchCompletes : Prop :=
  ∀ (s : State) (l : Launch) (ls : List Launch), s.live = l :: ls → l.banks = [] → (∀ x ∈ ls, x.id ≠ l.id) →
    let va := l.compl.toNat
    let w := s.draw
    let d := ({ w with live := ls } : State).asFirm l.ctx
    (l.graph = none → l.compl = 0 → exec .launchComplete s = .next { s.draw with live := ls }) ∧
    (∀ f, l.graph = none → l.compl ≠ 0 → va % 8 = 0 → d.translate (.k 0) true l.ctx va true = .ok f →
      s.unlinked f va = false → d.portWaits okraQ f va = false → Tlb.ver f = false → s.gPoison (Leaf.pa f va) = false →
      (∀ i, i < 8 → s.inPool (Leaf.pa f va + i) = false) → ∃ t : State, exec .launchComplete s = .next t ∧ t.live = ls ∧
        t.gNat (Leaf.pa f va) 8 = (s.gNat (Leaf.pa f va) 8 + 1) % 2 ^ 64 ∧ t.b = s.b ∧ t.banks = s.banks ∧
        (∀ a, (∀ i, i < 8 → s.canon a ≠ s.canon (Leaf.pa f va + i)) → t.gByte a = s.gByte a) ∧ s.SameShares t) ∧
    (∀ f, l.graph = none → l.compl ≠ 0 → va % 8 = 0 → d.translate (.k 0) true l.ctx va true = .ok f → s.unlinked f va = false →
      d.portWaits okraQ f va = true → exec .launchComplete s = .next s.draw) ∧
    (∀ g h n rest, l.graph = some (g, h :: n :: rest) → ∃ (t : State) (x : Launch), exec .launchComplete s = .next t ∧ t.live = ls ∧
      t.launchqs.get [] l.pri = x :: s.launchqs.get [] l.pri ∧ x.graph = some (g, n :: rest) ∧ x.ctx = l.ctx ∧ x.args = l.args ∧
      x.compl = l.compl ∧ t.mem = s.mem)

/-- Task and launch queues, dispatch, and the completion of a launch. -/
def Obligations.QueuedWork : Prop :=
  Claims.WorkQueues ∧ Claims.TaskRuns ∧ Claims.LaunchCompletes

/-- R258, R320, R312, R425. What a choice of Okra must obey: p sequencers on each of q compute dies, distinct, one bank slot
to a core, in columns of the kernel's mode and constraint, on cores that a running context holds and has not granted
exclusively, where the slot is free and the partition fits beside the other. -/
def Claims.PlacesObeyTheRules : Prop :=
  ∀ (s : State) (ctx : Nat) (k : Kern) (p q : Nat) (ps : List Place), s.placesOk ctx k p q ps = true →
    (∀ a ∈ ps, a.col < 4) →
    ps.length = p * q ∧ (ps.map fun x => (x.core, x.col, x.slotB)).Nodup ∧
    (∀ a ∈ ps, ∀ b ∈ ps, a.core = b.core → a.slotB = b.slotB) ∧
    (∀ a ∈ ps, (ps.filter fun b => b.core / 16 == a.core / 16).length = p) ∧
    (ps.map fun a => a.core / 16).eraseDups.length = q ∧
    ∀ a ∈ ps, a.core < 128 ∧ (s.ctx ctx).st = .run ∧
      (ctx ≠ 0 → ∃ e ∈ s.grants, e.2.recv = ctx ∧ ∃ set x, e.2.res = .cores set x ∧ set.getLsbD a.core = true) ∧
      (∀ e ∈ s.grants, e.2.giver = ctx → ∀ set, e.2.res = .cores set true → set.getLsbD a.core = false) ∧
      (∀ x ∈ s.bound, x.core = a.core → x.slotB ≠ a.slotB) ∧
      (match k.mode, k.xcol with
        | .whole, _ => a.col = 0
        | .half, none => a.col = 0 ∨ a.col = 2
        | .half, some h => a.col = 2 * h
        | .quarter, none => a.col < 4
        | .quarter, some n => a.col = n) ∧
      partBanks k.partw ≤ 64 ∧
      ∀ x ∈ s.bound, x.core = a.core → partBanks k.partw + partBanks ((s.cores.get .reset a.core).slot (!a.slotB)).partw ≤ 64

/-- R105, R113, R122, R143, R148, R149, R181, R236, R259, R263. LAUNCH_BIND at a choice that Okra may make: each place holds
a bank that begins at the kernel's entry with its arguments in s1 on, its rank and spread, gm1 its sequencers, its table and
scratch image, and nothing else set. Says of each that it completes: launchBind. -/
def Claims.BindingState : Prop :=
  ∀ (s : State) (pri : Nat) (ps : List Place) (l : Launch) (ls : List Launch) (k : Kern), s.launchqs.get [] pri = l :: ls →
    l.graph = none → l.pri = pri → (∀ x ∈ ls, x.stamp ≠ l.stamp) → s.image l.ctx l.hnd false = some k → s.bindChecks l.ctx k = true →
    s.placesOk l.ctx k (spreads k).1 (spreads k).2 ps = true → (∀ n, n ≠ pri → s.launchqs.get [] n = []) → (∀ n, s.taskqs.get [] n = []) →
    (∀ p ∈ ps, p.col < 4) →
    ∃ t : State, exec (.launchBind pri ps) s = .next t ∧ t.launchqs.get [] pri = ls ∧ t.mem = s.mem ∧ t.remote = s.remote ∧
      (∀ x, (∀ p ∈ ps, x ≠ 8 * p.core + 2 * p.col + p.slotB.toNat) → t.bank? x = s.bank? x) ∧
      ∀ p ∈ ps, ∃ b, t.bank? (8 * p.core + 2 * p.col + p.slotB.toNat) = some b ∧
        let m := (t.cores.get .reset p.core).slot p.slotB
        let here := ps.filter fun x => x.core / 16 == p.core / 16
        let num (x : Place) : Nat := 4 * (x.core % 16) + x.col
        b.bound = true ∧ b.ctx = l.ctx ∧ b.kern = some k ∧ b.pri = pri ∧ b.mode = k.mode ∧ b.core = p.core ∧ b.col = p.col ∧
        b.slotB = p.slotB ∧ b.pc = k.entry ∧ b.depth = 0 ∧ b.region = none ∧ b.pend = [] ∧ b.holds = [] ∧ b.esta = 0 ∧ b.tbr = 0 ∧
        b.vsnp = 0 ∧ b.sinceSafe = 0 ∧
        (∀ n, b.sr.get 0 n = if n = 0 then 0 else l.args.getD (n - 1) 0) ∧ (∀ n, b.ar.get 0 n = 0) ∧ b.fl = 1 ∧
        (∀ n, b.vr.get 0 n = 0) ∧ (∀ n, b.vfl.get 0 n = 0) ∧ (∀ n, b.q.get 0 n = 0) ∧ (∀ n, b.xs.get xsReset n = 0x3F800000) ∧
        (∀ n, b.bcn.get 0 n = 0) ∧ (∀ n, b.cn.get 0 n = 0) ∧ (∀ n, b.vcw.get vcwReset n = k.vcw.getD n vcwReset) ∧
        (∀ n, b.gm.get 0 n = if n = 1 then .ofNat 64 ((here.map fun x => 2 ^ num x).foldl (· + ·) 0) else 0) ∧
        b.cNum = here.length ∧ b.cIdx = (here.filter fun x => decide (num x < num p)).length ∧
        b.dNum = (ps.map fun x => x.core / 16).eraseDups.length ∧
        b.dIdx = ((ps.map fun x => x.core / 16).eraseDups.filter fun x => decide (x < p.core / 16)).length ∧
        (∀ i, i < k.tickets → t.cells.get 0 (256 * (p.core / 16) + b.tkBase + i) = 0) ∧
        m.owner = some b.lnch ∧ m.partw = k.partw &&& 0xFF3F ∧ (∀ a, Memory.read m.share a = k.scratch.getD a 0) ∧ ∀ n i, (m.tile n).getD i 0 = 0

/-- Where Okra may bind a kernel, and what a binding leaves in every bank. -/
def Obligations.Binding : Prop :=
  Claims.PlacesObeyTheRules ∧ Claims.BindingState

/-- R274. BANK_SWITCH: a request reaches every core of the foreground binding on the die, one whose sequencers have all ended
too; the roles of the two banks of each of them are exchanged together, once every foreground sequencer of the binding stands
at a place for it, and not before. Says of each that it completes: bankSwitch. -/
def Claims.BanksSwitchTogether : Prop :=
  ∀ (s : State) (core : Nat),
    let fg := s.foreground core
    let c (s : State) (n : Nat) : Core := s.cores.get .reset n
    let holder (n : Nat) : Option Nat := ((c s n).slot (c s n).fgB).owner
    let concerned (n : Nat) : Prop := n = core ∨ (n / 16 = core / 16 ∧ (holder core).isSome = true ∧ holder n = holder core)
    ((c s core).switchReq = false → ∃ t : State, exec (.bankSwitch core) s = .next t ∧ t.mem = s.mem ∧
      (∀ n, concerned n → (c t n).switchReq = true) ∧ ∀ n, (c t n).fgB = (c s n).fgB) ∧
    ((c s core).switchReq = true → (∀ b ∈ fg, s.switchable b = true) → ∃ t : State, exec (.bankSwitch core) s = .next t ∧
      t.mem = s.mem ∧ (∀ n, concerned n → (c t n).fgB = !(c s n).fgB ∧ (c t n).switchReq = false) ∧
      ∀ n, ¬concerned n → c t n = c s n) ∧
    ((c s core).switchReq = true → (∃ b ∈ fg, s.switchable b = false) → exec (.bankSwitch core) s = .next s) ∧
    (∀ b, s.switchable b = true → b.region = none ∧ b.fars = [] ∧
      (b.retiredSwitch = true ∨ b.halted.isSome = true ∨ ∃ f ∈ b.forms, f.kind ≠ .tend ∧ f.cyc + 1024 ≤ (c s b.core).cyc))

/-- R329, R330, R274. BUCKET_REFILL gives every context's own bucket RATE granules at each of the 128 controllers, up to
BURST, and no other; a context that has used its share of the window on a sequencer is to be switched away from a core where
another has work for that sequencer. Says of each that it completes: bucketRefill, shareWindowSwitch. -/
def Claims.BudgetMoves : Prop :=
  ∀ (s : State) (n core : Nat),
    ((∀ e ∈ s.ctxs, e.2.bid < 256) → (∀ e ∈ s.ctxs, ∀ x ∈ s.ctxs, e.2.bucket.getLsbD 63 = true → x.2.bucket.getLsbD 63 = true →
        e.2.bid = x.2.bid → e = x) → s.ctxs.Nodup →
      ∃ t : State, exec .bucketRefill s = .next t ∧ t.ctxs = s.ctxs ∧ t.b = s.b ∧ t.banks = s.banks ∧ t.mem = s.mem ∧
        (∀ e ∈ s.ctxs, ∀ c, c < 128 → e.2.bucket.getLsbD 63 = true → t.tokens.get 0 (256 * c + e.2.bid) =
          min (rfld e.2.bucket 19 0) (s.tokens.get 0 (256 * c + e.2.bid) + rfld e.2.bucket 47 32)) ∧
        ∀ c k, k < 256 → (128 ≤ c ∨ ∀ e ∈ s.ctxs, e.2.bucket.getLsbD 63 = true → e.2.bid ≠ k) →
          t.tokens.get 0 (256 * c + k) = s.tokens.get 0 (256 * c + k)) ∧
    (let c := s.cores.get .reset core
     let meets (x y : Bank) : Prop := x.col < y.col + y.cols ∧ y.col < x.col + x.cols
     c.switchReq = false → n < 4096 → (∃ b ∈ s.foreground core, b.core = core ∧ b.ctx = n ∧
        s.windows.filter (fun w => w.1 / 4096 == b.seq) = [(4096 * b.seq + n, rfld (s.ctx n).share 10 0 * 1000000 / 1024)] ∧
        ∃ x ∈ s.bound, x.core = core ∧ x.slotB = !b.slotB ∧ s.within n 9 x.ctx = false ∧ meets x b) →
      ∃ t : State, exec (.shareWindowSwitch n core) s = .next t ∧ (t.cores.get .reset core).switchReq = true ∧
        (t.cores.get .reset core).fgB = c.fgB ∧ t.mem = s.mem)

/-- The banks of a binding switch together; buckets refill and shares switch. -/
def Obligations.BankSwitchAndBudgets : Prop :=
  Claims.BanksSwitchTogether ∧ Claims.BudgetMoves

/-- R280, R283, R290, R291, R295, R302, R306. CHK and TXB open a region at their bundle with a checkpoint of the registers as
they stand, TXB with a snapshot at VCTR; ABT and a failed ASRT record their abort; GCLR frees the guards from the next issue;
SNAP and SNAPE begin and end the bank's snapshot, and a full table is the version trap. Says of each that it completes: chk,
abt, gclr, asrt, rgst, txb, snap, snape. -/
def Claims.RegionForms : Prop :=
  ∀ (s : State) (c : Ctl) (off : BitVec 20) (code : BitVec 8),
    let b := s.b
    let opened (t : State) (txn : Bool) : Prop := ∃ r, t.b.region = some r ∧ r.txn = txn ∧ r.start = b.pc ∧
      r.label = b.pc + .ofInt 56 (2 * off.toInt) ∧ r.ck = ⟨b.sr, b.ar, b.fl, b.lc, b.li, b.ls, b.le, b.depth, b.q, b.xs, b.vfl⟩ ∧
      r.held = [] ∧ r.pkts = [] ∧ r.guards = [] ∧ r.vsh = [] ∧ r.tsh = [] ∧ r.iss = b.iss ∧
      rfld t.b.rgst 63 63 = 1 ∧ rfld t.b.rgst 62 62 = txn.toNat ∧ rfld t.b.rgst 60 0 = rfld b.rgst 60 0 ∧ b.SameRegs t.b ∧
      t.b.pc = b.pc ∧ t.b.depth = b.depth ∧ t.b.pend = b.pend ∧ t.banks = s.banks ∧ t.cores = s.cores ∧ t.mem = s.mem
    let holds (t : State) : Prop := t.b.vsnp = .ofNat 64 (2 ^ 63 + s.vctr.toNat) ∧ rfld t.b.rgst 61 61 = 1 ∧
      (∃ e, t.snaps.find e = some ⟨b.key, b.ctx, s.vctr.toNat, false⟩) ∧ t.vctr = s.vctr
    let aborts (a : Abort) : State := s.modB fun b => { b with region := b.region.map fun r => { r with sync := r.sync ++ [a] } }
    (s.Performs (.chk c off) c → b.region = none → ∃ t : State, exec (.chk c off) s = .next t ∧ opened t false ∧
      t.snaps = s.snaps ∧ t.b.vsnp = b.vsnp ∧ ∃ r, t.b.region = some r ∧ r.sync = []) ∧
    (s.Performs (.txb c off) c → b.region = none → ∃ t : State, exec (.txb c off) s = .next t ∧ opened t true ∧
      (s.snapRoom = true → holds t ∧ ∃ r, t.b.region = some r ∧ r.sync = []) ∧
      (s.snapRoom = false → ∃ r, t.b.region = some r ∧ r.sync = [⟨14, 0, s.cur.slot, s.cur.col, 0⟩])) ∧
    (s.Performs (.abt c code) c → exec (.abt c code) s = .next (aborts ⟨2, code.toNat, s.cur.slot, s.cur.col, 0⟩).draw) ∧
    (s.Performs (.asrt c code) ⟨c.h, 0, false⟩ → exec (.asrt c code) s = .next
      (if s.pred c then s else aborts ⟨1, code.toNat, s.cur.slot, s.cur.col, 0⟩).draw) ∧
    (s.Performs (.gclr c) c → exec (.gclr c) s = .next
      (s.modB fun b => { b with region := b.region.map fun r => { r with clr := true } }).draw) ∧
    (s.Performs (.snap c) c → s.snapRoom = true → ∃ t : State, exec (.snap c) s = .next t ∧ holds t ∧ t.b.region = b.region ∧
      b.SameRegs t.b ∧ t.cores = s.cores ∧ t.mem = s.mem) ∧
    (s.Performs (.snap c) c → s.cur.phase = .alone → b.region = none → s.snapRoom = false →
      exec (.snap c) s = .next (s.takeTrap (s.cause 10 1)).draw) ∧
    (s.Performs (.snape c) c → rfld b.vsnp 63 63 = 0 → exec (.snape c) s = .next s.draw) ∧
    (s.Performs (.snape c) c → rfld b.vsnp 63 63 = 1 → ∃ t : State, exec (.snape c) s = .next t ∧ t.b.vsnp = 0 ∧
      rfld t.b.rgst 61 61 = 0 ∧ b.SameRegs t.b ∧ t.mem = s.mem ∧
      ∀ e x, t.snaps.find e = some x → x.bank = b.key → x.ended = true)

/-- R298, R308. CMT and TXC wait for the commit of the open region, CMT of a transaction as TXC does; with none open they
have no effect, and TXC writes 0. Says of each that it completes: cmt, txc. -/
def Claims.CommitForms : Prop :=
  ∀ (s : State) (c : Ctl) (rd : BitVec 6),
    let waits (kind : FormKind) (rd : Nat) (ops : List DWord) : State :=
      (s.modB fun b => { b with forms := b.forms ++ [⟨kind, s.cur.col, s.cur.slot, rd, ops, s.fresh, b.iss, s.now, 0⟩] }).draw
    (s.Performs (.cmt c) c → s.b.region = none → exec (.cmt c) s = .next s.draw) ∧
    (s.Performs (.txc c rd) c → s.b.region = none → exec (.txc c rd) s = .next (s.resS rd.toNat 0 1).draw) ∧
    (∀ r, s.Performs (.cmt c) c → s.b.region = some r →
      exec (.cmt c) s = .next (waits (if r.txn then .txc else .cmt) 0 [])) ∧
    (∀ r, s.Performs (.txc c rd) c → s.b.region = some r →
      exec (.txc c rd) s = .next (waits (if r.txn then .txc else .cmt) rd.toNat [0]))

/-- R281, R284, R286, R288, R289. In a region a store of the W slot is held, reaches neither the share nor the stores on
their way, and aborts with GUARD where it overlaps a live guard; LDG loads as LD and takes the lowest free guard entry of its
column, and outside a region it records nothing. Says of each that it completes: ldgScalar, ldgVector. -/
def Claims.HeldStoresAndGuards : Prop :=
  ∀ (s : State) (c : Ctl) (rs : BitVec 6) (ar : BitVec 5) (sz : BitVec 2) (fmt : BitVec 3) (d : BitVec 7) (d4 : BitVec 4) (vc : Bool)
      (vr : BitVec 11),
    let u : Nat := 2 ^ sz.toNat
    let a := s.ra ar.toNat
    let size : Nat := match fmt.toNat with | 0 => 1 | 1 => 1 | 2 => 2 | 3 => 2 | 4 => 4 | 5 => 4 | _ => 8
    let la := (BitVec.ofInt 32 (a + d.toInt * size)).toNat
    let va := (BitVec.ofInt 32 (a + d4.toInt * 64)).toNat
    let legal (a n : Nat) : Prop := a + n ≤ s.shareSize ∧ a % n = 0
    let guarded (r : Region) (t : State) (a n : Nat) : Prop := ∃ x, t.b.region = some x ∧
      ∀ g, g < 64 → r.guards.find (64 * s.cur.col + g) = none → (∀ k, k < g → (r.guards.find (64 * s.cur.col + k)).isSome = true) →
        x.guards.find (64 * s.cur.col + g) = some (a, n) ∧ ∀ k, k ≠ 64 * s.cur.col + g → x.guards.find k = r.guards.find k
    (∀ r, s.Performs (.st c rs ar sz 0) c → legal a u → s.b.region = some r → r.sync = [] →
      ((r.held.filter fun h => h.col == s.cur.col).length < 1024) →
      ∃ (t : State) (x : Region), exec (.st c rs ar sz 0) s = .next t ∧ t.b.region = some x ∧ t.b.stores = s.b.stores ∧ t.cores = s.cores ∧
        (∃ h, x.held = r.held ++ [h] ∧ h.addr = a ∧ h.bytes = toBytes u (s.rs rs.toNat).toNat ∧ h.col = s.cur.col ∧ h.spill = false) ∧
        ((∀ g ∈ r.guards, g.2.1 + g.2.2 ≤ a ∨ a + u ≤ g.2.1) → x.sync = []) ∧
        (∀ g, r.guards = [g] → g.2.1 < a + u → a < g.2.1 + g.2.2 → x.sync = [⟨3, s.cur.col, s.cur.slot, g.1 / 64, g.1 % 64⟩])) ∧
    (s.Performs (.ldgScalar c rs ar fmt d) c → legal la size →
      let load := if rs = 0 then s else s.result (.s rs.toNat) (if fmt = 0 ∨ fmt = 2 ∨ fmt = 4 then
        (BitVec.ofNat (8 * size) (s.spNat la size)).signExtend 64 else .ofNat 64 (s.spNat la size)).toNat 1 4 (s.spPoison la size)
      (s.b.region = none → exec (.ldgScalar c rs ar fmt d) s = .next load.draw) ∧
      ∀ r, s.b.region = some r → ∃ t : State, exec (.ldgScalar c rs ar fmt d) s = .next t ∧ guarded r t la size ∧
        t.b.pend = load.b.pend ∧ t.cores = s.cores ∧ t.b.stores = s.b.stores) ∧
    (s.Performs (.ldgVector c vc vr ar d4) c → legal va 64 →
      let load := s.putV (2 * s.cur.col + vc.toNat) (vr.toNat % s.vcount) (s.spNat va 64) 0xFFFF 4 (s.spPoison va 64)
      (s.b.region = none → exec (.ldgVector c vc vr ar d4) s = .next load.draw) ∧
      ∀ r, s.b.region = some r → ∃ t : State, exec (.ldgVector c vc vr ar d4) s = .next t ∧ guarded r t va 64 ∧
        t.b.pend = load.b.pend ∧ t.cores = s.cores ∧ t.b.stores = s.b.stores)

/-- Regions, transactions and snapshots: their forms, held stores and guards. -/
def Obligations.RegionForms : Prop :=
  Claims.RegionForms ∧ Claims.CommitForms ∧ Claims.HeldStoresAndGuards

/-- R285, R292, R296, R297. An abort at a boundary: the registers are those of the checkpoint and the shadows, nothing that
the region held or had on its way remains, RGST records the abort, the recovery label is next, and no other agent sees
anything. A CWAIT that outlasts 4,096 cycles aborts so with NSPEC, and an error in the checkpoint is an abort to come, or
past the commit's point poisons the store that drains next. The bundle of an abort between bundles is the one whose boundary
it is (assumption log, entry 42). Says of each that it completes: asyncAbort, cwaitTimeout, softError. -/
def Obligations.RollbackRestores : Prop :=
  ∀ (s : State) (bank : Nat) (r : Region) (a : Abort) (f : Form), s.b.key = bank → s.b.region = some r →
    a.cause < 32 → a.code < 256 → a.slt < 8 → a.col < 4 → a.gix < 64 →
    let back (t : State) (a : Abort) : Prop :=
      t.b.sr = r.ck.sr ∧ t.b.ar = r.ck.ar ∧ t.b.lc = r.ck.lc ∧ t.b.li = r.ck.li ∧ t.b.ls = r.ck.ls ∧ t.b.le = r.ck.le ∧
      t.b.depth = r.ck.depth ∧ t.b.q = r.ck.q ∧ t.b.xs = r.ck.xs ∧ t.b.vfl = r.ck.vfl ∧
      (∀ n, (∀ i, rfld (s.b.cbc.get 0 i) 63 63 = 0) → t.b.fl.getLsbD n = r.ck.fl.getLsbD n) ∧
      (∀ n, (∀ e ∈ r.vsh, e.1 ≠ n) → t.b.vr.get 0 n = s.b.vr.get 0 n) ∧
      (∀ n v, r.vsh = [(n, v)] → t.b.vr.get 0 n = v) ∧
      t.b.region = none ∧ t.b.forms = [] ∧ t.b.holds = [] ∧ t.b.waitSyl = [] ∧ t.b.open_ = false ∧ t.b.pc = r.label ∧
      t.b.stores = s.b.stores ∧ (∀ p ∈ t.b.pend, p.reg = false) ∧ (∀ x ∈ t.b.fars, x.reg = false) ∧
      (∀ e ∈ t.b.streams, e.2.reg = false) ∧ (∀ o ∈ t.core.xops, o.bank = bank → o.reg = false) ∧
      (∀ e ∈ t.b.queues, ∀ p ∈ e.2.pkts, p.reg = false) ∧
      (r.undo = [] → ∀ x, Memory.read t.slot.share x = Memory.read s.slot.share x) ∧ t.mem = s.mem ∧ t.remote = s.remote ∧
      t.banks = s.banks ∧ rfld t.b.rgst 63 63 = 0 ∧ rfld t.b.rgst 62 62 = r.txn.toNat ∧ rfld t.b.rgst 60 56 = a.cause ∧
      rfld t.b.rgst 55 48 = a.code ∧ rfld t.b.rgst 47 45 = a.slt ∧ rfld t.b.rgst 44 43 = a.col ∧ rfld t.b.rgst 42 37 = a.gix ∧
      (r.txn = true → t.b.vsnp = 0) ∧ (r.txn = false → t.b.vsnp = s.b.vsnp)
    (s.b.open_ = false → s.b.kindA = [] → r.async = [a] → s.b.forms = [] → ∃ t : State, exec (.asyncAbort bank) s = .next t ∧ back t a ∧
      rfld t.b.rgst 31 0 = (s.b.npc - r.start).toNat / 2 % 2 ^ 32) ∧
    (s.b.open_ = true → s.b.forms = [f] → f.kind = .cmt → 1 ≤ f.phase → exec (.asyncAbort bank) s = .next s) ∧
    (∀ co sb, s.b.forms = [f] → f.kind = .cwait co sb → f.cyc + 4096 ≤ s.now → f.col < 4 → ∃ t : State,
      exec (.cwaitTimeout bank) s = .next t ∧ back t ⟨5, 0xF2, 6, f.col, 0⟩ ∧
      rfld t.b.rgst 31 0 = (s.b.pc - r.start).toNat / 2 % 2 ^ 32) ∧
    (s.b.forms = [f] → f.kind = .cmt → 1 ≤ f.phase → ∀ h hs, r.held = h :: hs → exec (.softError bank) s =
      .next (s.modB fun b => { b with region := some { r with held := { h with bad := true } :: hs } }).draw) ∧
    (s.b.forms = [] → exec (.softError bank) s = .next (s.modB fun b => { b with region := some { r with
      async := r.async ++ [⟨12, 0, 0, 0, 0⟩] } }).draw)

/-- R298, R299. CMT_COMMIT: nothing happens until what the region issued, and every store before it, has landed; then its
held stores reach the share, the oldest first, four in a cycle, none while an operation locks its bank; then its held packets
their queues, each as issued after all before it; and then the region closes and the form ends. Says of each that it
completes: cmtCommit. -/
def Claims.CommitMoves : Prop :=
  ∀ (s : State) (bank : Nat) (r : Region) (f : Form), s.b.key = bank → s.b.region = some r → s.b.forms = [f] → f.kind = .cmt → f.phase ≤ 1 →
    let landed := (∀ p ∈ s.b.pend, p.reg = false) ∧ (∀ x ∈ s.b.fars, x.reg = false) ∧
      (∀ k ∈ s.b.contribs, k.reg = true → k.ql = none) ∧ (∀ o ∈ s.core.xops, o.bank = bank → o.reg = false) ∧ s.b.stores = []
    (f.phase = 0 → ¬landed → exec (.cmtCommit bank) s = .next s) ∧
    let locked (h : HStore) : Bool := s.core.locked s.b.slotB h.addr h.bytes.length true
    (landed → r.held ≠ [] → r.held.Pairwise (fun g h => 4 * g.iss + g.col < 4 * h.iss + h.col) →
      (∀ h ∈ r.held, h.spill = false ∧ locked h = false) → ∃ t : State, exec (.cmtCommit bank) s = .next t ∧
      (∀ a, Memory.read t.slot.share a =
        match ((r.held.take 4).filter fun h => decide (h.addr ≤ a ∧ a < h.addr + h.bytes.length)).getLast? with
        | some h => h.bytes.getD (a - h.addr) 0
        | none => Memory.read s.slot.share a) ∧
      (∃ x, t.b.region = some x ∧ x.held = r.held.drop 4 ∧ x.pkts = r.pkts) ∧ t.mem = s.mem ∧ s.b.SameRegs t.b) ∧
    (landed → ∀ h, r.held = [h] → h.spill = false → locked h = true → f.phase = 1 → exec (.cmtCommit bank) s = .next s) ∧
    (landed → r.held = [] → ∀ col q p ps, r.pkts = (col, q, p) :: ps →
      let k := 4 * col + q
      (s.b.queues.get .empty k).pkts.length < 16 → ∃ (t : State) (x : Pkt), exec (.cmtCommit bank) s = .next t ∧
        (t.b.queues.get .empty k).pkts = (s.b.queues.get .empty k).pkts ++ [x] ∧ x.kind = p.kind ∧ x.p0 = p.p0 ∧ x.p1 = p.p1 ∧
        x.p2 = p.p2 ∧ x.p3 = p.p3 ∧ x.reg = false ∧ t.b.iss = s.b.iss + 1 ∧ x.iss = t.b.iss ∧ x.cyc = s.now ∧ (∃ y, t.b.region = some y ∧ y.pkts = ps) ∧
        t.mem = s.mem ∧ s.b.SameRegs t.b) ∧
    (landed → r.held = [] → r.pkts = [] → f.ops = [] → ∃ t : State, exec (.cmtCommit bank) s = .next t ∧ t.b.region = none ∧
      t.b.forms = [] ∧ rfld t.b.rgst 63 63 = 0 ∧ rfld t.b.rgst 62 62 = r.was.toNat ∧ rfld t.b.rgst 61 0 = rfld s.b.rgst 61 0 ∧ s.b.SameRegs t.b ∧ t.mem = s.mem ∧
      t.cores = s.cores)

/-- R303, R308. TXC_COMMIT: it waits for the bank's packets; it locks its lines, and a line newer than its snapshot aborts it
with WW, otherwise VCTR advances by one and is its timestamp; a held GST is then written, and its versioned line gains one
version of that timestamp, the old one kept where the test said so; at the end the locks are freed, and s[RD] gets the
timestamp as the region and its snapshot end. Says of each that it completes: txcCommit. -/
def Claims.TransactionMoves : Prop :=
  ∀ (s : State) (bank : Nat) (r : Region) (f : Form), s.b.key = bank → s.b.region = some r → r.txn = true → s.b.forms = [f] →
    f.kind = .txc →
    let w := s.draw
    let mine (t : State) : Prop := ∃ e, t.locks.find e ≠ none ∧ ∀ o, t.locks.find e = some o → o.1 = bank
    ((∃ e ∈ s.b.queues, e.2.pkts ≠ []) → f.phase < 3 → exec (.txcCommit bank) s = .next w) ∧
    (∀ l, s.b.queues = [] → s.b.stores = [] → s.regionLanded = true → f.phase = 0 → w.writeSet r.pkts = .ok [⟨l, true, false⟩] → s.locks = [] →
      let ts := (s.vers.get ⟨0, []⟩ l).ts
      (rfld s.b.vsnp 55 0 < ts → ∃ t : State, exec (.txcCommit bank) s = .next t ∧ t.b.region = none ∧ rfld t.b.rgst 60 56 = 9 ∧
        t.b.pc = r.label ∧ t.vctr = s.vctr ∧ t.locks = [] ∧ t.mem = s.mem) ∧
      (ts ≤ rfld s.b.vsnp 55 0 → s.poolRoom 1 = true → s.poolRoom 0 = true → ∃ t : State, exec (.txcCommit bank) s = .next t ∧
        t.vctr = s.vctr + 1 ∧ t.locks.find l = some (bank, some (s.vctr + 1).toNat) ∧ t.b.region = some r ∧ t.mem = s.mem ∧
        t.b.forms.map (·.ops.head?) = [some ((s.vctr + 1).setWidth 64)])) ∧
    (f.phase = 4 → ∀ col queue n p l tc kept, r.pkts = [(col, queue, p)] → f.ops = tc :: kept →
      let k := 4 * col + queue
      let va := p.p0.toNat
      let pa := Leaf.pa l va
      let line := s.canon pa / 128
      let v := s.vers.get ⟨0, []⟩ line
      p.kind = .gst n → n ∈ [1, 2, 4, 8] → va % n = 0 → p.done = false → p.rel = false → (s.b.queues.get .empty k).susp = false →
      w.translate (.k (k % 4)) true s.b.ctx va = .ok l → s.portWaits k l va = false →
      ∃ t : State, exec (.txcCommit bank) s = .next t ∧ (∀ i, i < n → t.gByte (pa + i) = .ofNat 8 (p.p1.toNat / 256 ^ i)) ∧
        (∀ a, (∀ i, i < n → s.canon a ≠ s.canon (pa + i)) → t.gByte a = s.gByte a) ∧
        (Tlb.ver l = true → v.ts ≠ tc.toNat → (t.vers.get ⟨0, []⟩ line).ts = tc.toNat ∧ (t.vers.get ⟨0, []⟩ line).old =
          if (kept.map (·.toNat)).contains line then (v.ts, s.gRead (line * 128) 128, s.gPoison (line * 128)) :: v.old else v.old) ∧
        (∃ y, t.b.region = some y ∧ y.pkts.map (fun e => (e.1, e.2.1, e.2.2.done)) = [(col, queue, true)]) ∧
        s.SameShares t ∧ s.b.SameRegs t.b) ∧
    (f.phase = 4 → r.pkts = [] → ∃ t : State, exec (.txcCommit bank) s = .next t ∧ ¬mine t ∧ t.b.region = some r ∧ t.mem = s.mem) ∧
    (f.phase = 5 → r.pkts = [] → ∀ tc, f.ops = [tc] → ∃ t : State, exec (.txcCommit bank) s = .next t ∧ t.b.region = none ∧
      t.b.forms = [] ∧ t.b.vsnp = 0 ∧ rfld t.b.rgst 63 63 = 0 ∧ rfld t.b.rgst 62 62 = r.was.toNat ∧ rfld t.b.rgst 61 61 = 0 ∧ t.mem = s.mem ∧
      (f.rd ≠ 0 → (∀ p ∈ s.b.pend, p.loc = .s f.rd → p.iss ≠ s.b.iss) →
        t.b.pend.getLast? = some ⟨.s f.rd, tc.toNat, tc.toNat, 1, 1, s.b.iss, s.now + 1, false, false, false⟩))

/-- R303, R304, R305. VERSION_COLLECT frees only versions that no live snapshot reads: every byte of every line reads as
before under every live snapshot and under none; and a plain write keeps the version that a live snapshot reads. Says of each
that it completes: versionCollect. -/
def Claims.VersionsStayReadable : Prop :=
  ∀ (s : State) (pa line : Nat),
    (∃ t : State, exec .versionCollect s = .next t ∧ t.mem = s.mem ∧ t.b = s.b ∧
      (∀ x ∈ s.liveSnaps, (∀ v, s.vers.find (s.canon pa / 128) = some v → v.old.Pairwise fun p q => q.1 < p.1) →
        t.verByte pa (some x.ts) = s.verByte pa (some x.ts)) ∧ t.verByte pa none = s.verByte pa none) ∧
    (∀ x t pw bs, x ∈ s.liveSnaps → s.versionFor line = .ok t → s.canon pa / 128 = line → s.canon pw / 128 = line →
      pw % 128 + List.length bs ≤ 128 → let v := s.vers.get ⟨0, []⟩ line
      x.ts ≤ s.vctr.toNat → v.ts ≤ s.vctr.toNat → s.vctr.toNat + 1 < 2 ^ 56 → (v.ts ≤ x.ts ∨ ∃ o ∈ v.old, o.1 ≤ x.ts) →
        (t.gPut pw bs).verByte pa (some x.ts) = s.verByte pa (some x.ts))

/-- Commit of regions and transactions, and versions that live snapshots read. -/
def Obligations.CommitsAndVersions : Prop :=
  Claims.CommitMoves ∧ Claims.TransactionMoves ∧ Claims.VersionsStayReadable

/-- R313, R315, R316, R321, R322, R328, R336, R338, R343, R346, R347. The context forms read their operands at issue and wait
for the command processor; CTXRD answers at once with a bound of 6 and holds the bank's later accesses back until then. A
target that the form does not permit is the context trap TARGET and a reserved bit FIELD, with no effect (an unassigned
operation, and a number that no live context has: assumption log, entries 15 and 56). Says of each that it completes: ctxnew,
ctxdel, ctxcore, ctxmem, ctxq, ctxbud, ctxrunRun, ctxrunRetry, ctxrunRefuse, ctxrunSkip, ctxstop, ctxrev, ctxdlg, ctxrd,
ctxsaveSave, ctxsaveRestore, shoot. -/
def Obligations.ContextForms : Prop :=
  ∀ (s : State) (c : Ctl) (sp : BitVec 4) (rd ra rb : BitVec 6),
    let x := s.rs ra.toNat
    let y := s.rs rb.toNat
    let n := x.toNat
    let g (k : Nat) : DWord := s.rs (4 * sp.toNat + k)
    let child := n ≠ 0 ∧ ∃ e, s.ctxs.find n = some e ∧ e.parent = s.b.ctx
    let desc := (s.ctxs.find n).isSome = true ∧ n ≠ s.b.ctx ∧ s.within s.b.ctx 9 n = true
    let zero (v : DWord) (hi lo : Nat) : Prop := rfld v hi lo = 0
    let form (i : Instr) (ops : List DWord) (target fields : Prop) : Prop := s.Performs i c →
      (target → fields → exec i s = .next (s.modB fun b => { b with
        forms := b.forms ++ [⟨.ctx i, s.cur.col, s.cur.slot, rd.toNat, ops, s.fresh, b.iss, s.now, 0⟩] }).draw) ∧
      (s.cur.phase = .alone → s.b.region = none → ¬target → exec i s = .next (s.takeTrap (s.cause 11 1)).draw) ∧
      (s.cur.phase = .alone → s.b.region = none → target → ¬fields → exec i s = .next (s.takeTrap (s.cause 11 2)).draw)
    let group := [x, g 0, g 1, g 2, g 3]
    let op := rfld y 3 0
    let run := (op = 0 → desc) ∧ (0 < op → op < 4 → n = s.b.ctx) ∧ (4 ≤ op → (s.ctxs.find n).isSome = true)
    let save := zero (g 0) 63 56 ∧ zero (g 0) 5 0 ∧ zero (g 1) 63 32 ∧ zero (g 2) 63 1 ∧ g 3 = 0
    let based (v : DWord) : Prop := zero v 63 52 ∧ zero v 15 0
    let anc (k j : Nat) : Nat := Nat.repeat (fun m => (s.ctx m).parent) j k
    let own (k : Nat) : Prop := k = 0 ∨ (s.ctx k).bucket.getLsbD 63 = true
    form (.ctxnew c rd ra) [x] True (zero x 63 52 ∧ zero x 19 0) ∧
    form (.ctxdel c rd ra) [x] desc True ∧
    form (.ctxcore c sp rd ra) group child (zero (g 2) 63 1 ∧ g 3 = 0) ∧
    form (.ctxmem c sp rd ra) group child (based (g 0) ∧ based (g 1) ∧ zero (g 2) 63 32 ∧ g 2 ≠ 0 ∧ zero (g 3) 53 0) ∧
    form (.ctxq c sp rd ra) group child (rfld (g 0) 63 60 ≤ 1 ∧ zero (g 0) 59 16 ∧ zero (g 1) 63 32 ∧ g 2 = 0 ∧ g 3 = 0) ∧
    form (.ctxbud c sp rd ra) group child (zero (g 0) 63 11 ∧ rfld (g 0) 10 0 ≤ 1024 ∧ zero (g 1) 62 48 ∧ zero (g 1) 31 20 ∧
      (rfld (g 1) 63 63 = 1 → 1 ≤ rfld (g 1) 47 32 ∧ rfld (g 1) 47 32 ≤ 5000 ∧ rfld (g 1) 47 32 ≤ rfld (g 1) 19 0) ∧
      zero (g 2) 63 16 ∧ zero (g 2) 3 3 ∧ g 3 = 0) ∧
    form (.ctxrunRun c rd ra rb) [x, y] run (zero y 47 4 ∧ op < 4) ∧
    form (.ctxrunRetry c rd ra rb) [x, y] run (zero y 47 4 ∧ op < 4) ∧
    form (.ctxrunRefuse c rd ra rb) [x, y] run (zero y 47 4 ∧ op < 4) ∧
    form (.ctxrunSkip c rd ra rb) [x, y] run (zero y 47 4 ∧ op < 4) ∧
    form (.ctxstop c sp rd ra) group desc (zero (g 0) 63 56 ∧ zero (g 0) 5 0 ∧ zero (g 1) 63 32 ∧ g 2 = 0 ∧ g 3 = 0) ∧
    form (.ctxrev c rd ra) [x] (∃ e, s.grants.find n = some e ∧ s.within s.b.ctx 9 e.giver = true) True ∧
    form (.ctxdlg c rd ra rb) [x, y] child True ∧
    form (.ctxsaveSave c sp rd ra) group desc save ∧ form (.ctxsaveRestore c sp rd ra) group desc save ∧
    form (.shoot c rd ra rb) [x, y] True (zero x 63 56 ∧ zero x 15 0 ∧ zero y 63 32) ∧
    (let k := if x.getLsbD 63 then s.b.ctx else n
     let e := s.ctx k
     s.Performs (.ctxrd c rd ra rb) c → (s.ctxs.find k).isSome = true → s.within s.b.ctx 9 k = true → y.toNat ≤ 8 →
      (x.getLsbD 63 = true → zero x 62 0) → ∃ v, exec (.ctxrd c rd ra rb) s = .next ((s.resS rd.toNat v 6).modB fun b => { b with
          ctxRds := (b.ctxRds.filter fun e => decide (s.now < e.2)) ++ [(b.iss, s.now + 6)] }).draw ∧
        (y = 0 → rfld v 63 61 = e.st.code ∧ rfld v 60 57 = e.depth % 16 ∧ rfld v 56 45 = e.parent % 4096 ∧
          rfld v 44 33 = (s.ctxs.filter fun x => x.1 != 0 && x.2.parent == k).length % 4096 ∧ rfld v 31 0 = e.rseq.toNat ∧
          (v.getLsbD 32 = true ↔ ∃ b ∈ s.bound ++ s.saved.map Prod.fst, b.ctx = k ∧
            ∃ c, b.halted = some (.reply c) ∨ b.halted = some (.fault c))) ∧
        (y = 1 → v = e.g1 ++ e.g2) ∧ (y = 2 → v = e.mask) ∧ (y = 3 → v = e.share) ∧
        (y = 4 → rfld v 63 63 = rfld e.bucket 63 63 ∧ rfld v 54 0 = rfld e.bucket 54 0 ∧
          ∀ j, j < 9 → own (anc k j) → (∀ i, i < j → ¬own (anc k i)) →
            rfld v 62 55 = if anc k j = 0 then 0 else (s.ctx (anc k j)).bid % 256) ∧
        (y = 5 → v = e.power) ∧ (y = 8 → v = e.s1r) ∧
        ∀ i, i < 64 → (y = 6 ∨ y = 7) → (v.getLsbD i = true ↔ k = 0 ∨ ∃ x ∈ s.grants, x.2.recv = k ∧
          ∃ set excl, x.2.res = .cores set excl ∧ set.getLsbD (if y = 6 then i else 64 + i) = true))

/-- R310, R311, R314, R317, R318, R326, R331, R338, R339, R342. CONTEXT_FORM_COMPLETE for CTXNEW, CTXDLG, CTXRUN op 0,
CTXSTOP, CTXDEL and SHOOT: the tree as it is after, and the status word in s[RD]. What becomes of the work of a context that
ends is in the assumption log, entry 54. Says of each that it completes: contextFormComplete. -/
def Obligations.ContextTree : Prop :=
  ∀ (s : State) (f : Form) (c : Ctl) (sp : BitVec 4) (rd ra rb : BitVec 6) (n : Nat) (x v w : DWord), s.b.bound = true → s.b.forms = [f] →
    (∀ e ∈ s.banks, e.2.bound = true → e.2.forms = []) → s.settledBefore f.iss = true →
    let b0 := (s.draw.modB fun b => { b with forms := [] })
    let done (t : State) (st : Nat) : Prop := t.b = (b0.resS f.rd (.ofNat 64 st) 1).b
    let fails (code : Nat) : Prop := exec .contextFormComplete s = .next (b0.resS f.rd (.ofNat 64 (2 ^ 63 + code * 2 ^ 48)) 1)
    let mine (k : Nat) : Bool := s.within n 9 k
    let st := (s.ctx n).st
    let live := (s.ctxs.find n).isSome = true
    let pages (x : Shoot) : List Nat := [x.stage, x.ctx, x.base, x.npg]
    let posted (t : State) (q : Shoot) (stage ctx : Nat) : Prop := q.stage = stage ∧ q.ctx = ctx ∧
      t.shoots.map pages = s.shoots.map pages ++ [pages q] ∧ t.shoots.getLast? = some q
    (f.kind = .ctx (.ctxnew c rd ra) → f.ops = [x] → f.phase = 0 →
      ((∀ k, k < 4096 → (s.ctxs.find k).isSome = true) → fails 1) ∧
      (n < 4096 → s.ctxs.find n = none → (∀ k, k < n → (s.ctxs.find k).isSome = true) → 8 ≤ (s.ctx s.b.ctx).depth → fails 2) ∧
      (n < 4096 → s.ctxs.find n = none → (∀ k, k < n → (s.ctxs.find k).isSome = true) → (s.ctx s.b.ctx).depth < 8 →
        ∃ (t : State) (e : Ctx), exec .contextFormComplete s = .next t ∧ done t n ∧ t.ctxs.find n = some e ∧ e.st = .new ∧
          e.depth = (s.ctx s.b.ctx).depth + 1 ∧ e.parent = s.b.ctx ∧ e.mask = 0 ∧ e.g1 = 0 ∧ e.g2 = 0 ∧ e.s1r = x ∧ e.s2 = [] ∧
          e.share = 0 ∧ e.power = 0 ∧ e.bucket = 0 ∧ (∀ k, k ≠ n → t.ctxs.find k = s.ctxs.find k) ∧ t.grants = s.grants ∧ t.mem = s.mem)) ∧
    (f.kind = .ctx (.ctxdlg c rd ra rb) → f.ops = [v, w] → f.phase = 0 → v.toNat = n → live →
      ∃ t : State, exec .contextFormComplete s = .next t ∧ done t 0 ∧ (t.ctx n) = { s.ctx n with mask := w } ∧
        (∀ k, k ≠ n → t.ctxs.find k = s.ctxs.find k) ∧ t.mem = s.mem) ∧
    (f.kind = .ctx (.ctxrunRun c rd ra rb) → f.ops = [v, w] → f.phase = 0 → v.toNat = n → rfld w 3 0 = 0 → live →
      (st ≠ .new → st ≠ .stopped → fails 8) ∧
      (st = .new ∨ st = .stopped → ∃ t : State, exec .contextFormComplete s = .next t ∧ done t 0 ∧
        (∀ k e, s.ctxs.find k = some e → t.ctxs.find k = some (if mine k = true ∧ (e.st = .new ∨ e.st = .stopped) then
          { e with st := .run } else e)) ∧ t.saved = s.saved ∧ t.mem = s.mem)) ∧
    (f.kind = .ctx (.ctxstop c sp rd ra) → ∀ ps, f.ops = v :: ps → ps.length = 4 → v.toNat = n → live →
      (f.phase = 0 → st ≠ .run → fails 8) ∧
      (f.phase = 0 → st = .run → ∃ t : State, exec .contextFormComplete s = .next t ∧
        (∀ k e, s.ctxs.find k = some e → mine k = true → e.st = .run → ∃ e', t.ctxs.find k = some e' ∧ e'.st = .stopping) ∧
        (∀ k e, s.ctxs.find k = some e → mine k = false → t.ctxs.find k = some e) ∧
        (∀ b ∈ t.bound, mine b.ctx = true → b.preempt = true) ∧ t.b.forms.map (·.phase) = [2] ∧ t.mem = s.mem) ∧
      (f.phase = 2 → ps.head? = some 0 → s.allSaved n = true → ∃ t : State, exec .contextFormComplete s = .next t ∧ done t 0 ∧
        (∀ k e, s.ctxs.find k = some e → mine k = true → e.st = .stopping → ∃ e', t.ctxs.find k = some e' ∧ e'.st = .stopped) ∧
        (∀ k e, s.ctxs.find k = some e → mine k = false → t.ctxs.find k = some e) ∧ t.mem = s.mem) ∧
      (f.phase = 2 → s.allSaved n = false → exec .contextFormComplete s = .next s.draw.settleStops)) ∧
    (f.kind = .ctx (.ctxdel c rd ra) → f.ops = [v] → f.phase = 0 → v.toNat = n → live → s.grants = [] → mine s.b.ctx = false →
      (st = .run ∨ st = .stopping → fails 8) ∧
      (st ≠ .run → st ≠ .stopping → (∀ b ∈ s.bound, mine b.ctx = false) → ∃ t : State, exec .contextFormComplete s = .next t ∧
        (∀ k, t.ctxs.find k = if mine k = true then none else s.ctxs.find k) ∧ (∀ e ∈ t.saved, mine e.1.ctx = false) ∧
        (∀ r ∈ t.recs, mine r.ctx = false) ∧ (∀ e ∈ t.snaps, mine e.2.ctx = false) ∧ (∀ e ∈ t.objs, mine e.2.ctx = false) ∧
        t.b.forms.map (·.ops) = [[0]] ∧ t.mem = s.mem)) ∧
    (f.kind = .ctx (.shoot c rd ra rb) → f.ops = [v, w] → f.phase = 0 → (s.ctxs.find s.b.ctx).isSome = true →
      ∃ (t : State) (q : Shoot), exec .contextFormComplete s = .next t ∧ (t.ctx s.b.ctx).g1 = (s.ctx s.b.ctx).g1 + 1 ∧
        posted t q 1 s.b.ctx ∧ q.base = v.toNat ∧ q.npg = w.toNat ∧ q.bank = some s.b.uid ∧
        t.b.forms.map (·.ops) = [[((s.ctx s.b.ctx).g1 + 1).setWidth 64]]) ∧
    (∀ i, f.kind = .ctx i → f.phase = 1 → f.ops = [v] →
      ((∀ q ∈ s.shoots, q.bank ≠ some s.b.uid) → ∃ t : State, exec .contextFormComplete s = .next t ∧ done t v.toNat) ∧
      ((∃ q ∈ s.shoots, q.bank = some s.b.uid) → exec .contextFormComplete s = .next s.draw.settleStops))

/-- R314, R319 to R322, R328, R329, R337. CONTEXT_FORM_COMPLETE for CTXCORE, CTXMEM, CTXQ, CTXBUD and CTXREV: what a grant
records and maps, with the lowest free id in the status word and the failing codes, what a budget becomes, and what a
revocation takes back. Says of each that it completes: contextFormComplete. -/
def Obligations.Grants : Prop :=
  ∀ (s : State) (f : Form) (c : Ctl) (sp : BitVec 4) (rd ra : BitVec 6) (n id : Nat) (v p0 p1 p2 p3 : DWord), s.b.bound = true →
    s.b.forms = [f] → (∀ e ∈ s.banks, e.2.bound = true → e.2.forms = []) → s.settledBefore f.iss = true → f.phase = 0 →
    (s.ctxs.find n).isSome = true → v.toNat = n → n ≠ s.b.ctx →
    let me := s.b.ctx
    let b0 := (s.draw.modB fun b => { b with forms := [] })
    let done (t : State) (st : Nat) : Prop := t.b = (b0.resS f.rd (.ofNat 64 st) 1).b
    let fails (code : Nat) : Prop := exec .contextFormComplete s = .next (b0.resS f.rd (.ofNat 64 (2 ^ 63 + code * 2 ^ 48)) 1)
    let free := id < 65536 ∧ s.grants.find id = none ∧ ∀ k, k < id → (s.grants.find k).isSome = true
    let pages (x : Shoot) : List Nat := [x.stage, x.ctx, x.base, x.npg]
    let posted (t : State) (q : Shoot) (stage ctx : Nat) : Prop := q.stage = stage ∧ q.ctx = ctx ∧
      t.shoots.map pages = s.shoots.map pages ++ [pages q] ∧ t.shoots.getLast? = some q
    let records (t : State) (g : Grant) : Prop := t.grants.find id = some g ∧ ∀ k, k ≠ id → t.grants.find k = s.grants.find k
    (f.kind = .ctx (.ctxcore c sp rd ra) → f.ops = [v, p0, p1, p2, p3] → free →
      let set : BitVec 128 := p1 ++ p0
      let held := ∀ k, k < 128 → set.getLsbD k = true → s.holdsCore me k = true ∧
        ∀ e ∈ s.grants, e.2.giver = me → ∀ x, e.2.res = .cores x true → x.getLsbD k = false
      (¬held → fails 4) ∧
      (held → me = 0 → ∃ t : State, exec .contextFormComplete s = .next t ∧ done t id ∧
        records t ⟨0, n, none, .cores set (p2.getLsbD 0)⟩ ∧ t.ctxs = s.ctxs ∧ t.mem = s.mem) ∧
      (held → me ≠ 0 → (∀ e ∈ s.grants, e.2.recv = me → ∀ x y, e.2.res = .cores x y → set &&& x ≠ set) → fails 5) ∧
      (∀ pre post gid gv sr y ex, held → me ≠ 0 → s.grants = pre ++ (gid, ⟨gv, me, sr, .cores y ex⟩) :: post → set &&& y = set →
        (∀ e ∈ pre, e.2.recv = me → ∀ x z, e.2.res = .cores x z → set &&& x ≠ set) → ∃ t : State,
        exec .contextFormComplete s = .next t ∧ done t id ∧ records t ⟨me, n, some gid, .cores set (p2.getLsbD 0)⟩ ∧
        t.ctxs = s.ctxs ∧ t.mem = s.mem)) ∧
    (f.kind = .ctx (.ctxmem c sp rd ra) → f.ops = [v, p0, p1, p2, p3] → free → me = 0 → p2.toNat < 2 ^ 32 →
      (∀ e ∈ s.grants, e.2.recv ≠ 0) →
      let base := p0.toNat / 65536
      let rbase := p1.toNat / 65536
      base + p2.toNat ≤ 2 ^ 36 → rbase + p2.toNat ≤ 2 ^ 36 →
      ((∃ i, i < p2.toNat ∧ ((s.ctx n).s2.find (rbase + i)).isSome = true) → fails 6) ∧
      ((∀ i, i < p2.toNat → (s.ctx n).s2.find (rbase + i) = none) →
        ∃ (t : State) (q : Shoot), exec .contextFormComplete s = .next t ∧
        (∀ i, i < p2.toNat → ∃ l, (t.ctx n).s2.find (rbase + i) = some l ∧ l.frame = base + i ∧ l.rp = p3.getLsbD 63 ∧
          l.wp = p3.getLsbD 62 ∧ l.conf = p3.getLsbD 61 ∧ l.em.toNat = rfld p3 60 55 ∧ l.dt = p3.getLsbD 54 ∧ l.d = false ∧ l.grant = id) ∧
        (∀ k, (k < rbase ∨ rbase + p2.toNat ≤ k) → (t.ctx n).s2.find k = (s.ctx n).s2.find k) ∧ (t.ctx n).g2 = (s.ctx n).g2 + 1 ∧
        (∃ r, records t r ∧ r.giver = 0 ∧ r.recv = n ∧ r.src = none) ∧ posted t q 2 n ∧
        q.base = rbase * 65536 ∧ q.npg = p2.toNat ∧ t.b.forms.map (·.ops) = [[.ofNat 64 id]])) ∧
    (∀ (lf : Nat → Leaf2), f.kind = .ctx (.ctxmem c sp rd ra) → f.ops = [v, p0, p1, p2, p3] → free → me ≠ 0 → p2.toNat < 2 ^ 32 →
      let base := p0.toNat / 65536
      let rbase := p1.toNat / 65536
      let inside (g : Grant) : Prop := g.recv = me ∧ ∃ fb rb k rp wp cf em dt, g.res = .mem fb rb k rp wp cf em dt ∧ rb ≤ base ∧
        base + p2.toNat ≤ rb + k
      base + p2.toNat ≤ 2 ^ 36 → rbase + p2.toNat ≤ 2 ^ 36 →
      ((∃ i, i < p2.toNat ∧ (s.ctx me).s2.find (base + i) = none) → fails 4) ∧
      ((∀ i, i < p2.toNat → (s.ctx me).s2.find (base + i) = some (lf i)) → (∀ i, i < p2.toNat → (s.ctx n).s2.find (rbase + i) = none) →
        ((∀ e ∈ s.grants, ¬inside e.2) → fails 5) ∧
        ∀ pre post gid g fb rb k rp wp cf em dt, s.grants = pre ++ (gid, g) :: post → inside g → g.res = .mem fb rb k rp wp cf em dt →
          (∀ e ∈ pre, ¬inside e.2) → s.grants.find gid = some g →
          let fits := (p3.getLsbD 63 = true → rp = true) ∧ (p3.getLsbD 62 = true → wp = true) ∧
            (∀ j, j < 6 → p3.getLsbD (55 + j) = true → em.getLsbD j = true) ∧
            (p3.getLsbD 61 = false → ∀ i, i < p2.toNat → (lf i).conf = false)
          (¬fits → fails 7) ∧
          (fits → ∃ (t : State) (q : Shoot), exec .contextFormComplete s = .next t ∧
            (∀ i, i < p2.toNat → ∃ l, (t.ctx n).s2.find (rbase + i) = some l ∧ l.frame = (lf i).frame ∧ l.rp = p3.getLsbD 63 ∧
              l.wp = p3.getLsbD 62 ∧ l.conf = p3.getLsbD 61 ∧ l.em.toNat = rfld p3 60 55 ∧ l.grant = id) ∧
            (∃ r, records t r ∧ r.giver = me ∧ r.recv = n ∧ r.src = some gid) ∧ posted t q 2 n ∧
            q.base = rbase * 65536 ∧ q.npg = p2.toNat ∧ t.b.forms.map (·.ops) = [[.ofNat 64 id]]))) ∧
    (f.kind = .ctx (.ctxq c sp rd ra) → f.ops = [v, p0, p1, p2, p3] → free → rfld p0 63 60 ≤ 1 → p1.toNat < 2 ^ 32 →
      let kind := rfld p0 63 60
      let first := rfld p0 15 0
      let key (k : Nat) : Nat := if kind = 0 then k else 65536 + k
      let held := first + p1.toNat ≤ (if kind = 0 then 320 else 1024) ∧ ∀ i, i < p1.toNat → s.qOwner.get 0 (key (first + i)) = me
      let covers (g : Grant) : Prop := g.recv = me ∧ ∃ a m, g.res = .queues kind a m ∧ a ≤ first ∧ first < a + m
      0 < p1.toNat → (¬held → fails 4) ∧
      (held → ∃ t : State, exec .contextFormComplete s = .next t ∧ done t id ∧
        (∃ src, records t ⟨me, n, src, .queues kind first p1.toNat⟩ ∧ (me = 0 → src = none) ∧
          ∀ pre post gid g, me ≠ 0 → s.grants = pre ++ (gid, g) :: post → covers g → (∀ e ∈ pre, ¬covers e.2) → src = some gid) ∧
        (∀ k, t.qOwner.get 0 k = if ∃ i, i < p1.toNat ∧ k = key (first + i) then n else s.qOwner.get 0 k) ∧ t.mem = s.mem)) ∧
    (f.kind = .ctx (.ctxbud c sp rd ra) → f.ops = [v, p0, p1, p2, p3] →
      (s.ctx n).bucket.getLsbD 63 = false → p1.getLsbD 63 = false →
      let g := s.ctx me
      let above := rfld g.share 10 0 < rfld p0 10 0 ∨ rfld g.power 15 4 < rfld p2 15 4 ∨ rfld g.power 2 0 < rfld p2 2 0
      (above → fails 7) ∧
      (¬above → ∃ t : State, exec .contextFormComplete s = .next t ∧ done t 0 ∧ (t.ctx n).share = p0 ∧ (t.ctx n).power = p2 ∧
        (t.ctx n).bucket = 0 ∧ (∀ k e, s.ctxs.find k = some e → k ≠ n → s.within n 9 k = false → t.ctxs.find k = some e) ∧
        (∀ k e, s.ctxs.find k = some e → k ≠ n → s.within n 9 k = true → ∃ e', t.ctxs.find k = some e' ∧
          rfld e'.share 10 0 = min (rfld e.share 10 0) (rfld p0 10 0) ∧ rfld e'.power 2 0 = min (rfld e.power 2 0) (rfld p2 2 0)))) ∧
    (∀ g base rbase npg rp wp conf em dt, f.kind = .ctx (.ctxrev c rd ra) → f.ops = [p0] → p0.toNat = id → s.grants.find id = some g →
      g.recv = n → g.res = .mem base rbase npg rp wp conf em dt → (∀ k, k ≠ id → s.grants.find k = none) → (s.ctx n).depth < 9 →
      g.src = none →
      ∃ (t : State) (q : Shoot), exec .contextFormComplete s = .next t ∧ (∀ k, t.grants.find k = none) ∧
        (∀ k l, (t.ctx n).s2.find k = some l → l.grant ≠ id ∧ (k, l) ∈ (s.ctx n).s2) ∧ (t.ctx n).g2 = (s.ctx n).g2 + 1 ∧
        posted t q 2 n ∧ t.b.forms.map (·.ops) = [[0]]) ∧
    (∀ (set : BitVec 128) (excl : Bool), f.kind = .ctx (.ctxrev c rd ra) → f.ops = [p0] → p0.toNat = id →
      s.grants.find id = some ⟨me, n, none, .cores set excl⟩ → (∀ k g, k ≠ id → s.grants.find k = some g →
        (g.src = none ∨ g.src = some id) ∧ (s.ctx g.recv).depth < 9 ∧ ∃ x y, g.res = .cores x y) → (s.ctx n).depth < 9 → id < 65536 →
      ∃ t : State, exec .contextFormComplete s = .next t ∧ t.grants.find id = none ∧
        (∀ k g, k ≠ id → s.grants.find k = some g → t.grants.find k = if g.src = some id then none else some g) ∧
        (∀ b ∈ t.bound, set.getLsbD b.core = true → s.within n 9 b.ctx = true → b.preempt = true) ∧ t.mem = s.mem ∧
        (∀ b ∈ t.bound, ∃ b' ∈ s.bound, b.key = b'.key ∧ (b.preempt = true → b'.preempt = true ∨ set.getLsbD b.core = true ∨
          ∃ k g x y, k ≠ id ∧ s.grants.find k = some g ∧ g.src = some id ∧ g.res = .cores x y ∧ x.getLsbD b.core = true)) ∧
        t.b.forms.map (·.phase) = [1]) ∧
    (∀ kind first count giver, f.kind = .ctx (.ctxrev c rd ra) → f.ops = [p0] → p0.toNat = id → kind ≤ 1 →
      s.grants.find id = some ⟨giver, n, none, .queues kind first count⟩ → (∀ k, k ≠ id → s.grants.find k = none) →
      (s.ctx n).depth < 9 → id < 65536 →
      ∃ t : State, exec .contextFormComplete s = .next t ∧ (∀ k, t.grants.find k = none) ∧ t.mem = s.mem ∧
        ∀ q, t.qOwner.get 0 q = if ∃ i, i < count ∧ q = (if kind = 0 then first + i else 65536 + (first + i)) then giver
          else s.qOwner.get 0 q)

/-- R336, R343. A reply lets the bank that waits for it go on: RETRY at its bundle, SKIP at the next, and REFUSE stops its
context; one that names no record fails with NOREC. CTXSAVE of a context that is not STOPPED fails, and so does one whose
record exceeds the capacity; the end of a save sets VALID. A restore of a record fills the saved banks. The bank of a refused
trap and the state of a restored context: assumption log, entries 57 and 53. Says of each that it completes:
contextFormComplete. -/
def Obligations.RepliesAndSaves : Prop :=
  ∀ (s : State) (f : Form) (c : Ctl) (sp : BitVec 4) (rd ra rb : BitVec 6) (v w p0 p1 p2 p3 : DWord) (r : Rec) (k n : Nat) (x : Bank),
    s.b.bound = true → s.b.forms = [f] → (∀ e ∈ s.banks, e.2.bound = true → e.2.forms = []) → s.settledBefore f.iss = true → f.phase ≠ 1 →
    let b0 := (s.draw.modB fun b => { b with forms := [] })
    let done (t : State) (st : Nat) : Prop := t.b = (b0.resS f.rd (.ofNat 64 st) 1).b
    let fails (code : Nat) : Prop := exec .contextFormComplete s = .next (b0.resS f.rd (.ofNat 64 (2 ^ 63 + code * 2 ^ 48)) 1)
    let op := rfld w 3 0
    let reply := f.kind = .ctx (.ctxrunRun c rd ra rb) ∨ f.kind = .ctx (.ctxrunRetry c rd ra rb) ∨
      f.kind = .ctx (.ctxrunRefuse c rd ra rb) ∨ f.kind = .ctx (.ctxrunSkip c rd ra rb)
    let save := f.kind = .ctx (.ctxsaveSave c sp rd ra) ∨ f.kind = .ctx (.ctxsaveRestore c sp rd ra)
    (reply → f.ops = [v, w] → 1 ≤ op → op ≤ 3 → s.recs = [] → fails 13) ∧
    (reply → f.ops = [v, w] → f.phase = 0 → s.recs = [r] → r.written = true → r.holder = s.b.ctx → r.tid = rfld w 63 48 → k ≠ s.b.key →
      s.banks = [(k, x)] → x.key = k → x.bound = true → x.uid = r.uid → x.ctx = r.ctx → r.uid ≠ 0 → s.b.uid ≠ r.uid →
      x.halted = some (.reply r.cause) → x.open_ = false → r.waits = true → r.cause.num ≠ 2 → r.cause.num ≠ 6 → r.cause.num ≠ 7 →
      r.cause.kind = .before → x.len ≠ 0 → x.fall ≠ 0 → 1 ≤ op → op ≤ 3 →
      s.within r.ctx 9 s.b.ctx = false →
      ∃ (t : State) (y : Bank), exec .contextFormComplete s = .next t ∧ done t 0 ∧ t.recs = [] ∧ t.bank? k = some y ∧ x.SameRegs y ∧
        (op = 1 → y.halted = none ∧ y.pc = x.pc ∧ y.wx = 0) ∧ (op = 3 → y.halted = none ∧ y.pc = x.fall) ∧
        (op = 2 → y.halted = some .gone ∧ ((s.ctxs.find r.ctx).isSome = true → (s.ctx r.ctx).st = .run → (t.ctx r.ctx).st = .stopping))) ∧
    (save → f.ops = [v, p0, p1, p2, p3] → f.phase = 0 → v.toNat = n → p2.getLsbD 0 = false → s.saved = [] →
      ((s.ctx n).st ≠ .stopped → fails 8) ∧ ((s.ctx n).st = .stopped → p1.toNat < 256 → fails 14)) ∧
    (save → f.ops = [v, p0, p1, p2, p3] → f.phase = 0 → v.toNat = n → p2.getLsbD 0 = true →
      ¬((s.ctx n).st = .new ∧ ∀ e ∈ s.ctxs, e.1 ≠ n → s.within n 9 e.1 = false) → fails 8) ∧
    (∀ l, save → f.ops = [v, p0, p1, p2, p3] → f.phase = 2 → v.toNat = n → p2.getLsbD 0 = false → s.saved = [] → p0.toNat % 64 = 0 →
      p0.toNat + 16 < 2 ^ 56 → s.draw.translate (.k 0) true s.b.ctx (p0.toNat + 16) = .ok l → s.unlinked l (p0.toNat + 16) = false → s.draw.portWaits okraQ l (p0.toNat + 16) = false →
      Tlb.ver l = false → ∃ t : State, exec .contextFormComplete s = .next t ∧ done t 256 ∧
        t.gNat (Leaf.pa l (p0.toNat + 16)) 8 = 1) ∧
    (∀ (u : State) (h : List Byte) (u' : State) (body : List Byte), save → f.ops = [v, p0, p1, p2, p3] → f.phase = 0 → v.toNat = n → p2.getLsbD 0 = true → (s.ctxs.find n).isSome = true →
      s.draw.getAll (4 * f.col) s.b.snapTs p0.toNat 256 = .ok (u, h) →
      u.getAll (4 * f.col) s.b.snapTs (p0.toNat + 256) (leNat ((h.drop 8).take 8) - 256) = .ok (u', body) →
      let good := (s.ctx n).st = .new ∧ (∀ e ∈ s.ctxs, e.1 ≠ n → s.within n 9 e.1 = false) ∧ leNat ((h.drop 16).take 8) = 1 ∧
        fld (leNat (h.take 8)) 31 16 = 1 ∧ fld (leNat (h.take 8)) 15 0 = 0 ∧ leNat ((h.drop 24).take 32) = s.feat.toNat
      (¬good → ∃ t : State, exec .contextFormComplete s = .next t ∧ done t (2 ^ 63 + 8 * 2 ^ 48) ∧ t.saved = s.saved ∧ t.live = s.live ∧
        t.mem = s.mem) ∧
      (good → ∃ t : State, exec .contextFormComplete s = .next t ∧ (t.ctx n).st = .stopped ∧ t.mem = s.mem ∧
        t.saved.length = s.saved.length + leNat ((h.drop 96).take 8) ∧ (∀ e ∈ t.saved, e ∈ s.saved ∨ e.1.ctx = n) ∧
        (∃ l : Launch, t.live = s.live ++ [l] ∧ l.ctx = n) ∧
        ∀ e ∈ t.saved, e ∈ s.saved ∨ ∀ x ∈ e.1.queues, ∀ p ∈ x.2.pkts, p.iss < e.1.iss)) ∧
    (save → f.ops = [v, p0, p1, p2, p3] → f.phase = 0 → v.toNat = n → p2.getLsbD 0 = true → (s.ctx n).st = .new →
      (∀ e ∈ s.ctxs, e.1 ≠ n → s.within n 9 e.1 = false) → s.draw.getAll (4 * f.col) s.b.snapTs p0.toNat 256 = .error none →
      exec .contextFormComplete s = .next s.draw)

/-- R323, R325, R334, R413, R414. S1R_WRITE advances G1 and posts a shoot-down of all of stage 1; TRR_WRITE takes the ring,
off when LN is outside 4 to 12; SHOOTDOWN_PROCESS takes the entry at the head of the ring in memory, advances SDH and writes
the entry's generation with V clear (while the ring is disabled, the device's oldest entry: the model's choice, assumption
log, entry 84), after which no TLB holds a translation that it names, and a wait for a change of S1R ends. Says of each that
it completes: s1rWrite, trrWrite, shootdownProcess. -/
def Claims.TranslationMoves : Prop :=
  ∀ (s : State) (n : Nat) (v : DWord) (q : Shoot) (qs : List Shoot), (s.ctxs.find n).isSome = true →
    (s.bound.all (fun b => b.forms.isEmpty) = true → ∃ (t : State) (p : Shoot), exec (.s1rWrite n v) s = .next t ∧
      (t.ctx n).s1r = v &&& 0x000FFFFFFFF00000 ∧ (t.ctx n).g1 = (s.ctx n).g1 + 1 ∧
      (t.ctx n).s1rOld = some (((s.ctx n).s1rOld).getD (s.ctx n).s1r) ∧ t.shoots.getLast? = some p ∧
      t.shoots.length = s.shoots.length + 1 ∧ p.stage = 1 ∧ p.ctx = n ∧ p.npg = 0 ∧
      (p.lap = true ↔ ∃ x ∈ s.shoots, x.ctx = n ∧ x.stage ≠ 1) ∧ t.b = s.b ∧ t.banks = s.banks) ∧
    (s.bound.all (fun b => b.pend.isEmpty) = true → ∃ t : State, exec (.trrWrite n v) s = .next t ∧
      (t.ctx n).trr = (let u := v &&& 0x80FFFFFFFFFFF00F
        if 4 ≤ rfld v 3 0 ∧ rfld v 3 0 ≤ 12 then u else u &&& 0x7FFFFFFFFFFFFFFF) ∧
      (∀ k, k ≠ n → t.ctxs.find k = s.ctxs.find k) ∧ t.b = s.b ∧ t.mem = s.mem) ∧
    let dropped (t : State) (stage ctx base npg : Nat) : Prop := (∀ x ∈ t.tlb, x ∈ s.tlb) ∧ (∀ x ∈ t.nests, x ∈ s.nests) ∧
      (∀ x ∈ t.tlb, x.leaf.ctx = ctx → npg ≠ 0 ∧ ((if stage = 1 then x.leaf.page else x.leaf.cpage) < base / 65536 ∨
        base / 65536 + npg ≤ if stage = 1 then x.leaf.page else x.leaf.cpage)) ∧
      (stage = 2 → ∀ x ∈ t.nests, x.ctx = ctx → npg ≠ 0 ∧ (x.cpage < base / 65536 ∨ base / 65536 + npg ≤ x.cpage)) ∧
      (∀ x ∈ s.tlb, x.leaf.ctx ≠ ctx → x ∈ t.tlb) ∧ (∀ x ∈ s.nests, x.ctx ≠ ctx → x ∈ t.nests) ∧
      (stage = 1 → npg = 0 → (s.ctxs.find ctx).isSome = true → (t.ctx ctx).s1rOld = none) ∧ t.b = s.b
    (s.sdr.getLsbD 63 = false → s.shoots = q :: qs → q.slot = none → q.bank = none → s.shotAt q.stage q.ctx q.base q.npg = false →
      ∃ t : State, exec .shootdownProcess s = .next t ∧ t.shoots = qs ∧ dropped t q.stage q.ctx q.base q.npg ∧ t.mem = s.mem) ∧
    (s.sdr.getLsbD 63 = true → s.shoots = [] →
      let ring := rfld s.sdr 51 5 * 32
      let slot := ring + 32 * (s.sdh.toNat % 2 ^ rfld s.sdr 59 56)
      let e := s.gNat slot 8
      let base := s.gNat (slot + 8) 8
      let npg := s.gNat (slot + 16) 8
      let stage := fld e 62 61
      let c := fld e 43 32
      (e < 2 ^ 63 → exec .shootdownProcess s = .next s) ∧
      (2 ^ 63 ≤ e → fld e 60 44 = 0 → stage = 1 ∨ stage = 2 → base < 2 ^ 56 → base % 65536 = 0 → npg < 2 ^ 32 →
        s.gNat (slot + 24) 8 = 0 → s.shotAt stage c base npg = false → (s.ctxs.find c).isSome = true →
        ∃ t : State, exec .shootdownProcess s = .next t ∧ t.sdh = s.sdh + 1 ∧ t.shoots = [] ∧ dropped t stage c base npg ∧
          t.gNat slot 8 = e % 2 ^ 63 / 2 ^ 32 * 2 ^ 32 + (if stage = 1 then (t.ctx c).g1 else (t.ctx c).g2).toNat ∧
          (stage = 1 → (t.ctx c).g1 = (s.ctx c).g1 + 1) ∧ (stage = 2 → (t.ctx c).g2 = (s.ctx c).g2 + 1) ∧
          (∀ a, (a < s.canon slot ∨ s.canon slot + 8 ≤ a) → t.mem.read a = s.mem.read a)))

/-- R333 to R335. TRAP_RECORD_WRITE: the record goes to the next slot of an enabled ring with room, field by field, the
doorbell behind the ring is advanced, TRT advances, and the record waits for its reply under a TID; with the ring full it
waits, and so it does while a write of it or of the doorbell waits, and where its write faults the ring is off and the record
goes further up. Says of each that it completes: trapRecordWrite. -/
def Claims.TrapRecordWritten : Prop :=
  ∀ (s : State) (r : Rec), s.recs = [r] → r.written = false → (s.ctxs.find r.holder).isSome = true →
    let h := r.holder
    let x := s.ctx h
    let n := 2 ^ rfld x.trr 3 0
    let base := rfld x.trr 55 12 * 4096
    let at_ := base + 64 * (x.trt.toNat % n)
    let word0 := x.tid * 2 ^ 48 + r.cause.num * 2 ^ 40 + r.ctx * 2 ^ 28 + r.bank * 2 ^ 17 + r.cause.rfl.toNat * 2 ^ 16
    let anc (k : Nat) : Nat := Nat.repeat (fun m => (s.ctx m).parent) (k + 1) h
    let fit (k : Nat) : Prop := k = 0 ∨ (s.ctx k).mask.getLsbD r.cause.num = true ∧ rfld (s.ctx k).trr 63 63 = 1
    let w := s.draw.okraPut h at_ (toBytes 8 word0 ++ toBytes 8 r.pc.toNat ++ toBytes 8 r.cause.ead.toNat ++
      toBytes 8 r.cause.edt.toNat ++ toBytes 8 (r.g1.toNat * 2 ^ 32 + r.g2.toNat) ++ List.replicate 24 0)
    let bell := w.1.okraAdd h (base + 64 * n) 1
    rfld x.trr 63 63 = 1 → x.tid < 65536 → r.cause.num < 256 → r.ctx < 4096 → r.bank < 2048 → base + 64 * n < 2 ^ 56 →
    (n ≤ (x.trt - x.trh).toNat → exec .trapRecordWrite s = .next s.draw) ∧
    (∀ u, (x.trt - x.trh).toNat < n → w.2.2 = true → bell = .ok u → ∃ t : State, exec .trapRecordWrite s = .next t ∧
      t.mem = u.mem ∧ t.remote = u.remote ∧ (t.ctx h).trt = x.trt + 1 ∧ t.recs = [{ r with written := true, tid := x.tid }] ∧ t.b = s.b) ∧
    ((x.trt - x.trh).toNat < n → s.draw.okraWaits h at_ (r.bytes x.tid) = true → exec .trapRecordWrite s = .next s.draw) ∧
    ((x.trt - x.trh).toNat < n → w.2.2 = true → bell = .wait → exec .trapRecordWrite s = .next s.draw) ∧
    ((x.trt - x.trh).toNat < n → s.draw.okraWaits h at_ (r.bytes x.tid) = false → w.2.2 = false → ∃ (t : State) (q : Rec), exec .trapRecordWrite s = .next t ∧
      rfld (t.ctx h).trr 63 63 = 0 ∧ (t.ctx h).trt = x.trt ∧ t.recs = [q] ∧ q.written = false ∧ q.cause = r.cause ∧ (h = 0 → q.holder = 0) ∧ fit q.holder ∧
      ∀ k, k < 9 → h ≠ 0 → anc k ≠ h → fit (anc k) → (∀ j, j < k → ¬fit (anc j)) → q.holder = anc k)

/-- Roots, rings and shoot-downs; the writing of a trap record. -/
def Obligations.TranslationAndTrapRecords : Prop :=
  Claims.TranslationMoves ∧ Claims.TrapRecordWritten

/-- R402, R403, R405, R413. The registers that the host's drivers write: UQN, in the function whose context holds the queue
(a doorbell page is numbered 1024 times the function's number plus the queue's), publishes packets; UQD0 takes EN, PMAX, LN
and BASE, with an LN outside 4 to 15 read back as 4, and UQD1 nothing; a change of a descriptor or doorbell of a locked or
running function's queue moves its TDI to ERROR (which changes count: assumption log, entry 59). SDR takes its fields. The
same writes arrive through BAR0 and BAR2 (where those stand: assumption log, entry 30). Says of each that it completes:
uqnNotify, uqdWrite, sdrWrite. -/
def Claims.HostRegisters : Prop :=
  ∀ (s : State) (fn q : Nat) (hi : Bool) (w : BitVec 32) (v : DWord),
    let uq (t : State) (n : Nat) : Uq := t.uqs.get ⟨0, 0, 0, none⟩ n
    let vf := s.vfOf (s.qOwner.get 0 (65536 + q))
    let calm : Prop := ∀ n, vf = some n → s.tdis.get .unlocked n = .unlocked ∨ s.tdis.get .unlocked n = .error
    (q < 1024 → fn = vf.getD 0 → calm → ∃ t : State, exec (.uqnNotify (1024 * fn + q) w) s = .next t ∧ uq t q = { uq s q with widx := w } ∧
      (∀ n, n ≠ q → uq t n = uq s n) ∧ t.b = s.b ∧ t.mem = s.mem ∧ t.ctxs = s.ctxs ∧ t.tdis = s.tdis) ∧
    (q < 1024 → fn ≠ vf.getD 0 → exec (.uqnNotify (1024 * fn + q) w) s = .next s) ∧
    (∀ n c, q < 1024 → vf = some n → s.vfs.find n = some c → s.tdis.get .unlocked n = .locked ∨ s.tdis.get .unlocked n = .run →
      ∃ t : State, exec (.uqnNotify (1024 * n + q) w) s = .next t ∧ t.tdis.get .unlocked n = .error ∧
        (∀ m, m ≠ n → t.tdis.get .unlocked m = s.tdis.get .unlocked m)) ∧
    (∀ r : HostReq, r.write = true →
      (r.vf = 0 → q < 1024 → r.addr = 2 ^ 60 + 0x100000 + 16 * q →
        exec (.hostMemoryAccess r) s = exec (.uqdWrite q false (.ofNat 64 (leNat r.data))) s) ∧
      (r.vf = 0 → r.addr = 2 ^ 60 + 0x1000 → exec (.hostMemoryAccess r) s = exec (.sdrWrite (.ofNat 64 (leNat r.data))) s) ∧
      (q < 1024 → r.addr = 2 ^ 61 + 4096 * q →
        exec (.hostMemoryAccess r) s = exec (.uqnNotify (1024 * r.vf + q) (.ofNat 32 (leNat r.data))) s) ∧
      (1024 ≤ q → r.addr = 2 ^ 61 + 4096 * q → exec (.hostMemoryAccess r) s = .next s)) ∧
    (q < 1024 → hi = false → calm → ∃ t : State, exec (.uqdWrite q hi v) s = .next t ∧ (∀ n, n ≠ q → uq t n = uq s n) ∧
      (uq t q).ridx = (uq s q).ridx ∧ (uq t q).widx = (uq s q).widx ∧
      t.barRead (0x100000 + 16 * q) = (if 4 ≤ rfld v 59 56 then v &&& 0xFFFFFFFFFFFFFFC0
        else v &&& 0xF0FFFFFFFFFFFFC0 ||| 0x0400000000000000) ∧ t.tdis = s.tdis ∧ t.b = s.b ∧ t.mem = s.mem) ∧
    (∀ n c, q < 1024 → hi = false → vf = some n → s.vfs.find n = some c →
      s.tdis.get .unlocked n = .locked ∨ s.tdis.get .unlocked n = .run →
      ∃ t : State, exec (.uqdWrite q hi v) s = .next t ∧ t.tdis.get .unlocked n = .error ∧
        (∀ m, m ≠ n → t.tdis.get .unlocked m = s.tdis.get .unlocked m)) ∧
    (hi = true ∨ 1024 ≤ q → exec (.uqdWrite q hi v) s = .next s) ∧
    (∃ t : State, exec (.sdrWrite v) s = .next t ∧ t.barRead 0x1000 = v &&& 0x8F0FFFFFFFFFFFE0 ∧ t.b = s.b ∧ t.mem = s.mem)

/-- R344, R401, R402. Functions: VF_ENABLE names a depth-1 context for a virtual function; a TDI is locked from
CONFIG_UNLOCKED, started from CONFIG_LOCKED and stopped from everywhere; a function-level reset leaves the function's context
NEW with its grants, without descendants, banks, saved banks or waiting work, and every other context as it was. The work and
the ring of the contexts that end: assumption log, entries 54 and 60. Says of each that it completes: vfEnable, tdispRequest,
functionLevelReset. -/
def Claims.Functions : Prop :=
  ∀ (s : State) (vf n : Nat) (c : Ctx) (req : TdiReq),
    (1 ≤ vf → vf ≤ 255 → s.ctxs.find n = some c → c.depth = 1 → ∃ t : State, exec (.vfEnable vf n) s = .next t ∧
      t.vfs.find vf = some n ∧ (∀ k, k ≠ vf → t.vfs.find k = s.vfs.find k) ∧ t.ctxs = s.ctxs ∧ t.b = s.b ∧ t.mem = s.mem) ∧
    (s.vfs.find vf = some n → ∃ t : State, exec (.tdispRequest vf req) s = .next t ∧
      t.tdis.get .unlocked vf = (match req, s.tdis.get .unlocked vf with
        | .lock, .unlocked => .locked
        | .start, .locked => .run
        | .stop, _ => .unlocked
        | _, x => x) ∧
      (∀ k, k ≠ vf → t.tdis.get .unlocked k = s.tdis.get .unlocked k) ∧ t.b = s.b ∧ t.mem = s.mem ∧ t.ctxs = s.ctxs) ∧
    (s.vfs.find vf = some n → s.ctxs.find n = some c → s.banks = [] → s.b.bound = true → s.b.forms = [] →
      (∀ e ∈ s.grants, e.2.recv ≠ n → s.within n 9 e.2.recv = false) →
      let mine (k : Nat) : Bool := s.within n 9 k
      ∃ t : State, exec (.functionLevelReset vf) s = .next t ∧ t.ctxs.find n = some { c with st := .new } ∧ t.grants = s.grants ∧
        (∀ k, k ≠ n → t.ctxs.find k = if mine k then none else s.ctxs.find k) ∧
        (mine s.b.ctx = true → t.b.bound = false ∧ t.b.queues = [] ∧ t.b.pend = []) ∧ (∀ e ∈ t.saved, mine e.1.ctx = false) ∧
        (∀ l ∈ t.live, mine l.ctx = false) ∧ (∀ r ∈ t.recs, mine r.ctx = false) ∧
        (∀ k u, (k, u) ∈ t.uqs → mine (s.qOwner.get 0 (65536 + k)) = true → u.widx = u.ridx ∧ u.since = none) ∧
        t.mem = s.mem ∧ t.remote = s.remote)

/-- Registers of the host link, virtual functions and TDIs. -/
def Obligations.HostRegistersAndFunctions : Prop :=
  Claims.HostRegisters ∧ Claims.Functions

/-- R387, R402, R419, R422. A read of the host on device memory answers the bytes as they stand, a write puts them there and
changes no other byte; what the function may not reach is a completer abort, a page that a CONF leaf of either stage maps,
outside a running TDI's own stream, above all, and so is everything before the start is done. On a versioned page a write
keeps what a live snapshot reads (the model's reading: assumption log, entry 109). Says of each that it completes:
hostMemoryAccess. -/
def Claims.HostMemory : Prop :=
  ∀ (s : State) (r : HostReq), r.addr < 2 ^ 60 →
    let last (t : State) (abort poison : Bool) (data : List Byte) : Prop :=
      t.hostOut = s.hostOut ++ [⟨s.hostOut.length, abort, poison, data⟩]
    let n := if r.write then r.data.length else r.len
    let conf (pa : Nat) : Prop := s.confFrame (pa / 65536) = true
    let plain (pa : Nat) : Prop := s.frameWith 54 (pa / 65536) = false
    let trusted : Prop := r.vf ≠ 0 ∧ r.tee = true ∧ s.tdis.get .unlocked r.vf = .run
    (s.stst.getLsbD 63 = false → ∃ t : State, exec (.hostMemoryAccess r) s = .next t ∧ last t true false [] ∧ t.mem = s.mem) ∧
    (s.stst.getLsbD 63 = true → s.hostPa r.vf r.addr r.write = none → ∃ t : State,
      exec (.hostMemoryAccess r) s = .next t ∧ last t true false [] ∧ t.mem = s.mem) ∧
    (∀ pa, s.stst.getLsbD 63 = true → s.hostPa r.vf r.addr r.write = some pa → pa % 65536 + n ≤ 65536 →
      (conf pa → ¬trusted → ∃ t : State, exec (.hostMemoryAccess r) s = .next t ∧ last t true false [] ∧ t.mem = s.mem) ∧
      (¬conf pa ∨ trusted → r.write = false → (∀ i, i < n → s.inPool (pa + i) = false) → ∃ (t : State) (bad : Bool), exec (.hostMemoryAccess r) s = .next t ∧
        last t false bad ((List.range n).map fun i => s.gByte (pa + i)) ∧ t.mem = s.mem ∧ t.b = s.b) ∧
      (∀ x i, ¬conf pa ∨ trusted → r.write = true → x ∈ s.liveSnaps → s.poolRoom 1 = true → pa % 128 + n ≤ 128 → 0 < n → pa < 2 ^ 39 →
        ¬plain pa → i < 128 → ∃ t : State, exec (.hostMemoryAccess r) s = .next t ∧
          t.verByte (pa / 128 * 128 + i) (some x.ts) = s.verByte (pa / 128 * 128 + i) (some x.ts)) ∧
      (¬conf pa ∨ trusted → r.write = true → plain pa → ∃ t : State, exec (.hostMemoryAccess r) s = .next t ∧
        (∀ i (h : i < r.data.length), t.gByte (pa + i) = r.data[i]) ∧
        (∀ a, (∀ i, i < r.data.length → s.canon a ≠ s.canon (pa + i)) → t.gByte a = s.gByte a) ∧ t.b = s.b ∧ s.SameShares t)) ∧
    (∀ pa, (∃ e ∈ s.ctxs, ∃ l ∈ e.2.s2, l.2.frame = pa / 65536 ∧ l.2.conf = true) → conf pa) ∧
    (∀ pa i j, i < 2 ^ 17 → j < 512 →
      let t0 := rfld (s.ctx 0).s1r 51 20 * 2 ^ 20
      let e0 := s.gNat (t0 + 8 * i) 8
      let t1 := fld e0 51 8 * 256
      let e1 := s.gNat (t1 + 8 * j) 8
      s.ctxs.find 0 = some (s.ctx 0) → t0 + 8 * i < 2 ^ 39 → t1 + 8 * j < 2 ^ 39 → e0.testBit 63 = true → e0.testBit 5 = false →
      tableOk 0 e0 = true → e1.testBit 63 = true → e1.testBit 5 = true → leafOk 1 e1 = true → e1.testBit 53 = true →
      fld e1 51 16 ≤ pa / 65536 → pa / 65536 * 65536 < fld e1 51 16 * 65536 + 2 ^ 30 → conf pa)

/-- R219, R401, R402. The AtomicOps of the host, each one read-modify-write of an aligned dword at its home under its
function, answered with the old value; one that its function may not make is a completer abort. Says of each that it
completes: fetchadd, swap, cas. -/
def Claims.HostAtomics : Prop :=
  ∀ (s : State) (r : AtomicReq) (pa : Nat) (x y : DWord),
    let old := s.gNat pa 8
    let does (i : Instr) (new : Nat) : Prop := ∃ t : State, exec i s = .next t ∧ t.gNat pa 8 = new ∧
      (∀ a, (∀ i, i < 8 → s.canon a ≠ s.canon (pa + i)) → t.gByte a = s.gByte a) ∧
      t.hostOut = s.hostOut ++ [⟨s.hostOut.length, false, false, toBytes 8 old⟩] ∧ t.b = s.b ∧ s.SameShares t
    let aborts (i : Instr) : Prop := exec i s = .next { s with hostOut := s.hostOut ++ [⟨s.hostOut.length, true, false, []⟩] }
    let conf := s.confFrame (pa / 65536) = true
    let trusted : Prop := r.vf ≠ 0 ∧ r.tee = true ∧ s.tdis.get .unlocked r.vf = .run
    (s.hostPa r.vf r.addr true = none → aborts (.fetchadd r x) ∧ aborts (.swap r x) ∧ aborts (.cas r x y)) ∧
    (s.hostPa r.vf r.addr true = some pa → s.stst.getLsbD 63 = false ∨ pa % 8 ≠ 0 ∨ s.hostPa r.vf r.addr false = none ∨ (conf ∧ ¬trusted) →
      aborts (.fetchadd r x) ∧ aborts (.swap r x) ∧ aborts (.cas r x y)) ∧
    (s.hostPa r.vf r.addr true = some pa → s.hostPa r.vf r.addr false ≠ none → s.stst.getLsbD 63 = true → pa % 8 = 0 → ¬conf ∨ trusted →
      s.gPoison pa = false → s.frameWith 54 (pa / 65536) = false → (∀ i, i < 8 → s.inPool (pa + i) = false) →
      does (.fetchadd r x) ((old + x.toNat) % 2 ^ 64) ∧ does (.swap r x) x.toNat ∧
      does (.cas r x y) (if old = x.toNat then y.toNat else old))

/-- R401, R420. Every SPDM request of the table is answered after a start, by one answer that changes nothing else, and
measurements carry MR0 to MR7 in order; before a start there is none. Says of each that it completes: getVersion,
getCapabilities, negotiateAlgorithms, getDigests, getCertificate, challenge, getMeasurements, keyExchange, finish. -/
def Claims.Attestation : Prop :=
  ∀ (s : State),
    let mr (n : Nat) : List Byte := toBytes 64 (s.mrs.get 0 n).toNat
    let answers (i : Instr) (front : List Byte) : Prop :=
      (s.stst.getLsbD 63 = true → ∃ rest, exec i s = .next { s with
        hostOut := s.hostOut ++ [⟨s.hostOut.length, false, false, front ++ rest⟩] }) ∧
      (s.stst.getLsbD 63 = false → exec i s = .next s)
    answers .getVersion [] ∧ answers .getCapabilities [] ∧ answers .negotiateAlgorithms [] ∧ answers .getDigests [] ∧
    answers .getCertificate [] ∧ answers .challenge [] ∧ answers .keyExchange [] ∧ answers .finish [] ∧
    answers .getMeasurements (mr 0 ++ mr 1 ++ mr 2 ++ mr 3 ++ mr 4 ++ mr 5 ++ mr 6 ++ mr 7)

/-- Host memory accesses, AtomicOps and attestation. -/
def Obligations.HostAccesses : Prop :=
  Claims.HostMemory ∧ Claims.HostAtomics ∧ Claims.Attestation

/-- R255, R404 to R407, R409, R411, R412. The packets of a queue after a start: each, with its fields sound and its
conditions met, is carried out and then consumed, with its status, its handle and its completion; one that fails is consumed
with the code of its first failing check. A LAUNCH that finds its queue full waits and is not consumed, and where a read or
write of Okra waits, nothing happens. That every access of a packet is made in one move is the model's (assumption log,
entries 62, 72). Says of each that it completes: launchPacket, loadPacket, unloadPacket, graphPacket, replyPacket. -/
def Claims.HostPackets : Prop :=
  ∀ (s w : State) (q pri : Nat) (p : QPkt), s.stst.getLsbD 63 = true → s.draw.nextPkt q = some (w, p, none) → pri < 8 →
    let d (n : Nat) : Nat := p.dws.getD n 0
    let u := w.uqs.get ⟨0, 0, 0, none⟩ q
    let sound (type : Nat) : Prop := d 0 = 2 ^ 63 + type * 2 ^ 48 + pri * 2 ^ 45 ∧ d 2 % 8 = 0 ∧ d 2 < 2 ^ 56 ∧ d 7 = 0 ∧ pri ≤ rfld u.d0 62 60
    let ends (t : State) (code hnd detail x : Nat) : State :=
      ((t.consume q p code hnd detail).complete p.ctx (.ofNat 56 (d 2)) x).getD s.draw
    let failsIn (t : State) (i : Instr) (code detail x : Nat) : Prop := exec i s = .next (ends t code 0 detail x)
    let fails := failsIn w
    let waits (i : Instr) : Prop := exec i s = .next s.draw
    (sound 1 → d 3 = d 3 / 2 ^ 32 % 2 ^ 16 * 2 ^ 32 → d 4 = 0 →
      let h := d 3 / 2 ^ 32
      let known := (w.image p.ctx h true).isSome = true ∨ (w.graphs.find (65536 * p.ctx + h)).isSome = true
      let l := w.launchqs.get [] pri
      (¬known → fails (.launchPacket q) 8 0 (2 ^ 32)) ∧
      (known → l.length < 64 → w.waiters = [] → ∃ r : Launch, exec (.launchPacket q) s =
          .next ({ w with launchqs := w.launchqs.set [] pri (l ++ [r]) }.consume q p 0 0 0) ∧
        r.ctx = p.ctx ∧ r.hnd = h ∧ r.pri = pri ∧ r.args = [0, .ofNat 64 (d 5), .ofNat 64 (d 6)] ∧ r.compl = .ofNat 56 (d 2) ∧ r.bound = false) ∧
      (known → 64 ≤ l.length → ∃ t : State, exec (.launchPacket q) s = .next t ∧ t.launchqs = s.launchqs ∧ t.mem = s.mem ∧
        (t.uqs.get ⟨0, 0, 0, none⟩ q).ridx = u.ridx)) ∧
    (sound 2 → d 3 % 64 = 0 → d 3 < 2 ^ 56 → d 5 = 0 → d 6 = 0 →
      (w.okraGet p.ctx (d 3) (d 4) = .error none → waits (.loadPacket q)) ∧
      (∀ f, w.okraGet p.ctx (d 3) (d 4) = .error (some f) → fails (.loadPacket q) 11 f 1) ∧
      ∀ v bs, w.okraGet p.ctx (d 3) (d 4) = .ok (v, bs) →
        match v.checkObject p.ctx (d 3) bs with
        | .error (c, x) => failsIn v (.loadPacket q) c x 1
        | .ok x => match v.newHandle p.ctx (x.obj.kernels.length + 1) with
          | none => failsIn v (.loadPacket q) 6 0 1
          | some h => match v.putData p.ctx x.data with
            | .error none => waits (.loadPacket q)
            | .error (some f) => failsIn v (.loadPacket q) 11 f 1
            | .ok y => exec (.loadPacket q) s = .next (ends (State.modCtx { y with objs := y.objs.put (65536 * p.ctx + h) x.obj } p.ctx
                fun c => { c with hnd := h + x.obj.kernels.length + 1 }) 0 h 0 1)) ∧
    (sound 3 → d 3 = d 3 / 2 ^ 32 % 2 ^ 16 * 2 ^ 32 → d 4 = 0 → d 5 = 0 → d 6 = 0 →
      let k := 65536 * p.ctx + d 3 / 2 ^ 32
      (w.objs.find k = none → fails (.unloadPacket q) 8 0 1) ∧
      (∀ o, w.objs.find k = some o → o.live = true →
        (w.referenced k o = true → exec (.unloadPacket q) s =
          .next ({ w with objs := w.objs.put k { o with live := false, unload := some (.ofNat 56 (d 2)) } }.consume q p 9 (d 3 / 2 ^ 32) 0)) ∧
        (w.referenced k o = false → exec (.unloadPacket q) s = .next (ends { w with objs := w.objs.del k } 0 (d 3 / 2 ^ 32) 0 1)))) ∧
    (sound 4 → d 3 % 2 = 0 → d 3 < 2 ^ 56 → d 4 / 2 ^ 17 = 0 → 1 ≤ d 4 % 2 ^ 16 → d 4 % 2 ^ 16 ≤ 256 →
      d 5 = d 5 / 2 ^ 32 % 2 ^ 16 * 2 ^ 32 → d 6 = 0 → ∀ v bs, w.okraGet p.ctx (d 3) (2 * (d 4 % 2 ^ 16)) = .ok (v, bs) →
      let hs := (List.range (d 4 % 2 ^ 16)).map fun i => leNat ((bs.drop (2 * i)).take 2)
      let g := d 5 / 2 ^ 32
      ((∃ h ∈ hs, v.image p.ctx h true = none) → failsIn v (.graphPacket q) 8 0 1) ∧
      (∀ x, (∀ h ∈ hs, v.image p.ctx h true ≠ none) → g ≠ 0 → v.graphs.find (65536 * p.ctx + g) = some x →
        exec (.graphPacket q) s = .next (ends { v with graphs := v.graphs.put (65536 * p.ctx + g) { x with gens := x.gens ++ [hs] } } 0 g 0 1)) ∧
      (∀ h, (∀ h ∈ hs, v.image p.ctx h true ≠ none) → g = 0 → v.newHandle p.ctx 1 = some h →
        exec (.graphPacket q) s = .next (ends (State.modCtx { v with
            graphs := v.graphs.put (65536 * p.ctx + h) ⟨p.ctx, [hs], (d 4).testBit 16⟩ } p.ctx fun c => { c with hnd := h + 1 }) 0 h 0 1))) ∧
    (∀ op tid, sound 5 → op < 4 → tid < 65536 → d 3 = tid * 2 ^ 48 + op → d 4 = 0 → d 5 = 0 → d 6 = 0 →
      (op = 0 → exec (.replyPacket q) s = .next (ends (w.runCtx p.ctx).1 (rfld (w.runCtx p.ctx).2 55 48) 0 0 1)) ∧
      (op ≠ 0 → w.reply p.ctx tid (op - 1) = none → fails (.replyPacket q) 10 0 1) ∧
      (∀ t, op ≠ 0 → w.reply p.ctx tid (op - 1) = some t → exec (.replyPacket q) s = .next (ends t 0 0 0 1)))

/-- R35, R408 to R410. Okra's checks of an object give the code of the first that fails: its header (1), its signature (3),
its version or features (4), its symbols (5, with the least index that the namespace refuses), its kernels' claims (6) and
bounds (7). A name means its one strong definition, or else the one loaded first. -/
def Claims.ObjectChecks : Prop :=
  (∀ (s : State) (ctx va : Nat) (bs : List Byte),
    let at_ (o n : Nat) : Nat := leNat ((bs.drop o).take n)
    let feat : BitVec 256 := .ofNat 256 (at_ 8 32)
    let sound := 640 ≤ bs.length ∧ at_ 0 4 = 0x54534A5A ∧ 1 ≤ at_ 40 2 ∧ at_ 40 2 ≤ 64 ∧ at_ 42 6 = 0 ∧ at_ 96 32 = 0 ∧
      ∀ i, i < 6 → at_ (48 + 8 * i) 8 % 64 = 0 ∧ at_ (48 + 8 * i) 8 ≤ bs.length
    let signed : Bool := Config.signatureOk s.boot.keys bs
    let compat := at_ 4 2 = 1 ∧ at_ 6 2 = 0 ∧ feat &&& s.feat = feat
    let os := s.loaded ctx
    let strong (n : Nat) : Prop := ∃ o ∈ os, ∃ d ∈ o.defs, d.name = n ∧ d.weak = false
    let refused (i : Nat) : Prop := (∃ d ∈ Config.defs bs (.ofNat 56 va), d.index = i ∧ d.weak = false ∧ strong d.name) ∨
      ∃ r ∈ Config.refs bs, r.2 = i ∧ ∀ o ∈ os, ∀ d ∈ o.defs, d.name ≠ r.1
    let ks := (Config.kernels (patched bs (Config.patches bs ((Config.refs bs).filterMap fun r =>
      (symbolOf os r.1).map Prod.snd))) (.ofNat 56 va)).take (at_ 40 2)
    let x := s.checkObject ctx va bs
    (x = .error (1, 0) ↔ ¬sound) ∧ (x = .error (3, 0) ↔ sound ∧ signed = false) ∧
    (x = .error (4, 0) ↔ sound ∧ signed = true ∧ ¬compat) ∧
    (∀ i, x = .error (5, i) ↔ sound ∧ signed = true ∧ compat ∧ refused i ∧ ∀ j, j < i → ¬refused j) ∧
    (∀ i, x = .error (6, i) ↔ sound ∧ signed = true ∧ compat ∧ (∀ i, ¬refused i) ∧ (∃ k, ks[i]? = some k ∧ claimsOk k = false) ∧
      ∀ j y, j < i → ks[j]? = some y → claimsOk y = true) ∧
    (match x with
      | .error (c, _) => c ∈ [1, 3, 4, 5, 6, 7]
      | .ok y => sound ∧ signed = true ∧ compat ∧ (∀ i, ¬refused i) ∧ y.obj.ctx = ctx ∧ y.obj.kernels.length = ks.length ∧
        (∀ k ∈ y.obj.kernels, claimsOk k = true ∧ k.feat = feat) ∧ y.obj.live = true)) ∧
  ∀ (os : List Obj) (n : Nat),
    let all := os.flatMap fun o => o.defs.map fun d => (o.seq, d)
    (∀ pre e post, all = pre ++ e :: post → e.2.name = n → e.2.weak = false → (∀ x ∈ pre, x.2.name = n → x.2.weak = true) →
      symbolOf os n = some (e.1, e.2.value)) ∧
    (∀ pre e post, all = pre ++ e :: post → e.2.name = n → (∀ x ∈ pre, x.2.name ≠ n) → (∀ x ∈ all, x.2.name = n → x.2.weak = true) →
      symbolOf os n = some (e.1, e.2.value)) ∧
    ((∀ x ∈ all, x.2.name ≠ n) → symbolOf os n = none)

/-- R405, R406. A consumed packet advances its queue's RIDX and no other queue; nothing is read where no packet is published,
WIDX behind RIDX among them, and a slot with V = 0 stops the queue until its next notification. -/
def Claims.PacketsAreConsumed : Prop :=
  (∀ (s : State) (q : Nat) (p : QPkt) (code hnd detail : Nat),
    let t := s.consume q p code hnd detail
    let uq (t : State) (n : Nat) : Uq := t.uqs.get ⟨0, 0, 0, none⟩ n
    (uq t q).ridx = (uq s q).ridx + 1 ∧ (uq t q).widx = (uq s q).widx ∧ (∀ n, n ≠ q → uq t n = uq s n) ∧ t.b = s.b ∧
      t.banks = s.banks ∧ t.launchqs = s.launchqs ∧ t.objs = s.objs ∧ t.graphs = s.graphs ∧ s.SameShares t) ∧
  (∀ (s : State) (q : Nat), let u := s.uqs.get ⟨0, 0, 0, none⟩ q
    (u.ridx = u.widx ∨ u.d0.getLsbD 63 = false ∨ 2 ^ 31 ≤ (u.widx - u.ridx).toNat → ∀ i ∈ [Instr.launchPacket q, .loadPacket q, .unloadPacket q, .graphPacket q, .replyPacket q],
      exec i s = .next s.draw) ∧
    (∀ w p, s.stst.getLsbD 63 = true → s.draw.nextPkt q = some (w, p, none) → (p.dws.getD 0 0).testBit 63 = false →
      ∀ i ∈ [Instr.launchPacket q, .loadPacket q, .unloadPacket q, .graphPacket q, .replyPacket q],
        ∃ t : State, exec i s = .next t ∧ (t.uqs.get ⟨0, 0, 0, none⟩ q).widx = u.ridx ∧ (t.uqs.get ⟨0, 0, 0, none⟩ q).ridx = u.ridx ∧ t.mem = s.mem))

/-- R411. UNLOAD_COMPLETE: an unloaded object whose last reference has gone leaves, and its completion add is made. Says of
each that it completes: unloadComplete. -/
def Claims.UnloadCompletes : Prop :=
  ∀ (s : State) (k : Nat) (o : Obj) (va : BitVec 56), s.objs = [(k, o)] → o.unload = some va → s.draw.referenced k o = false →
    (va = 0 → exec .unloadComplete s = .next { s.draw with objs := [] }) ∧
    let d := ({ s.draw with objs := [] } : State)
    (∀ f, va ≠ 0 → va.toNat % 8 = 0 → (d.asFirm o.ctx).translate (.k 0) true o.ctx va.toNat true = .ok f →
      s.unlinked f va.toNat = false → (d.asFirm o.ctx).portWaits okraQ f va.toNat = false → Tlb.ver f = false →
      s.gPoison (Leaf.pa f va.toNat) = false → (∀ i, i < 8 → s.inPool (Leaf.pa f va.toNat + i) = false) →
      ∃ t : State, exec .unloadComplete s = .next t ∧ t.objs = [] ∧
        t.gNat (Leaf.pa f va.toNat) 8 = (s.gNat (Leaf.pa f va.toNat) 8 + 1) % 2 ^ 64 ∧ t.b = s.b ∧ s.SameShares t)

/-- The packets of a user queue, their consumption, and UNLOAD. -/
def Obligations.HostPackets : Prop :=
  Claims.HostPackets ∧ Claims.ObjectChecks ∧ Claims.PacketsAreConsumed ∧ Claims.UnloadCompletes

/-- R9, R374, R415, R418 to R420. A start with no failing step sets every register to its reset value, with only the root
context, DONE = 1, the package's number and die size from the configuration blob, and the measurements of its components; a
warm one keeps device memory and skips steps 4 and 5. At the first step that fails the start stops: STST holds its code and
DONE stays 0, and no context runs (what the other registers hold then the statement does not say: assumption log, entry 110).
A blob that the ROM does not accept is FAIL 1, a core-enable map with other than 16 cores on a die FAIL 2; without power
nothing runs. The start from outside and memory's contents are the model's (assumption log, entries 3, 19, 66, 79, 103). Says
of each that it completes: coldStart, warmStart, powerLoss. -/
def Claims.Starts : Prop :=
  ∀ (s : State),
    let fresh (t : State) : Prop := t.power = true ∧ t.bound = [] ∧ t.launchqs = [] ∧ t.taskqs = [] ∧ t.grants = [] ∧ t.objs = [] ∧
      t.uqs = [] ∧ t.vctr = 0 ∧ t.snaps = [] ∧ t.tokqs = [] ∧ t.micro = [] ∧ t.feat = 0xF ∧ t.wdl = 20000 ∧ t.clpol = 1360 ∧
      ∀ n, (t.cores.get .reset n).ydl = 16384 ∧ (t.cores.get .reset n).cur = 0 ∧ (t.cores.get .reset n).a = .zero ∧
        (t.cores.get .reset n).b = .zero
    let extend (mr : BitVec 512) (bs : List Byte) : BitVec 512 :=
      Config.sha512 (Boot.bytes 64 mr.toNat ++ Boot.bytes 64 (Config.sha512 bs).toNat)
    let done (t : State) (warm : Bool) : Prop := t.barRead 0x2010 = (if warm then 0xC000000000000000 else 0x8000000000000000) ∧
      rfld (t.barRead 0x2000) 7 0 = s.boot.field 40 2 % 256 ∧ rfld (t.barRead 0x2000) 15 8 = s.boot.field 42 2 % 256 ∧
      (∀ n, t.ctxs.find n = if n = 0 then some Ctx.root else none) ∧ Ctx.root.st = .run ∧
      t.mrs.get 0 0 = extend 0 (Boot.bytes 8752 s.boot.blob.toNat) ∧ t.mrs.get 0 2 = extend 0 (Boot.bytes 512 s.boot.fwKey.toNat) ∧
      ∀ n, 4 ≤ n → t.mrs.get 0 n = 0
    let failed (t : State) (warm : Bool) : Prop := t.ctxs = [] ∧ t.stst.getLsbD 63 = false ∧
      t.barRead 0x2010 = .ofNat 64 (s.boot.failed warm * 2 ^ 48 + (if warm then 2 ^ 62 else 0))
    let outcome (t : State) (warm : Bool) : Prop := if s.boot.failed warm = 0 then fresh t ∧ done t warm else failed t warm
    let fails (n : Nat) : Bool := s.boot.fails.contains n
    let cores (d : Nat) : Nat := ((List.range 18).filter fun i => (s.boot.enable d).getLsbD i).length
    (∃ t : State, exec .coldStart s = .next t ∧ outcome t false) ∧
    (s.power = true → ∃ t : State, exec .warmStart s = .next t ∧ outcome t true ∧ t.mem = s.mem) ∧
    (∀ warm, s.boot.failed warm = if s.boot.blobOk = false then 1 else if (List.range 8).any (fun d => cores d != 16) = true then 2
      else if fails 3 = true then 3 else if fails 4 = true ∧ warm = false then 4 else if fails 5 = true ∧ warm = false then 5
      else if fails 6 = true then 6 else 0) ∧
    (s.agenda = [] → ∃ t : State, exec .powerLoss s = .next t ∧ t.power = false ∧ t.bound = [] ∧ t.ctxs = [] ∧ t.mem = [] ∧
      step t = .fault .unpowered)

/-- R345, R374, R417, R422. An uncorrectable error kills the context that owns the bank slot and its subtree, with a record
above it; one of the root's, of the command processor or of Okra's tables (which the model numbers from 128 on) resets the
package, and one of a free slot has no owner. A flit that fails its check is replayed, and the ninth time its port goes down,
when an access on its way to another package faults with cause LINK if the port carried it, by a free choice, and the packet
then stands before that access; a good one shows its port up, and poison it carries reaches its line. Says of each that it
completes: sramUncorrectable, flitArrival. -/
def Claims.PackageErrors : Prop :=
  ∀ (s : State) (core port target n : Nat) (slotB bad : Bool),
    let owns (b : Bank) : Prop := b.bound = true ∧ b.core = core ∧ b.slotB = slotB
    let r := s.klp.get 0 port
    let others (t : State) : Prop := (∀ k, k ≠ port → t.klp.get 0 k = s.klp.get 0 k) ∧ t.b = s.b ∧ t.mem = s.mem ∧ t.ctxs = s.ctxs
    (core < 128 → (∀ b ∈ s.bound, ¬owns b) → exec (.sramUncorrectable core slotB) s = .next s.draw) ∧
    (128 ≤ core ∨ (∃ b, s.bound.find? (fun b => b.core == core && b.slotB == slotB) = some b ∧ b.ctx = 0) →
      ∃ t : State, exec (.sramUncorrectable core slotB) s = .next t ∧ t.mem = s.mem ∧ if s.boot.failed true = 0 then
        t.barRead 0x2010 = 0xC000000000000000 ∧ t.bound = [] else
        t.barRead 0x2010 = .ofNat 64 (s.boot.failed true * 2 ^ 48 + 2 ^ 62) ∧ t.ctxs = []) ∧
    (∀ o, core < 128 → s.bound.find? (fun b => b.core == core && b.slotB == slotB) = some o → s.bank? o.key = some o → o.ctx ≠ 0 →
      ∃ (t : State) (x : Rec), exec (.sramUncorrectable core slotB) s = .next t ∧ t.mem = s.mem ∧
        (∀ k c, s.ctxs.find k = some c → t.ctxs.find k = some (if s.within o.ctx 9 k then { c with st := .dead } else c)) ∧
        t.recs.getLast? = some x ∧ x.cause.num = 17 ∧ x.ctx = o.ctx ∧ x.holder = s.receiver o.ctx 17 ∧ x.waits = false) ∧
    (core < 128 → s.banks = [] → owns s.b → s.b.ctx ≠ 0 → ∃ t : State, exec (.sramUncorrectable core slotB) s = .next t ∧ t.b.bound = false ∧
      (∀ k c, s.ctxs.find k = some c → t.ctxs.find k = some (if s.within s.b.ctx 9 k then { c with st := .dead } else c)) ∧
      (∀ e ∈ t.saved, s.within s.b.ctx 9 e.1.ctx = false) ∧ t.grants = s.grants ∧ t.mem = s.mem ∧
      ∃ x, t.recs.getLast? = some x ∧ x.cause.num = 17 ∧ x.ctx = s.b.ctx ∧ x.holder = s.receiver s.b.ctx 17 ∧ x.waits = false) ∧
    (48 ≤ port → ∀ crc, exec (.flitArrival port crc bad target) s = .next s.draw) ∧
    (port < 48 → r.getLsbD 63 = true → 8 ≤ s.replays.get 0 port → ∃ t : State, exec (.flitArrival port false bad target) s = .next t ∧
      (t.klp.get 0 port).getLsbD 63 = false ∧ (∀ k, k ≠ port → t.klp.get 0 k = s.klp.get 0 k) ∧ t.mem = s.mem ∧ t.poison = s.poison) ∧
    (port < 48 → ∃ t : State, exec (.flitArrival port true bad target) s = .next t ∧ others t ∧
      (t.klp.get 0 port).getLsbD 63 = true ∧ rfld (t.klp.get 0 port) 31 0 = rfld r 31 0 ∧ t.replays.get 0 port = 0 ∧
      (bad = true → s.canon target / 128 ∈ t.poison) ∧ (bad = false → t.poison = s.poison)) ∧
    (port < 48 → r.getLsbD 63 = true → n = s.replays.get 0 port →
      (8 ≤ n → ∀ b ∈ s.bound, ∀ e ∈ b.queues, ∀ p ∈ e.2.pkts, p.posted = []) → ∃ t : State,
      exec (.flitArrival port false bad target) s = .next t ∧ others t ∧ t.poison = s.poison ∧
      (n < 8 → t.replays.get 0 port = n + 1 ∧ (t.klp.get 0 port).getLsbD 63 = true ∧
        rfld (t.klp.get 0 port) 31 0 = min (2 ^ 32 - 1) (rfld r 31 0 + 1)) ∧
      (8 ≤ n → (t.klp.get 0 port).getLsbD 63 = false ∧ rfld (t.klp.get 0 port) 31 0 = rfld r 31 0)) ∧
    (∀ (k : Nat) (q : Queue) (p : Pkt) (ps : List Pkt) (w : Posted) (ws : List Posted) (wr : Bool),
      port < 48 → r.getLsbD 63 = true → 8 ≤ s.replays.get 0 port → s.banks = [] → s.b.bound = true → s.b.queues = [(k, q)] →
      q.pkts = p :: ps → p.started = true → p.done = false → p.posted = w :: ws → foreign (s.canon (Leaf.pa w.leaf w.va)) = true →
      (wr = false ↔ p.rmw.isSome = true ∨ w.cred.isSome = true ∨ ∃ m, p.kind = .gld m) →
      let d : State := { s.draw with klp := s.klp.put port (setFld r 63 63 0), replays := s.replays.del port }
      let back (x : Pkt) : Pkt := if x.id = p.id then x.rewind w else x
      exec (.flitArrival port false bad target) s =
        .next (if d.pick 2 [417, port, s.b.key, k] = 0 then (d.setPkts k (q.pkts.map back)).copyFault k p.reg p.far.isSome (.of 6) wr w.va else d)) ∧
    (port < 48 → r.getLsbD 63 = false → exec (.flitArrival port false bad target) s = .next s.draw)

/-- Starts and loss of power; errors of memory and links. -/
def Obligations.StartsAndErrors : Prop :=
  Claims.Starts ∧ Claims.PackageErrors

/-- R362, R363, R366 to R368, R373. The agents of power and cooling: a settled point is in force and a point wanted since
then starts settling; a stretched cycle changes no state; a service handler that is due is entered where a bank of the core
stands at a boundary, and a program's state stays; a zone above 105 degrees holds every core of its die at point 0, until a
reading that is not above (assumption log, entry 67). Says of each that it completes: settleComplete, droopDetect,
handlerForcedEntry, thermalTrip. -/
def Claims.PowerAgents : Prop :=
  ∀ (s : State) (n zone temp : Nat),
    let c (t : State) (k : Nat) : Core := t.cores.get .reset k
    let x := c s n
    let rest (t : State) : Prop := t.b = s.b ∧ t.banks = s.banks ∧ t.mem = s.mem ∧ t.ctxs = s.ctxs ∧ t.agenda = s.agenda
    let here := (∀ b ∈ s.bound, b.core ≠ n) ∨ ∃ b ∈ s.bound, b.core = n ∧
      (b.open_ = false ∨ b.forms ≠ [] ∨ b.barr.isSome = true ∨ b.halted.isSome = true)
    (x.settling = true → ∃ t : State, exec (.settleComplete n) s = .next t ∧ rest t ∧ (∀ k, k ≠ n → c t k = c s k) ∧
      c t n = (if s.wantedPoint n = x.tgt then { x with cur := x.tgt, settling := false }
        else { x with cur := x.tgt, tgt := s.wantedPoint n, settling := true })) ∧
    (x.settling = false → exec (.settleComplete n) s = .next s) ∧
    exec (.droopDetect n) s = .next s ∧
    (∃ t : State, exec (.handlerForcedEntry n) s = .next t ∧ rest t ∧ (∀ k, k ≠ n → c t k = c s k) ∧
      (∀ a, here → x.handler = some a → a + max x.ydl.toNat 256 ≤ x.cyc → c t n = { x with handler := none }) ∧ (¬here → c t n = x) ∧
      (∀ a, x.handler = some a → x.cyc < a + max x.ydl.toNat 256 → c t n = x) ∧ (x.handler = none → c t n = x)) ∧
    (zone < 10 → temp < 65536 → ∃ t : State, exec (.thermalTrip zone temp) s = .next t ∧ rest t ∧
      rfld (t.zst.get 0 zone) 15 0 = temp ∧ rfld (t.zst.get 0 zone) 63 16 = rfld (s.zst.get 0 zone) 63 16 ∧
      (∀ k, k ≠ zone → t.zst.get 0 k = s.zst.get 0 k) ∧ (∀ k, k / 16 ≠ zone → c t k = c s k) ∧
      ∀ k, k / 16 = zone → (c t k).trip = decide (1680 < temp) ∧ (c t k).cur = (c s k).cur ∧ (c t k).a = (c s k).a ∧ (c t k).b = (c s k).b ∧
        (1680 < temp → (c s k).trip = false → (c s k).settling = false → (c t k).tgt = 0))

/-- R142, R416. The registers whose writes depend on state: CBC takes its value while the buffer is off and only EN while it
is on, and switching it off orphans the packets that had claimed its slots; VPOOL changes only while VCTR is 0. Says of each
that it completes: cbcWrite, vpoolWrite. -/
def Claims.GuardedRegisterWrites : Prop :=
  ∀ (s : State) (bank col buf : Nat) (v : DWord), s.b.key = bank → col < s.b.cols → buf < 8 →
    let i := 8 * col + buf
    let r (t : State) : DWord := t.b.cbc.get 0 i
    ∃ t : State, exec (.cbcWrite bank col buf v) s = .next t ∧ t.cores = s.cores ∧ t.mem = s.mem ∧ t.banks = s.banks ∧
      (∀ k, k ≠ i → t.b.cbc.get 0 k = s.b.cbc.get 0 k) ∧ t.b.cbs = s.b.cbs ∧ s.b.SameSystem t.b ∧
      ((r s).getLsbD 63 = false → r t = v &&& 0xFFFFFFC001FFFFC0 ∧ t.b.queues = s.b.queues) ∧
      ((r s).getLsbD 63 = true → v.getLsbD 63 = true → r t = r s ∧ t.b.queues = s.b.queues) ∧
      ((r s).getLsbD 63 = true → v.getLsbD 63 = false → r t = r s &&& 0x7FFFFFFFFFFFFFFF ∧
        ∀ e ∈ t.b.queues, e.1 / 4 = col → ∀ p ∈ e.2.pkts, p.kind = .cpyb → p.buf = buf → p.orphan = true) ∧
      (s.vctr = 0 → ∃ u : State, exec (.vpoolWrite v) s = .next u ∧ u.barRead 0x2008 = v &&& 0x7F ∧ u.b = s.b) ∧
      (s.vctr ≠ 0 → exec (.vpoolWrite v) s = .next s)

/-- R229, R364, R365. WATCHDOG_EXPIRY counts a bank's resident time, but for the time it awaits a reply, and at its limit,
once no commit is past its commit point, ends the bank with a record of cause WDOG to the search at its parent. GLD_FAULT
reports a GLD's fault: the bank's own context takes it as a trap at the next boundary, any other gets a record, and the bank
stops until the reply. Says of each that it completes: watchdogExpiry, gldFault. -/
def Claims.WatchdogAndLoadFaults : Prop :=
  ∀ (s : State) (bank us k : Nat) (q : Queue), s.b.key = bank →
    let x := s.ctx s.b.ctx
    let limit := max s.wdl.toNat 1 ≤ us ∨ x.st = .stopping ∧ 1000000 ≤ s.ns - x.stopAt
    let counted := s.modB fun b => { b with wdc := us }
    let stopped := ∃ c, s.b.halted = some (.reply c) ∨ s.b.halted = some (.fault c)
    (stopped → exec (.watchdogExpiry bank us) s = .next s) ∧
    (¬stopped → ¬limit ∨ s.b.committing = true → exec (.watchdogExpiry bank us) s = .next counted) ∧
    (s.b.bound = true → ¬stopped → s.b.committing = false → limit → ∃ (t : State) (r : Rec), exec (.watchdogExpiry bank us) s = .next t ∧ t.b.bound = false ∧
      t.recs = s.recs ++ [r] ∧ r.cause.num = 14 ∧ r.cause.edt = .ofNat 64 us ∧ r.ctx = s.b.ctx ∧ r.bank = bank ∧
      r.holder = s.receiver s.b.ctx 14 ∧ r.waits = false ∧ t.banks = s.banks ∧ t.mem = s.mem ∧ t.ctxs = s.ctxs) ∧
    (s.b.queues.find? (fun e => e.2.susp && !e.2.told) = some (k, q) →
      let d := s.b.kfr.get 0 k
      let c : Cause := ⟨6, rfld d 62 59, 6, k / 4, q.fa, d, false, .after, rfld d 62 59 == 7, some k⟩
      ∃ t : State, exec (.gldFault bank) s = .next t ∧ t.b.queues.get .empty k = { q with told := true } ∧ s.b.SameRegs t.b ∧ t.mem = s.mem ∧
        (s.takesOwn c = true → t.b.kindA = s.b.kindA ++ [c] ∧ t.b.halted = s.b.halted ∧ t.recs = s.recs) ∧
        (s.takesOwn c = false → t.b.halted = some (.fault c) ∧ ∃ r, t.recs = s.recs ++ [r] ∧ r.cause = c ∧ r.waits = true)) ∧
    ((∀ e ∈ s.b.queues, e.2.susp = true → e.2.told = true) → exec (.gldFault bank) s = .next s)

/-- R337, R342, R343, R370. SAVED_BANK_BIND at a place that Okra may choose: the saved bank is bound there with its
registers, its place in the program and its waits, alone on its share with the saved share; a power level it held is
requested again. Says of each that it completes: savedBankBind. -/
def Claims.SavedBanksResume : Prop :=
  ∀ (s : State) (idx : Nat) (p : Place) (b : Bank) (m : SlotMem), s.saved[idx]? = some (b, m) → b.streams = [] → p.col < 4 →
    let k := 8 * p.core + 2 * p.col + p.slotB.toNat
    (s.savedPlaceOk b m p = false → exec (.savedBankBind idx p) s = .next s) ∧
    (s.savedPlaceOk b m p = true → ∃ (t : State) (y : Bank), exec (.savedBankBind idx p) s = .next t ∧ t.saved = s.saved.eraseIdx idx ∧
      t.bank? k = some y ∧ b.SameRegs y ∧ y.pc = b.pc ∧ y.npc = b.npc ∧ y.depth = b.depth ∧ y.lc = b.lc ∧ y.li = b.li ∧ y.ls = b.ls ∧
      y.le = b.le ∧ y.esta = b.esta ∧ y.epc = b.epc ∧ y.tbr = b.tbr ∧ y.vsnp = b.vsnp ∧ y.holds = b.holds ∧ y.forms = b.forms ∧
      y.halted = b.halted ∧ y.uid = b.uid ∧ y.ctx = b.ctx ∧ y.core = p.core ∧ y.col = p.col ∧ y.slotB = p.slotB ∧
      y.pgr.getLsbD 63 = false ∧ (b.pgr.getLsbD 63 = true → (k, b.pgr.setWidth 16) ∈ t.pwrReqs) ∧
      (∀ n, n ≠ k → t.bank? n = s.bank? n) ∧ t.mem = s.mem ∧ t.ctxs = s.ctxs ∧
      ((∀ x ∈ s.bound, x.lnch ≠ b.lnch) → let z := (t.cores.get .reset p.core).slot p.slotB
        z.share = m.share ∧ z.tiles = m.tiles ∧ z.partw = m.partw))

/-- Power, cooling, guarded registers, the watchdog, load faults and saved banks. -/
def Obligations.PackageAgents : Prop :=
  Claims.PowerAgents ∧ Claims.GuardedRegisterWrites ∧ Claims.WatchdogAndLoadFaults ∧ Claims.SavedBanksResume
end

