-- ==== Sys2Proof/Laws/Encoding.lean ====
section
/-! SUPPORT. Packed fields: what is packed is unpacked again, and what a word of each kind is read as by its opcode. -/

namespace Sys2Proof

/-- Every value fits its field. -/
def fits (fs : List (Nat × Nat)) : Bool := fs.all fun f => decide (f.2 < 2 ^ f.1)

theorem pack_lt {fs : List (Nat × Nat)} (h : fits fs = true) : pack fs < 2 ^ widthOf (fs.map Prod.fst) := by
  induction fs with
  | nil => simp [pack, widthOf]
  | cons f fs ih =>
    obtain ⟨w, v⟩ := f
    simp only [fits, List.all_cons, Bool.and_eq_true, decide_eq_true_eq] at h
    have h1 := ih (by simpa [fits] using h.2)
    have h2 : widthOf (((w, v) :: fs).map Prod.fst) = w + widthOf (fs.map Prod.fst) := rfl
    rw [h2, Nat.pow_add]
    calc pack ((w, v) :: fs) = v * 2 ^ widthOf (fs.map Prod.fst) + pack fs := rfl
      _ < v * 2 ^ widthOf (fs.map Prod.fst) + 2 ^ widthOf (fs.map Prod.fst) := Nat.add_lt_add_left h1 _
      _ = (v + 1) * 2 ^ widthOf (fs.map Prod.fst) := (Nat.succ_mul _ _).symm
      _ ≤ 2 ^ w * 2 ^ widthOf (fs.map Prod.fst) := Nat.mul_le_mul_right _ h.1

/-- What stands above the fields is ignored. -/
theorem unpack_add (n m : Nat) (ws : List Nat) : unpack ws (n * 2 ^ widthOf ws + m) = unpack ws m := by
  induction ws generalizing n with
  | nil => rfl
  | cons a as ih =>
    have e : n * 2 ^ widthOf (a :: as) = n * 2 ^ a * 2 ^ widthOf as := by rw [Nat.mul_assoc, ← Nat.pow_add]; rfl
    simp only [unpack, e, ih]
    rw [Nat.add_comm, Nat.add_mul_div_right _ _ (Nat.two_pow_pos _), Nat.add_mul_mod_self_right]

theorem widthOf_append (vs ws : List Nat) : widthOf (vs ++ ws) = widthOf vs + widthOf ws := by
  induction vs with
  | nil => simp [widthOf]
  | cons v vs ih => simp only [List.cons_append, widthOf, List.foldr_cons] at ih ⊢; omega

theorem fits_append {fs gs : List (Nat × Nat)} (hf : fits fs = true) (hg : fits gs = true) : fits (fs ++ gs) = true := by
  simp only [fits, List.all_append, Bool.and_eq_true] at hf hg ⊢; exact ⟨hf, hg⟩

/-- The lowest field of several is what is packed in it. -/
theorem unpack_pack_append {gs : List (Nat × Nat)} (hg : fits gs = true) {k : Nat}
    (hk : widthOf (gs.map Prod.fst) = k) : ∀ {fs : List (Nat × Nat)}, fits fs = true →
    unpack (fs.map Prod.fst ++ [k]) (pack (fs ++ gs)) = fs.map Prod.snd ++ [pack gs]
  | [], _ => by
    subst hk
    show [pack gs / 2 ^ 0 % 2 ^ widthOf (gs.map Prod.fst)] = [pack gs]
    rw [Nat.pow_zero, Nat.div_one, Nat.mod_eq_of_lt (pack_lt hg)]
  | (w, v) :: fs, h => by
    simp only [fits, List.all_cons, Bool.and_eq_true, decide_eq_true_eq] at h
    have hf : fits fs = true := by simpa [fits] using h.2
    have ih := unpack_pack_append hg hk hf
    have hw : widthOf ((fs ++ gs).map Prod.fst) = widthOf (fs.map Prod.fst ++ [k]) := by
      rw [List.map_append, widthOf_append, widthOf_append, ← hk]; rfl
    have hlt := pack_lt (fits_append hf hg)
    rw [hw] at hlt
    simp only [List.map_cons, List.cons_append, unpack, pack, hw]
    rw [unpack_add, ih, Nat.add_comm, Nat.add_mul_div_right _ _ (Nat.two_pow_pos _), Nat.div_eq_of_lt hlt, Nat.zero_add,
      Nat.mod_eq_of_lt h.1]

/-- A field of one bit, wherever it stands. -/
theorem testBit_pack {ws fs gs : List (Nat × Nat)} {b k : Nat} {v : Bool} (hws : ws = fs ++ (1, b) :: gs)
    (hk : widthOf (gs.map Prod.fst) = k) (hg : fits gs = true) (hb : b < 2) (hv : (b == 1) = v) : (pack ws).testBit k = v := by
  subst hws hk hv
  have h1 : ∀ (c : Nat) (ws : List (Nat × Nat)), (pack ws).testBit c = (pack ws / 2 ^ c % 2 == 1) := fun c ws => by
    rw [Nat.testBit_eq_decide_div_mod_eq]; cases h : (pack ws / 2 ^ c % 2 == 1) <;> simp_all
  rw [h1]
  congr 1
  induction fs with
  | nil =>
    rw [List.nil_append, pack, Nat.add_comm, Nat.add_mul_div_right _ _ (Nat.two_pow_pos _), Nat.div_eq_of_lt (pack_lt hg),
      Nat.zero_add, Nat.mod_eq_of_lt hb]
  | cons f fs ih =>
    obtain ⟨w, v⟩ := f
    have e : widthOf ((fs ++ (1, b) :: gs).map Prod.fst) = widthOf (fs.map Prod.fst) + 1 + widthOf (gs.map Prod.fst) := by
      rw [List.map_append, widthOf_append, List.map_cons]; simp only [widthOf, List.foldr_cons]; omega
    rw [List.cons_append, pack, e, Nat.add_comm (v * _), Nat.pow_add, ← Nat.mul_assoc,
      Nat.add_mul_div_right _ _ (Nat.two_pow_pos _), Nat.pow_add, ← Nat.mul_assoc, Nat.pow_one, Nat.add_mul_mod_self_right, ih]

theorem unpack_pack {fs : List (Nat × Nat)} (h : fits fs = true) :
    unpack (fs.map Prod.fst) (pack fs) = fs.map Prod.snd := by
  induction fs with
  | nil => rfl
  | cons f fs _ =>
    rcases List.eq_nil_or_concat fs with rfl | ⟨gs, g, rfl⟩
    · obtain ⟨w, v⟩ := f
      simp only [fits, List.all_cons, Bool.and_eq_true, decide_eq_true_eq] at h
      simp [unpack, pack, widthOf, Nat.mod_eq_of_lt h.1]
    · obtain ⟨w, v⟩ := g
      simp only [List.concat_eq_append] at h ⊢
      have hs : fits (f :: gs) = true ∧ fits [(w, v)] = true := by
        simp only [fits, List.all_cons, List.all_append, Bool.and_eq_true] at h ⊢; exact ⟨⟨h.1, h.2.1⟩, h.2.2⟩
      have := unpack_pack_append hs.2 (k := w) (by simp [widthOf]) hs.1
      simpa [pack, widthOf] using this

@[simp] theorem bit_toNat (b : Bool) : bit b.toNat = b := by cases b <;> rfl

theorem fits_nil : fits [] = true := rfl
theorem fits_bv {n : Nat} (x : BitVec n) {fs : List (Nat × Nat)} (h : fits fs = true) : fits ((n, x.toNat) :: fs) = true := by
  simp only [fits, List.all_cons, Bool.and_eq_true, decide_eq_true_eq]; exact ⟨x.isLt, h⟩
theorem fits_bool (b : Bool) {fs : List (Nat × Nat)} (h : fits fs = true) : fits ((1, b.toNat) :: fs) = true := by
  simp only [fits, List.all_cons, Bool.and_eq_true, decide_eq_true_eq]; exact ⟨by cases b <;> decide, h⟩
theorem fits_num {n v : Nat} (hv : v < 2 ^ n) {fs : List (Nat × Nat)} (h : fits fs = true) : fits ((n, v) :: fs) = true := by
  simp only [fits, List.all_cons, Bool.and_eq_true, decide_eq_true_eq]; exact ⟨hv, h⟩

/-- A control word is read back from its fields. -/
theorem head_fits (c : Ctl) {w op : Nat} (h : op < 2 ^ w) :
    fits [(1, c.h.toNat), (w, op), (3, c.pf.toNat), (1, c.pi.toNat)] = true :=
  fits_bool _ (fits_num h (fits_bv _ (fits_bool _ fits_nil)))

/-- A syllable's word splits into its control word, its opcode and its operand field (R43). -/
theorem unpack_head (c : Ctl) {w op k : Nat} {fs : List (Nat × Nat)} (h : op < 2 ^ w) (hf : fits fs = true)
    (hk : widthOf (fs.map Prod.fst) = k) :
    unpack [1, w, 3, 1, k] (pack ([(1, c.h.toNat), (w, op), (3, c.pf.toNat), (1, c.pi.toNat)] ++ fs)) =
      [c.h.toNat, op, c.pf.toNat, c.pi.toNat, pack fs] := unpack_pack_append hf hk (head_fits c h)

theorem ctl_eta (c : Ctl) : (⟨bit c.h.toNat, .ofNat _ c.pf.toNat, bit c.pi.toNat⟩ : Ctl) = c := by simp

theorem raw_packS (c : Ctl) {op : Nat} {fs : List (Nat × Nat)} (h : op < 128) (hf : fits fs = true)
    (hk : widthOf (fs.map Prod.fst) = 20) : decodeRaw .s (packS c op fs) = rawS c op (pack fs) := by
  simp only [decodeRaw, packS, unpack_head c (w := 7) h hf hk, ctl_eta]

theorem raw_packL (c : Ctl) {op : Nat} {fs : List (Nat × Nat)} {sl : Slot} (hs : sl = .l ∨ sl = .w) (h : op < 32)
    (hf : fits fs = true) (hk : widthOf (fs.map Prod.fst) = 22) : decodeRaw sl (packL c op fs) = rawL c op (pack fs) := by
  rcases hs with rfl | rfl <;> simp only [decodeRaw, packL, unpack_head c (w := 5) h hf hk, ctl_eta]

theorem raw_packC (c : Ctl) {op : Nat} {fs : List (Nat × Nat)} (h : op < 64) (hf : fits fs = true)
    (hk : widthOf (fs.map Prod.fst) = 21) : decodeRaw .c (packC c op fs) = rawC c op (pack fs) := by
  simp only [decodeRaw, packC, unpack_head c (w := 6) h hf hk, ctl_eta]

theorem raw_packQ (c : Ctl) {op : Nat} {fs : List (Nat × Nat)} (h : op < 16) (hf : fits fs = true)
    (hk : widthOf (fs.map Prod.fst) = 23) : decodeRaw .q (packQ c op fs) = rawQ c op (pack fs) := by
  simp only [decodeRaw, packQ, unpack_head c (w := 4) h hf hk, ctl_eta]

theorem raw_packX (c : Ctl) {op : Nat} {fs : List (Nat × Nat)} (h : op < 64) (hf : fits fs = true)
    (hk : widthOf (fs.map Prod.fst) = 37) : decodeRaw .x (packX c op fs) = rawX c op (pack fs) := by
  simp only [decodeRaw, packX, unpack_head c (w := 6) h hf hk, ctl_eta]

theorem encode_of {i : Instr} {sl : Slot} {w : Nat} (h : encodeIn i = some (sl, w)) : encode i = w := by simp [encode, h]

/-- To read an instruction's word is to read the word that the encoder's arm gives. -/
theorem of_raw {i : Instr} {s₀ sl : Slot} {w : Nat} (h : encodeIn i = some (s₀, w)) (hr : decodeRaw sl w = some i) :
    decodeRaw sl (encode i) = some i := by rw [encode_of h]; exact hr

/-- A VCW splits into its opcode and its fields (R45). -/
theorem unpackVcw_packVcw {op : Nat} (h : op < 256) (e : Vcw) : unpackVcw (packVcw op e) = some (op, e) := by
  have hf : fits [(8, op), (5, e.fmt.toNat), (5, e.fmt2.toNat), (11, e.rd.toNat), (11, e.ra.toNat), (11, e.rb.toNat),
      (11, e.rc.toNat), (8, e.std.toNat), (8, e.sta.toNat), (8, e.stb.toNat), (8, e.stc.toNat), (3, e.pf.toNat),
      (1, e.pi.toNat), (1, e.lp.toNat), (2, e.rm.toNat), (1, e.sat.toNat), (1, e.nf.toNat), (1, e.tq.toNat),
      (1, e.sbe.toNat), (6, e.sbs.toNat), (16, e.imm.toNat), (129, 0)] = true :=
    fits_num h (fits_bv _ (fits_bv _ (fits_bv _ (fits_bv _ (fits_bv _ (fits_bv _ (fits_bv _ (fits_bv _ (fits_bv _ (fits_bv _
      (fits_bv _ (fits_bool _ (fits_bool _ (fits_bv _ (fits_bool _ (fits_bool _ (fits_bool _ (fits_bool _ (fits_bv _ (fits_bv _
      (fits_num (by decide) fits_nil)))))))))))))))))))))
  have hu := unpack_pack hf
  simp only [List.map_cons, List.map_nil] at hu
  simp only [unpackVcw, packVcw, hu, BitVec.ofNat_toNat, BitVec.setWidth_eq, bit_toNat]

theorem raw_packVcw {op : Nat} (h : op < 256) (e : Vcw) : decodeRaw .vcw (packVcw op e) = rawVcw e op := by
  simp only [decodeRaw, unpackVcw_packVcw h]

end Sys2Proof
end

