-- ==== Sys2Proof/Laws/State.lean ====
section
/-! SUPPORT. What each update of the state leaves in each field. -/

namespace Sys2Proof.Machine

open Sys2Proof

/-- A result changes nothing but what is in flight in the bank in focus (R68, R72). -/
theorem State.result_eq (s : State) (l : Loc) (v n d : Nat) (p : Bool) :
    ∃ (ps : List Pend) (fs : List Far), s.result l v n d p = { s with b := { s.b with pend := ps, fars := fs } } := by
  unfold State.result State.supersede Bank.supersede; exact ⟨_, _, rfl⟩

/-- What no result in flight can change is as before. -/
theorem State.result_keeps {α : Type} {s : State} {x : State → α} (l : Loc) (v n d : Nat) (p : Bool)
    (h : ∀ ps fs, x { s with b := { s.b with pend := ps, fars := fs } } = x s) : x (s.result l v n d p) = x s := by
  obtain ⟨ps, fs, e⟩ := s.result_eq l v n d p
  rw [e, h]

@[simp] theorem State.draw_b (s : State) : (s.draw).b = s.b := rfl
@[simp] theorem State.draw_banks (s : State) : (s.draw).banks = s.banks := rfl
@[simp] theorem State.draw_firm (s : State) : (s.draw).firm = s.firm := rfl
@[simp] theorem State.draw_cores (s : State) : (s.draw).cores = s.cores := rfl
@[simp] theorem State.draw_mem (s : State) : (s.draw).mem = s.mem := rfl
@[simp] theorem State.draw_remote (s : State) : (s.draw).remote = s.remote := rfl
@[simp] theorem State.draw_poison (s : State) : (s.draw).poison = s.poison := rfl
@[simp] theorem State.draw_vctr (s : State) : (s.draw).vctr = s.vctr := rfl
@[simp] theorem State.draw_snaps (s : State) : (s.draw).snaps = s.snaps := rfl
@[simp] theorem State.draw_vers (s : State) : (s.draw).vers = s.vers := rfl
@[simp] theorem State.draw_locks (s : State) : (s.draw).locks = s.locks := rfl
@[simp] theorem State.draw_ctxs (s : State) : (s.draw).ctxs = s.ctxs := rfl
@[simp] theorem State.draw_grants (s : State) : (s.draw).grants = s.grants := rfl
@[simp] theorem State.draw_tlb (s : State) : (s.draw).tlb = s.tlb := rfl
@[simp] theorem State.draw_nests (s : State) : (s.draw).nests = s.nests := rfl
@[simp] theorem State.draw_shoots (s : State) : (s.draw).shoots = s.shoots := rfl
@[simp] theorem State.draw_recs (s : State) : (s.draw).recs = s.recs := rfl
@[simp] theorem State.draw_cells (s : State) : (s.draw).cells = s.cells := rfl
@[simp] theorem State.draw_tickQ (s : State) : (s.draw).tickQ = s.tickQ := rfl
@[simp] theorem State.draw_tokqs (s : State) : (s.draw).tokqs = s.tokqs := rfl
@[simp] theorem State.draw_taskqs (s : State) : (s.draw).taskqs = s.taskqs := rfl
@[simp] theorem State.draw_launchqs (s : State) : (s.draw).launchqs = s.launchqs := rfl
@[simp] theorem State.draw_live (s : State) : (s.draw).live = s.live := rfl
@[simp] theorem State.draw_saved (s : State) : (s.draw).saved = s.saved := rfl
@[simp] theorem State.draw_parts (s : State) : (s.draw).parts = s.parts := rfl
@[simp] theorem State.draw_objs (s : State) : (s.draw).objs = s.objs := rfl
@[simp] theorem State.draw_graphs (s : State) : (s.draw).graphs = s.graphs := rfl
@[simp] theorem State.draw_uqs (s : State) : (s.draw).uqs = s.uqs := rfl
@[simp] theorem State.draw_qOwner (s : State) : (s.draw).qOwner = s.qOwner := rfl
@[simp] theorem State.draw_micro (s : State) : (s.draw).micro = s.micro := rfl
@[simp] theorem State.draw_rewrites (s : State) : (s.draw).rewrites = s.rewrites := rfl
@[simp] theorem State.draw_feat (s : State) : (s.draw).feat = s.feat := rfl
@[simp] theorem State.draw_wdl (s : State) : (s.draw).wdl = s.wdl := rfl
@[simp] theorem State.draw_clpol (s : State) : (s.draw).clpol = s.clpol := rfl
@[simp] theorem State.draw_zst (s : State) : (s.draw).zst = s.zst := rfl
@[simp] theorem State.draw_ns (s : State) : (s.draw).ns = s.ns := rfl
@[simp] theorem State.draw_tokens (s : State) : (s.draw).tokens = s.tokens := rfl
@[simp] theorem State.draw_pwrReqs (s : State) : (s.draw).pwrReqs = s.pwrReqs := rfl
@[simp] theorem State.draw_windows (s : State) : (s.draw).windows = s.windows := rfl
@[simp] theorem State.draw_pkgid (s : State) : (s.draw).pkgid = s.pkgid := rfl
@[simp] theorem State.draw_vpool (s : State) : (s.draw).vpool = s.vpool := rfl
@[simp] theorem State.draw_stst (s : State) : (s.draw).stst = s.stst := rfl
@[simp] theorem State.draw_klp (s : State) : (s.draw).klp = s.klp := rfl
@[simp] theorem State.draw_replays (s : State) : (s.draw).replays = s.replays := rfl
@[simp] theorem State.draw_mrs (s : State) : (s.draw).mrs = s.mrs := rfl
@[simp] theorem State.draw_sdr (s : State) : (s.draw).sdr = s.sdr := rfl
@[simp] theorem State.draw_sdh (s : State) : (s.draw).sdh = s.sdh := rfl
@[simp] theorem State.draw_tdis (s : State) : (s.draw).tdis = s.tdis := rfl
@[simp] theorem State.draw_vfs (s : State) : (s.draw).vfs = s.vfs := rfl
@[simp] theorem State.draw_hostOut (s : State) : (s.draw).hostOut = s.hostOut := rfl
@[simp] theorem State.draw_boot (s : State) : (s.draw).boot = s.boot := rfl
@[simp] theorem State.draw_power (s : State) : (s.draw).power = s.power := rfl
@[simp] theorem State.draw_agenda (s : State) : (s.draw).agenda = s.agenda := rfl
@[simp] theorem State.draw_cur (s : State) : (s.draw).cur = s.cur := rfl
@[simp] theorem State.draw_fresh (s : State) : (s.draw).fresh = s.fresh + 1 := rfl

@[simp] theorem State.modB_b (s : State) (f : Bank → Bank) : (s.modB f).b = f s.b := rfl
@[simp] theorem State.modB_banks (s : State) (f : Bank → Bank) : (s.modB f).banks = s.banks := rfl
@[simp] theorem State.modB_firm (s : State) (f : Bank → Bank) : (s.modB f).firm = s.firm := rfl
@[simp] theorem State.modB_cores (s : State) (f : Bank → Bank) : (s.modB f).cores = s.cores := rfl
@[simp] theorem State.modB_mem (s : State) (f : Bank → Bank) : (s.modB f).mem = s.mem := rfl
@[simp] theorem State.modB_remote (s : State) (f : Bank → Bank) : (s.modB f).remote = s.remote := rfl
@[simp] theorem State.modB_poison (s : State) (f : Bank → Bank) : (s.modB f).poison = s.poison := rfl
@[simp] theorem State.modB_vctr (s : State) (f : Bank → Bank) : (s.modB f).vctr = s.vctr := rfl
@[simp] theorem State.modB_snaps (s : State) (f : Bank → Bank) : (s.modB f).snaps = s.snaps := rfl
@[simp] theorem State.modB_vers (s : State) (f : Bank → Bank) : (s.modB f).vers = s.vers := rfl
@[simp] theorem State.modB_locks (s : State) (f : Bank → Bank) : (s.modB f).locks = s.locks := rfl
@[simp] theorem State.modB_ctxs (s : State) (f : Bank → Bank) : (s.modB f).ctxs = s.ctxs := rfl
@[simp] theorem State.modB_grants (s : State) (f : Bank → Bank) : (s.modB f).grants = s.grants := rfl
@[simp] theorem State.modB_tlb (s : State) (f : Bank → Bank) : (s.modB f).tlb = s.tlb := rfl
@[simp] theorem State.modB_nests (s : State) (f : Bank → Bank) : (s.modB f).nests = s.nests := rfl
@[simp] theorem State.modB_shoots (s : State) (f : Bank → Bank) : (s.modB f).shoots = s.shoots := rfl
@[simp] theorem State.modB_recs (s : State) (f : Bank → Bank) : (s.modB f).recs = s.recs := rfl
@[simp] theorem State.modB_cells (s : State) (f : Bank → Bank) : (s.modB f).cells = s.cells := rfl
@[simp] theorem State.modB_tickQ (s : State) (f : Bank → Bank) : (s.modB f).tickQ = s.tickQ := rfl
@[simp] theorem State.modB_tokqs (s : State) (f : Bank → Bank) : (s.modB f).tokqs = s.tokqs := rfl
@[simp] theorem State.modB_taskqs (s : State) (f : Bank → Bank) : (s.modB f).taskqs = s.taskqs := rfl
@[simp] theorem State.modB_launchqs (s : State) (f : Bank → Bank) : (s.modB f).launchqs = s.launchqs := rfl
@[simp] theorem State.modB_live (s : State) (f : Bank → Bank) : (s.modB f).live = s.live := rfl
@[simp] theorem State.modB_saved (s : State) (f : Bank → Bank) : (s.modB f).saved = s.saved := rfl
@[simp] theorem State.modB_parts (s : State) (f : Bank → Bank) : (s.modB f).parts = s.parts := rfl
@[simp] theorem State.modB_objs (s : State) (f : Bank → Bank) : (s.modB f).objs = s.objs := rfl
@[simp] theorem State.modB_graphs (s : State) (f : Bank → Bank) : (s.modB f).graphs = s.graphs := rfl
@[simp] theorem State.modB_uqs (s : State) (f : Bank → Bank) : (s.modB f).uqs = s.uqs := rfl
@[simp] theorem State.modB_qOwner (s : State) (f : Bank → Bank) : (s.modB f).qOwner = s.qOwner := rfl
@[simp] theorem State.modB_micro (s : State) (f : Bank → Bank) : (s.modB f).micro = s.micro := rfl
@[simp] theorem State.modB_rewrites (s : State) (f : Bank → Bank) : (s.modB f).rewrites = s.rewrites := rfl
@[simp] theorem State.modB_feat (s : State) (f : Bank → Bank) : (s.modB f).feat = s.feat := rfl
@[simp] theorem State.modB_wdl (s : State) (f : Bank → Bank) : (s.modB f).wdl = s.wdl := rfl
@[simp] theorem State.modB_clpol (s : State) (f : Bank → Bank) : (s.modB f).clpol = s.clpol := rfl
@[simp] theorem State.modB_zst (s : State) (f : Bank → Bank) : (s.modB f).zst = s.zst := rfl
@[simp] theorem State.modB_ns (s : State) (f : Bank → Bank) : (s.modB f).ns = s.ns := rfl
@[simp] theorem State.modB_tokens (s : State) (f : Bank → Bank) : (s.modB f).tokens = s.tokens := rfl
@[simp] theorem State.modB_pwrReqs (s : State) (f : Bank → Bank) : (s.modB f).pwrReqs = s.pwrReqs := rfl
@[simp] theorem State.modB_windows (s : State) (f : Bank → Bank) : (s.modB f).windows = s.windows := rfl
@[simp] theorem State.modB_pkgid (s : State) (f : Bank → Bank) : (s.modB f).pkgid = s.pkgid := rfl
@[simp] theorem State.modB_vpool (s : State) (f : Bank → Bank) : (s.modB f).vpool = s.vpool := rfl
@[simp] theorem State.modB_stst (s : State) (f : Bank → Bank) : (s.modB f).stst = s.stst := rfl
@[simp] theorem State.modB_klp (s : State) (f : Bank → Bank) : (s.modB f).klp = s.klp := rfl
@[simp] theorem State.modB_replays (s : State) (f : Bank → Bank) : (s.modB f).replays = s.replays := rfl
@[simp] theorem State.modB_mrs (s : State) (f : Bank → Bank) : (s.modB f).mrs = s.mrs := rfl
@[simp] theorem State.modB_sdr (s : State) (f : Bank → Bank) : (s.modB f).sdr = s.sdr := rfl
@[simp] theorem State.modB_sdh (s : State) (f : Bank → Bank) : (s.modB f).sdh = s.sdh := rfl
@[simp] theorem State.modB_tdis (s : State) (f : Bank → Bank) : (s.modB f).tdis = s.tdis := rfl
@[simp] theorem State.modB_vfs (s : State) (f : Bank → Bank) : (s.modB f).vfs = s.vfs := rfl
@[simp] theorem State.modB_hostOut (s : State) (f : Bank → Bank) : (s.modB f).hostOut = s.hostOut := rfl
@[simp] theorem State.modB_boot (s : State) (f : Bank → Bank) : (s.modB f).boot = s.boot := rfl
@[simp] theorem State.modB_power (s : State) (f : Bank → Bank) : (s.modB f).power = s.power := rfl
@[simp] theorem State.modB_agenda (s : State) (f : Bank → Bank) : (s.modB f).agenda = s.agenda := rfl
@[simp] theorem State.modB_cur (s : State) (f : Bank → Bank) : (s.modB f).cur = s.cur := rfl
@[simp] theorem State.modB_fresh (s : State) (f : Bank → Bank) : (s.modB f).fresh = s.fresh := rfl

@[simp] theorem State.modCore_b (s : State) (n : Nat) (f : Core → Core) : (s.modCore n f).b = s.b := rfl
@[simp] theorem State.modCore_banks (s : State) (n : Nat) (f : Core → Core) : (s.modCore n f).banks = s.banks := rfl
@[simp] theorem State.modCore_firm (s : State) (n : Nat) (f : Core → Core) : (s.modCore n f).firm = s.firm := rfl
@[simp] theorem State.modCore_cores (s : State) (n : Nat) (f : Core → Core) : (s.modCore n f).cores = s.cores.put n (f (s.cores.get .reset n)) := rfl
@[simp] theorem State.modCore_mem (s : State) (n : Nat) (f : Core → Core) : (s.modCore n f).mem = s.mem := rfl
@[simp] theorem State.modCore_remote (s : State) (n : Nat) (f : Core → Core) : (s.modCore n f).remote = s.remote := rfl
@[simp] theorem State.modCore_poison (s : State) (n : Nat) (f : Core → Core) : (s.modCore n f).poison = s.poison := rfl
@[simp] theorem State.modCore_vctr (s : State) (n : Nat) (f : Core → Core) : (s.modCore n f).vctr = s.vctr := rfl
@[simp] theorem State.modCore_snaps (s : State) (n : Nat) (f : Core → Core) : (s.modCore n f).snaps = s.snaps := rfl
@[simp] theorem State.modCore_vers (s : State) (n : Nat) (f : Core → Core) : (s.modCore n f).vers = s.vers := rfl
@[simp] theorem State.modCore_locks (s : State) (n : Nat) (f : Core → Core) : (s.modCore n f).locks = s.locks := rfl
@[simp] theorem State.modCore_ctxs (s : State) (n : Nat) (f : Core → Core) : (s.modCore n f).ctxs = s.ctxs := rfl
@[simp] theorem State.modCore_grants (s : State) (n : Nat) (f : Core → Core) : (s.modCore n f).grants = s.grants := rfl
@[simp] theorem State.modCore_tlb (s : State) (n : Nat) (f : Core → Core) : (s.modCore n f).tlb = s.tlb := rfl
@[simp] theorem State.modCore_nests (s : State) (n : Nat) (f : Core → Core) : (s.modCore n f).nests = s.nests := rfl
@[simp] theorem State.modCore_shoots (s : State) (n : Nat) (f : Core → Core) : (s.modCore n f).shoots = s.shoots := rfl
@[simp] theorem State.modCore_recs (s : State) (n : Nat) (f : Core → Core) : (s.modCore n f).recs = s.recs := rfl
@[simp] theorem State.modCore_cells (s : State) (n : Nat) (f : Core → Core) : (s.modCore n f).cells = s.cells := rfl
@[simp] theorem State.modCore_tickQ (s : State) (n : Nat) (f : Core → Core) : (s.modCore n f).tickQ = s.tickQ := rfl
@[simp] theorem State.modCore_tokqs (s : State) (n : Nat) (f : Core → Core) : (s.modCore n f).tokqs = s.tokqs := rfl
@[simp] theorem State.modCore_taskqs (s : State) (n : Nat) (f : Core → Core) : (s.modCore n f).taskqs = s.taskqs := rfl
@[simp] theorem State.modCore_launchqs (s : State) (n : Nat) (f : Core → Core) : (s.modCore n f).launchqs = s.launchqs := rfl
@[simp] theorem State.modCore_live (s : State) (n : Nat) (f : Core → Core) : (s.modCore n f).live = s.live := rfl
@[simp] theorem State.modCore_saved (s : State) (n : Nat) (f : Core → Core) : (s.modCore n f).saved = s.saved := rfl
@[simp] theorem State.modCore_parts (s : State) (n : Nat) (f : Core → Core) : (s.modCore n f).parts = s.parts := rfl
@[simp] theorem State.modCore_objs (s : State) (n : Nat) (f : Core → Core) : (s.modCore n f).objs = s.objs := rfl
@[simp] theorem State.modCore_graphs (s : State) (n : Nat) (f : Core → Core) : (s.modCore n f).graphs = s.graphs := rfl
@[simp] theorem State.modCore_uqs (s : State) (n : Nat) (f : Core → Core) : (s.modCore n f).uqs = s.uqs := rfl
@[simp] theorem State.modCore_qOwner (s : State) (n : Nat) (f : Core → Core) : (s.modCore n f).qOwner = s.qOwner := rfl
@[simp] theorem State.modCore_micro (s : State) (n : Nat) (f : Core → Core) : (s.modCore n f).micro = s.micro := rfl
@[simp] theorem State.modCore_rewrites (s : State) (n : Nat) (f : Core → Core) : (s.modCore n f).rewrites = s.rewrites := rfl
@[simp] theorem State.modCore_feat (s : State) (n : Nat) (f : Core → Core) : (s.modCore n f).feat = s.feat := rfl
@[simp] theorem State.modCore_wdl (s : State) (n : Nat) (f : Core → Core) : (s.modCore n f).wdl = s.wdl := rfl
@[simp] theorem State.modCore_clpol (s : State) (n : Nat) (f : Core → Core) : (s.modCore n f).clpol = s.clpol := rfl
@[simp] theorem State.modCore_zst (s : State) (n : Nat) (f : Core → Core) : (s.modCore n f).zst = s.zst := rfl
@[simp] theorem State.modCore_ns (s : State) (n : Nat) (f : Core → Core) : (s.modCore n f).ns = s.ns := rfl
@[simp] theorem State.modCore_tokens (s : State) (n : Nat) (f : Core → Core) : (s.modCore n f).tokens = s.tokens := rfl
@[simp] theorem State.modCore_pwrReqs (s : State) (n : Nat) (f : Core → Core) : (s.modCore n f).pwrReqs = s.pwrReqs := rfl
@[simp] theorem State.modCore_windows (s : State) (n : Nat) (f : Core → Core) : (s.modCore n f).windows = s.windows := rfl
@[simp] theorem State.modCore_pkgid (s : State) (n : Nat) (f : Core → Core) : (s.modCore n f).pkgid = s.pkgid := rfl
@[simp] theorem State.modCore_vpool (s : State) (n : Nat) (f : Core → Core) : (s.modCore n f).vpool = s.vpool := rfl
@[simp] theorem State.modCore_stst (s : State) (n : Nat) (f : Core → Core) : (s.modCore n f).stst = s.stst := rfl
@[simp] theorem State.modCore_klp (s : State) (n : Nat) (f : Core → Core) : (s.modCore n f).klp = s.klp := rfl
@[simp] theorem State.modCore_replays (s : State) (n : Nat) (f : Core → Core) : (s.modCore n f).replays = s.replays := rfl
@[simp] theorem State.modCore_mrs (s : State) (n : Nat) (f : Core → Core) : (s.modCore n f).mrs = s.mrs := rfl
@[simp] theorem State.modCore_sdr (s : State) (n : Nat) (f : Core → Core) : (s.modCore n f).sdr = s.sdr := rfl
@[simp] theorem State.modCore_sdh (s : State) (n : Nat) (f : Core → Core) : (s.modCore n f).sdh = s.sdh := rfl
@[simp] theorem State.modCore_tdis (s : State) (n : Nat) (f : Core → Core) : (s.modCore n f).tdis = s.tdis := rfl
@[simp] theorem State.modCore_vfs (s : State) (n : Nat) (f : Core → Core) : (s.modCore n f).vfs = s.vfs := rfl
@[simp] theorem State.modCore_hostOut (s : State) (n : Nat) (f : Core → Core) : (s.modCore n f).hostOut = s.hostOut := rfl
@[simp] theorem State.modCore_boot (s : State) (n : Nat) (f : Core → Core) : (s.modCore n f).boot = s.boot := rfl
@[simp] theorem State.modCore_power (s : State) (n : Nat) (f : Core → Core) : (s.modCore n f).power = s.power := rfl
@[simp] theorem State.modCore_agenda (s : State) (n : Nat) (f : Core → Core) : (s.modCore n f).agenda = s.agenda := rfl
@[simp] theorem State.modCore_cur (s : State) (n : Nat) (f : Core → Core) : (s.modCore n f).cur = s.cur := rfl
@[simp] theorem State.modCore_fresh (s : State) (n : Nat) (f : Core → Core) : (s.modCore n f).fresh = s.fresh := rfl

@[simp] theorem State.modSlot_b (s : State) (f : SlotMem → SlotMem) : (s.modSlot f).b = s.b := rfl
@[simp] theorem State.modSlot_banks (s : State) (f : SlotMem → SlotMem) : (s.modSlot f).banks = s.banks := rfl
@[simp] theorem State.modSlot_firm (s : State) (f : SlotMem → SlotMem) : (s.modSlot f).firm = s.firm := rfl
@[simp] theorem State.modSlot_cores (s : State) (f : SlotMem → SlotMem) : (s.modSlot f).cores = s.cores.put s.b.core ((s.cores.get .reset s.b.core).modSlot s.b.slotB f) := rfl
@[simp] theorem State.modSlot_mem (s : State) (f : SlotMem → SlotMem) : (s.modSlot f).mem = s.mem := rfl
@[simp] theorem State.modSlot_remote (s : State) (f : SlotMem → SlotMem) : (s.modSlot f).remote = s.remote := rfl
@[simp] theorem State.modSlot_poison (s : State) (f : SlotMem → SlotMem) : (s.modSlot f).poison = s.poison := rfl
@[simp] theorem State.modSlot_vctr (s : State) (f : SlotMem → SlotMem) : (s.modSlot f).vctr = s.vctr := rfl
@[simp] theorem State.modSlot_snaps (s : State) (f : SlotMem → SlotMem) : (s.modSlot f).snaps = s.snaps := rfl
@[simp] theorem State.modSlot_vers (s : State) (f : SlotMem → SlotMem) : (s.modSlot f).vers = s.vers := rfl
@[simp] theorem State.modSlot_locks (s : State) (f : SlotMem → SlotMem) : (s.modSlot f).locks = s.locks := rfl
@[simp] theorem State.modSlot_ctxs (s : State) (f : SlotMem → SlotMem) : (s.modSlot f).ctxs = s.ctxs := rfl
@[simp] theorem State.modSlot_grants (s : State) (f : SlotMem → SlotMem) : (s.modSlot f).grants = s.grants := rfl
@[simp] theorem State.modSlot_tlb (s : State) (f : SlotMem → SlotMem) : (s.modSlot f).tlb = s.tlb := rfl
@[simp] theorem State.modSlot_nests (s : State) (f : SlotMem → SlotMem) : (s.modSlot f).nests = s.nests := rfl
@[simp] theorem State.modSlot_shoots (s : State) (f : SlotMem → SlotMem) : (s.modSlot f).shoots = s.shoots := rfl
@[simp] theorem State.modSlot_recs (s : State) (f : SlotMem → SlotMem) : (s.modSlot f).recs = s.recs := rfl
@[simp] theorem State.modSlot_cells (s : State) (f : SlotMem → SlotMem) : (s.modSlot f).cells = s.cells := rfl
@[simp] theorem State.modSlot_tickQ (s : State) (f : SlotMem → SlotMem) : (s.modSlot f).tickQ = s.tickQ := rfl
@[simp] theorem State.modSlot_tokqs (s : State) (f : SlotMem → SlotMem) : (s.modSlot f).tokqs = s.tokqs := rfl
@[simp] theorem State.modSlot_taskqs (s : State) (f : SlotMem → SlotMem) : (s.modSlot f).taskqs = s.taskqs := rfl
@[simp] theorem State.modSlot_launchqs (s : State) (f : SlotMem → SlotMem) : (s.modSlot f).launchqs = s.launchqs := rfl
@[simp] theorem State.modSlot_live (s : State) (f : SlotMem → SlotMem) : (s.modSlot f).live = s.live := rfl
@[simp] theorem State.modSlot_saved (s : State) (f : SlotMem → SlotMem) : (s.modSlot f).saved = s.saved := rfl
@[simp] theorem State.modSlot_parts (s : State) (f : SlotMem → SlotMem) : (s.modSlot f).parts = s.parts := rfl
@[simp] theorem State.modSlot_objs (s : State) (f : SlotMem → SlotMem) : (s.modSlot f).objs = s.objs := rfl
@[simp] theorem State.modSlot_graphs (s : State) (f : SlotMem → SlotMem) : (s.modSlot f).graphs = s.graphs := rfl
@[simp] theorem State.modSlot_uqs (s : State) (f : SlotMem → SlotMem) : (s.modSlot f).uqs = s.uqs := rfl
@[simp] theorem State.modSlot_qOwner (s : State) (f : SlotMem → SlotMem) : (s.modSlot f).qOwner = s.qOwner := rfl
@[simp] theorem State.modSlot_micro (s : State) (f : SlotMem → SlotMem) : (s.modSlot f).micro = s.micro := rfl
@[simp] theorem State.modSlot_rewrites (s : State) (f : SlotMem → SlotMem) : (s.modSlot f).rewrites = s.rewrites := rfl
@[simp] theorem State.modSlot_feat (s : State) (f : SlotMem → SlotMem) : (s.modSlot f).feat = s.feat := rfl
@[simp] theorem State.modSlot_wdl (s : State) (f : SlotMem → SlotMem) : (s.modSlot f).wdl = s.wdl := rfl
@[simp] theorem State.modSlot_clpol (s : State) (f : SlotMem → SlotMem) : (s.modSlot f).clpol = s.clpol := rfl
@[simp] theorem State.modSlot_zst (s : State) (f : SlotMem → SlotMem) : (s.modSlot f).zst = s.zst := rfl
@[simp] theorem State.modSlot_ns (s : State) (f : SlotMem → SlotMem) : (s.modSlot f).ns = s.ns := rfl
@[simp] theorem State.modSlot_tokens (s : State) (f : SlotMem → SlotMem) : (s.modSlot f).tokens = s.tokens := rfl
@[simp] theorem State.modSlot_pwrReqs (s : State) (f : SlotMem → SlotMem) : (s.modSlot f).pwrReqs = s.pwrReqs := rfl
@[simp] theorem State.modSlot_windows (s : State) (f : SlotMem → SlotMem) : (s.modSlot f).windows = s.windows := rfl
@[simp] theorem State.modSlot_pkgid (s : State) (f : SlotMem → SlotMem) : (s.modSlot f).pkgid = s.pkgid := rfl
@[simp] theorem State.modSlot_vpool (s : State) (f : SlotMem → SlotMem) : (s.modSlot f).vpool = s.vpool := rfl
@[simp] theorem State.modSlot_stst (s : State) (f : SlotMem → SlotMem) : (s.modSlot f).stst = s.stst := rfl
@[simp] theorem State.modSlot_klp (s : State) (f : SlotMem → SlotMem) : (s.modSlot f).klp = s.klp := rfl
@[simp] theorem State.modSlot_replays (s : State) (f : SlotMem → SlotMem) : (s.modSlot f).replays = s.replays := rfl
@[simp] theorem State.modSlot_mrs (s : State) (f : SlotMem → SlotMem) : (s.modSlot f).mrs = s.mrs := rfl
@[simp] theorem State.modSlot_sdr (s : State) (f : SlotMem → SlotMem) : (s.modSlot f).sdr = s.sdr := rfl
@[simp] theorem State.modSlot_sdh (s : State) (f : SlotMem → SlotMem) : (s.modSlot f).sdh = s.sdh := rfl
@[simp] theorem State.modSlot_tdis (s : State) (f : SlotMem → SlotMem) : (s.modSlot f).tdis = s.tdis := rfl
@[simp] theorem State.modSlot_vfs (s : State) (f : SlotMem → SlotMem) : (s.modSlot f).vfs = s.vfs := rfl
@[simp] theorem State.modSlot_hostOut (s : State) (f : SlotMem → SlotMem) : (s.modSlot f).hostOut = s.hostOut := rfl
@[simp] theorem State.modSlot_boot (s : State) (f : SlotMem → SlotMem) : (s.modSlot f).boot = s.boot := rfl
@[simp] theorem State.modSlot_power (s : State) (f : SlotMem → SlotMem) : (s.modSlot f).power = s.power := rfl
@[simp] theorem State.modSlot_agenda (s : State) (f : SlotMem → SlotMem) : (s.modSlot f).agenda = s.agenda := rfl
@[simp] theorem State.modSlot_cur (s : State) (f : SlotMem → SlotMem) : (s.modSlot f).cur = s.cur := rfl
@[simp] theorem State.modSlot_fresh (s : State) (f : SlotMem → SlotMem) : (s.modSlot f).fresh = s.fresh := rfl

@[simp] theorem State.result_banks (s : State) (l : Loc) (v n d : Nat) (p : Bool) : (s.result l v n d p).banks = s.banks := State.result_keeps (x := (·.banks)) l v n d p fun _ _ => rfl
@[simp] theorem State.result_firm (s : State) (l : Loc) (v n d : Nat) (p : Bool) : (s.result l v n d p).firm = s.firm := State.result_keeps (x := (·.firm)) l v n d p fun _ _ => rfl
@[simp] theorem State.result_cores (s : State) (l : Loc) (v n d : Nat) (p : Bool) : (s.result l v n d p).cores = s.cores := State.result_keeps (x := (·.cores)) l v n d p fun _ _ => rfl
@[simp] theorem State.result_mem (s : State) (l : Loc) (v n d : Nat) (p : Bool) : (s.result l v n d p).mem = s.mem := State.result_keeps (x := (·.mem)) l v n d p fun _ _ => rfl
@[simp] theorem State.result_remote (s : State) (l : Loc) (v n d : Nat) (p : Bool) : (s.result l v n d p).remote = s.remote := State.result_keeps (x := (·.remote)) l v n d p fun _ _ => rfl
@[simp] theorem State.result_poison (s : State) (l : Loc) (v n d : Nat) (p : Bool) : (s.result l v n d p).poison = s.poison := State.result_keeps (x := (·.poison)) l v n d p fun _ _ => rfl
@[simp] theorem State.result_vctr (s : State) (l : Loc) (v n d : Nat) (p : Bool) : (s.result l v n d p).vctr = s.vctr := State.result_keeps (x := (·.vctr)) l v n d p fun _ _ => rfl
@[simp] theorem State.result_snaps (s : State) (l : Loc) (v n d : Nat) (p : Bool) : (s.result l v n d p).snaps = s.snaps := State.result_keeps (x := (·.snaps)) l v n d p fun _ _ => rfl
@[simp] theorem State.result_vers (s : State) (l : Loc) (v n d : Nat) (p : Bool) : (s.result l v n d p).vers = s.vers := State.result_keeps (x := (·.vers)) l v n d p fun _ _ => rfl
@[simp] theorem State.result_locks (s : State) (l : Loc) (v n d : Nat) (p : Bool) : (s.result l v n d p).locks = s.locks := State.result_keeps (x := (·.locks)) l v n d p fun _ _ => rfl
@[simp] theorem State.result_ctxs (s : State) (l : Loc) (v n d : Nat) (p : Bool) : (s.result l v n d p).ctxs = s.ctxs := State.result_keeps (x := (·.ctxs)) l v n d p fun _ _ => rfl
@[simp] theorem State.result_grants (s : State) (l : Loc) (v n d : Nat) (p : Bool) : (s.result l v n d p).grants = s.grants := State.result_keeps (x := (·.grants)) l v n d p fun _ _ => rfl
@[simp] theorem State.result_tlb (s : State) (l : Loc) (v n d : Nat) (p : Bool) : (s.result l v n d p).tlb = s.tlb := State.result_keeps (x := (·.tlb)) l v n d p fun _ _ => rfl
@[simp] theorem State.result_nests (s : State) (l : Loc) (v n d : Nat) (p : Bool) : (s.result l v n d p).nests = s.nests := State.result_keeps (x := (·.nests)) l v n d p fun _ _ => rfl
@[simp] theorem State.result_shoots (s : State) (l : Loc) (v n d : Nat) (p : Bool) : (s.result l v n d p).shoots = s.shoots := State.result_keeps (x := (·.shoots)) l v n d p fun _ _ => rfl
@[simp] theorem State.result_recs (s : State) (l : Loc) (v n d : Nat) (p : Bool) : (s.result l v n d p).recs = s.recs := State.result_keeps (x := (·.recs)) l v n d p fun _ _ => rfl
@[simp] theorem State.result_cells (s : State) (l : Loc) (v n d : Nat) (p : Bool) : (s.result l v n d p).cells = s.cells := State.result_keeps (x := (·.cells)) l v n d p fun _ _ => rfl
@[simp] theorem State.result_tickQ (s : State) (l : Loc) (v n d : Nat) (p : Bool) : (s.result l v n d p).tickQ = s.tickQ := State.result_keeps (x := (·.tickQ)) l v n d p fun _ _ => rfl
@[simp] theorem State.result_tokqs (s : State) (l : Loc) (v n d : Nat) (p : Bool) : (s.result l v n d p).tokqs = s.tokqs := State.result_keeps (x := (·.tokqs)) l v n d p fun _ _ => rfl
@[simp] theorem State.result_taskqs (s : State) (l : Loc) (v n d : Nat) (p : Bool) : (s.result l v n d p).taskqs = s.taskqs := State.result_keeps (x := (·.taskqs)) l v n d p fun _ _ => rfl
@[simp] theorem State.result_launchqs (s : State) (l : Loc) (v n d : Nat) (p : Bool) : (s.result l v n d p).launchqs = s.launchqs := State.result_keeps (x := (·.launchqs)) l v n d p fun _ _ => rfl
@[simp] theorem State.result_live (s : State) (l : Loc) (v n d : Nat) (p : Bool) : (s.result l v n d p).live = s.live := State.result_keeps (x := (·.live)) l v n d p fun _ _ => rfl
@[simp] theorem State.result_saved (s : State) (l : Loc) (v n d : Nat) (p : Bool) : (s.result l v n d p).saved = s.saved := State.result_keeps (x := (·.saved)) l v n d p fun _ _ => rfl
@[simp] theorem State.result_parts (s : State) (l : Loc) (v n d : Nat) (p : Bool) : (s.result l v n d p).parts = s.parts := State.result_keeps (x := (·.parts)) l v n d p fun _ _ => rfl
@[simp] theorem State.result_objs (s : State) (l : Loc) (v n d : Nat) (p : Bool) : (s.result l v n d p).objs = s.objs := State.result_keeps (x := (·.objs)) l v n d p fun _ _ => rfl
@[simp] theorem State.result_graphs (s : State) (l : Loc) (v n d : Nat) (p : Bool) : (s.result l v n d p).graphs = s.graphs := State.result_keeps (x := (·.graphs)) l v n d p fun _ _ => rfl
@[simp] theorem State.result_uqs (s : State) (l : Loc) (v n d : Nat) (p : Bool) : (s.result l v n d p).uqs = s.uqs := State.result_keeps (x := (·.uqs)) l v n d p fun _ _ => rfl
@[simp] theorem State.result_qOwner (s : State) (l : Loc) (v n d : Nat) (p : Bool) : (s.result l v n d p).qOwner = s.qOwner := State.result_keeps (x := (·.qOwner)) l v n d p fun _ _ => rfl
@[simp] theorem State.result_micro (s : State) (l : Loc) (v n d : Nat) (p : Bool) : (s.result l v n d p).micro = s.micro := State.result_keeps (x := (·.micro)) l v n d p fun _ _ => rfl
@[simp] theorem State.result_rewrites (s : State) (l : Loc) (v n d : Nat) (p : Bool) : (s.result l v n d p).rewrites = s.rewrites := State.result_keeps (x := (·.rewrites)) l v n d p fun _ _ => rfl
@[simp] theorem State.result_feat (s : State) (l : Loc) (v n d : Nat) (p : Bool) : (s.result l v n d p).feat = s.feat := State.result_keeps (x := (·.feat)) l v n d p fun _ _ => rfl
@[simp] theorem State.result_wdl (s : State) (l : Loc) (v n d : Nat) (p : Bool) : (s.result l v n d p).wdl = s.wdl := State.result_keeps (x := (·.wdl)) l v n d p fun _ _ => rfl
@[simp] theorem State.result_clpol (s : State) (l : Loc) (v n d : Nat) (p : Bool) : (s.result l v n d p).clpol = s.clpol := State.result_keeps (x := (·.clpol)) l v n d p fun _ _ => rfl
@[simp] theorem State.result_zst (s : State) (l : Loc) (v n d : Nat) (p : Bool) : (s.result l v n d p).zst = s.zst := State.result_keeps (x := (·.zst)) l v n d p fun _ _ => rfl
@[simp] theorem State.result_ns (s : State) (l : Loc) (v n d : Nat) (p : Bool) : (s.result l v n d p).ns = s.ns := State.result_keeps (x := (·.ns)) l v n d p fun _ _ => rfl
@[simp] theorem State.result_tokens (s : State) (l : Loc) (v n d : Nat) (p : Bool) : (s.result l v n d p).tokens = s.tokens := State.result_keeps (x := (·.tokens)) l v n d p fun _ _ => rfl
@[simp] theorem State.result_pwrReqs (s : State) (l : Loc) (v n d : Nat) (p : Bool) : (s.result l v n d p).pwrReqs = s.pwrReqs := State.result_keeps (x := (·.pwrReqs)) l v n d p fun _ _ => rfl
@[simp] theorem State.result_windows (s : State) (l : Loc) (v n d : Nat) (p : Bool) : (s.result l v n d p).windows = s.windows := State.result_keeps (x := (·.windows)) l v n d p fun _ _ => rfl
@[simp] theorem State.result_pkgid (s : State) (l : Loc) (v n d : Nat) (p : Bool) : (s.result l v n d p).pkgid = s.pkgid := State.result_keeps (x := (·.pkgid)) l v n d p fun _ _ => rfl
@[simp] theorem State.result_vpool (s : State) (l : Loc) (v n d : Nat) (p : Bool) : (s.result l v n d p).vpool = s.vpool := State.result_keeps (x := (·.vpool)) l v n d p fun _ _ => rfl
@[simp] theorem State.result_stst (s : State) (l : Loc) (v n d : Nat) (p : Bool) : (s.result l v n d p).stst = s.stst := State.result_keeps (x := (·.stst)) l v n d p fun _ _ => rfl
@[simp] theorem State.result_klp (s : State) (l : Loc) (v n d : Nat) (p : Bool) : (s.result l v n d p).klp = s.klp := State.result_keeps (x := (·.klp)) l v n d p fun _ _ => rfl
@[simp] theorem State.result_replays (s : State) (l : Loc) (v n d : Nat) (p : Bool) : (s.result l v n d p).replays = s.replays := State.result_keeps (x := (·.replays)) l v n d p fun _ _ => rfl
@[simp] theorem State.result_mrs (s : State) (l : Loc) (v n d : Nat) (p : Bool) : (s.result l v n d p).mrs = s.mrs := State.result_keeps (x := (·.mrs)) l v n d p fun _ _ => rfl
@[simp] theorem State.result_sdr (s : State) (l : Loc) (v n d : Nat) (p : Bool) : (s.result l v n d p).sdr = s.sdr := State.result_keeps (x := (·.sdr)) l v n d p fun _ _ => rfl
@[simp] theorem State.result_sdh (s : State) (l : Loc) (v n d : Nat) (p : Bool) : (s.result l v n d p).sdh = s.sdh := State.result_keeps (x := (·.sdh)) l v n d p fun _ _ => rfl
@[simp] theorem State.result_tdis (s : State) (l : Loc) (v n d : Nat) (p : Bool) : (s.result l v n d p).tdis = s.tdis := State.result_keeps (x := (·.tdis)) l v n d p fun _ _ => rfl
@[simp] theorem State.result_vfs (s : State) (l : Loc) (v n d : Nat) (p : Bool) : (s.result l v n d p).vfs = s.vfs := State.result_keeps (x := (·.vfs)) l v n d p fun _ _ => rfl
@[simp] theorem State.result_hostOut (s : State) (l : Loc) (v n d : Nat) (p : Bool) : (s.result l v n d p).hostOut = s.hostOut := State.result_keeps (x := (·.hostOut)) l v n d p fun _ _ => rfl
@[simp] theorem State.result_boot (s : State) (l : Loc) (v n d : Nat) (p : Bool) : (s.result l v n d p).boot = s.boot := State.result_keeps (x := (·.boot)) l v n d p fun _ _ => rfl
@[simp] theorem State.result_power (s : State) (l : Loc) (v n d : Nat) (p : Bool) : (s.result l v n d p).power = s.power := State.result_keeps (x := (·.power)) l v n d p fun _ _ => rfl
@[simp] theorem State.result_agenda (s : State) (l : Loc) (v n d : Nat) (p : Bool) : (s.result l v n d p).agenda = s.agenda := State.result_keeps (x := (·.agenda)) l v n d p fun _ _ => rfl
@[simp] theorem State.result_cur (s : State) (l : Loc) (v n d : Nat) (p : Bool) : (s.result l v n d p).cur = s.cur := State.result_keeps (x := (·.cur)) l v n d p fun _ _ => rfl
@[simp] theorem State.result_fresh (s : State) (l : Loc) (v n d : Nat) (p : Bool) : (s.result l v n d p).fresh = s.fresh := State.result_keeps (x := (·.fresh)) l v n d p fun _ _ => rfl


@[simp] theorem State.abortSync_banks (s : State) (c k g : Nat) : (s.abortSync c k g).banks = s.banks := rfl
@[simp] theorem State.abortSync_firm (s : State) (c k g : Nat) : (s.abortSync c k g).firm = s.firm := rfl
@[simp] theorem State.abortSync_cores (s : State) (c k g : Nat) : (s.abortSync c k g).cores = s.cores := rfl
@[simp] theorem State.abortSync_mem (s : State) (c k g : Nat) : (s.abortSync c k g).mem = s.mem := rfl
@[simp] theorem State.abortSync_remote (s : State) (c k g : Nat) : (s.abortSync c k g).remote = s.remote := rfl
@[simp] theorem State.abortSync_poison (s : State) (c k g : Nat) : (s.abortSync c k g).poison = s.poison := rfl
@[simp] theorem State.abortSync_vctr (s : State) (c k g : Nat) : (s.abortSync c k g).vctr = s.vctr := rfl
@[simp] theorem State.abortSync_snaps (s : State) (c k g : Nat) : (s.abortSync c k g).snaps = s.snaps := rfl
@[simp] theorem State.abortSync_vers (s : State) (c k g : Nat) : (s.abortSync c k g).vers = s.vers := rfl
@[simp] theorem State.abortSync_locks (s : State) (c k g : Nat) : (s.abortSync c k g).locks = s.locks := rfl
@[simp] theorem State.abortSync_ctxs (s : State) (c k g : Nat) : (s.abortSync c k g).ctxs = s.ctxs := rfl
@[simp] theorem State.abortSync_grants (s : State) (c k g : Nat) : (s.abortSync c k g).grants = s.grants := rfl
@[simp] theorem State.abortSync_tlb (s : State) (c k g : Nat) : (s.abortSync c k g).tlb = s.tlb := rfl
@[simp] theorem State.abortSync_nests (s : State) (c k g : Nat) : (s.abortSync c k g).nests = s.nests := rfl
@[simp] theorem State.abortSync_shoots (s : State) (c k g : Nat) : (s.abortSync c k g).shoots = s.shoots := rfl
@[simp] theorem State.abortSync_recs (s : State) (c k g : Nat) : (s.abortSync c k g).recs = s.recs := rfl
@[simp] theorem State.abortSync_cells (s : State) (c k g : Nat) : (s.abortSync c k g).cells = s.cells := rfl
@[simp] theorem State.abortSync_tickQ (s : State) (c k g : Nat) : (s.abortSync c k g).tickQ = s.tickQ := rfl
@[simp] theorem State.abortSync_tokqs (s : State) (c k g : Nat) : (s.abortSync c k g).tokqs = s.tokqs := rfl
@[simp] theorem State.abortSync_taskqs (s : State) (c k g : Nat) : (s.abortSync c k g).taskqs = s.taskqs := rfl
@[simp] theorem State.abortSync_launchqs (s : State) (c k g : Nat) : (s.abortSync c k g).launchqs = s.launchqs := rfl
@[simp] theorem State.abortSync_live (s : State) (c k g : Nat) : (s.abortSync c k g).live = s.live := rfl
@[simp] theorem State.abortSync_saved (s : State) (c k g : Nat) : (s.abortSync c k g).saved = s.saved := rfl
@[simp] theorem State.abortSync_parts (s : State) (c k g : Nat) : (s.abortSync c k g).parts = s.parts := rfl
@[simp] theorem State.abortSync_objs (s : State) (c k g : Nat) : (s.abortSync c k g).objs = s.objs := rfl
@[simp] theorem State.abortSync_graphs (s : State) (c k g : Nat) : (s.abortSync c k g).graphs = s.graphs := rfl
@[simp] theorem State.abortSync_uqs (s : State) (c k g : Nat) : (s.abortSync c k g).uqs = s.uqs := rfl
@[simp] theorem State.abortSync_qOwner (s : State) (c k g : Nat) : (s.abortSync c k g).qOwner = s.qOwner := rfl
@[simp] theorem State.abortSync_micro (s : State) (c k g : Nat) : (s.abortSync c k g).micro = s.micro := rfl
@[simp] theorem State.abortSync_rewrites (s : State) (c k g : Nat) : (s.abortSync c k g).rewrites = s.rewrites := rfl
@[simp] theorem State.abortSync_feat (s : State) (c k g : Nat) : (s.abortSync c k g).feat = s.feat := rfl
@[simp] theorem State.abortSync_wdl (s : State) (c k g : Nat) : (s.abortSync c k g).wdl = s.wdl := rfl
@[simp] theorem State.abortSync_clpol (s : State) (c k g : Nat) : (s.abortSync c k g).clpol = s.clpol := rfl
@[simp] theorem State.abortSync_zst (s : State) (c k g : Nat) : (s.abortSync c k g).zst = s.zst := rfl
@[simp] theorem State.abortSync_ns (s : State) (c k g : Nat) : (s.abortSync c k g).ns = s.ns := rfl
@[simp] theorem State.abortSync_tokens (s : State) (c k g : Nat) : (s.abortSync c k g).tokens = s.tokens := rfl
@[simp] theorem State.abortSync_pwrReqs (s : State) (c k g : Nat) : (s.abortSync c k g).pwrReqs = s.pwrReqs := rfl
@[simp] theorem State.abortSync_windows (s : State) (c k g : Nat) : (s.abortSync c k g).windows = s.windows := rfl
@[simp] theorem State.abortSync_pkgid (s : State) (c k g : Nat) : (s.abortSync c k g).pkgid = s.pkgid := rfl
@[simp] theorem State.abortSync_vpool (s : State) (c k g : Nat) : (s.abortSync c k g).vpool = s.vpool := rfl
@[simp] theorem State.abortSync_stst (s : State) (c k g : Nat) : (s.abortSync c k g).stst = s.stst := rfl
@[simp] theorem State.abortSync_klp (s : State) (c k g : Nat) : (s.abortSync c k g).klp = s.klp := rfl
@[simp] theorem State.abortSync_replays (s : State) (c k g : Nat) : (s.abortSync c k g).replays = s.replays := rfl
@[simp] theorem State.abortSync_mrs (s : State) (c k g : Nat) : (s.abortSync c k g).mrs = s.mrs := rfl
@[simp] theorem State.abortSync_sdr (s : State) (c k g : Nat) : (s.abortSync c k g).sdr = s.sdr := rfl
@[simp] theorem State.abortSync_sdh (s : State) (c k g : Nat) : (s.abortSync c k g).sdh = s.sdh := rfl
@[simp] theorem State.abortSync_tdis (s : State) (c k g : Nat) : (s.abortSync c k g).tdis = s.tdis := rfl
@[simp] theorem State.abortSync_vfs (s : State) (c k g : Nat) : (s.abortSync c k g).vfs = s.vfs := rfl
@[simp] theorem State.abortSync_hostOut (s : State) (c k g : Nat) : (s.abortSync c k g).hostOut = s.hostOut := rfl
@[simp] theorem State.abortSync_boot (s : State) (c k g : Nat) : (s.abortSync c k g).boot = s.boot := rfl
@[simp] theorem State.abortSync_power (s : State) (c k g : Nat) : (s.abortSync c k g).power = s.power := rfl
@[simp] theorem State.abortSync_agenda (s : State) (c k g : Nat) : (s.abortSync c k g).agenda = s.agenda := rfl
@[simp] theorem State.abortSync_fresh (s : State) (c k g : Nat) : (s.abortSync c k g).fresh = s.fresh := rfl

@[simp] theorem State.record_banks (s : State) (c : Cause) (w : Bool) : (s.record c w).banks = s.banks := rfl
@[simp] theorem State.record_firm (s : State) (c : Cause) (w : Bool) : (s.record c w).firm = s.firm := rfl
@[simp] theorem State.record_cores (s : State) (c : Cause) (w : Bool) : (s.record c w).cores = s.cores := rfl
@[simp] theorem State.record_mem (s : State) (c : Cause) (w : Bool) : (s.record c w).mem = s.mem := rfl
@[simp] theorem State.record_remote (s : State) (c : Cause) (w : Bool) : (s.record c w).remote = s.remote := rfl
@[simp] theorem State.record_poison (s : State) (c : Cause) (w : Bool) : (s.record c w).poison = s.poison := rfl
@[simp] theorem State.record_vctr (s : State) (c : Cause) (w : Bool) : (s.record c w).vctr = s.vctr := rfl
@[simp] theorem State.record_snaps (s : State) (c : Cause) (w : Bool) : (s.record c w).snaps = s.snaps := rfl
@[simp] theorem State.record_vers (s : State) (c : Cause) (w : Bool) : (s.record c w).vers = s.vers := rfl
@[simp] theorem State.record_locks (s : State) (c : Cause) (w : Bool) : (s.record c w).locks = s.locks := rfl
@[simp] theorem State.record_ctxs (s : State) (c : Cause) (w : Bool) : (s.record c w).ctxs = s.ctxs := rfl
@[simp] theorem State.record_grants (s : State) (c : Cause) (w : Bool) : (s.record c w).grants = s.grants := rfl
@[simp] theorem State.record_tlb (s : State) (c : Cause) (w : Bool) : (s.record c w).tlb = s.tlb := rfl
@[simp] theorem State.record_nests (s : State) (c : Cause) (w : Bool) : (s.record c w).nests = s.nests := rfl
@[simp] theorem State.record_shoots (s : State) (c : Cause) (w : Bool) : (s.record c w).shoots = s.shoots := rfl
@[simp] theorem State.record_cells (s : State) (c : Cause) (w : Bool) : (s.record c w).cells = s.cells := rfl
@[simp] theorem State.record_tickQ (s : State) (c : Cause) (w : Bool) : (s.record c w).tickQ = s.tickQ := rfl
@[simp] theorem State.record_tokqs (s : State) (c : Cause) (w : Bool) : (s.record c w).tokqs = s.tokqs := rfl
@[simp] theorem State.record_taskqs (s : State) (c : Cause) (w : Bool) : (s.record c w).taskqs = s.taskqs := rfl
@[simp] theorem State.record_launchqs (s : State) (c : Cause) (w : Bool) : (s.record c w).launchqs = s.launchqs := rfl
@[simp] theorem State.record_live (s : State) (c : Cause) (w : Bool) : (s.record c w).live = s.live := rfl
@[simp] theorem State.record_saved (s : State) (c : Cause) (w : Bool) : (s.record c w).saved = s.saved := rfl
@[simp] theorem State.record_parts (s : State) (c : Cause) (w : Bool) : (s.record c w).parts = s.parts := rfl
@[simp] theorem State.record_objs (s : State) (c : Cause) (w : Bool) : (s.record c w).objs = s.objs := rfl
@[simp] theorem State.record_graphs (s : State) (c : Cause) (w : Bool) : (s.record c w).graphs = s.graphs := rfl
@[simp] theorem State.record_uqs (s : State) (c : Cause) (w : Bool) : (s.record c w).uqs = s.uqs := rfl
@[simp] theorem State.record_qOwner (s : State) (c : Cause) (w : Bool) : (s.record c w).qOwner = s.qOwner := rfl
@[simp] theorem State.record_micro (s : State) (c : Cause) (w : Bool) : (s.record c w).micro = s.micro := rfl
@[simp] theorem State.record_rewrites (s : State) (c : Cause) (w : Bool) : (s.record c w).rewrites = s.rewrites := rfl
@[simp] theorem State.record_feat (s : State) (c : Cause) (w : Bool) : (s.record c w).feat = s.feat := rfl
@[simp] theorem State.record_wdl (s : State) (c : Cause) (w : Bool) : (s.record c w).wdl = s.wdl := rfl
@[simp] theorem State.record_clpol (s : State) (c : Cause) (w : Bool) : (s.record c w).clpol = s.clpol := rfl
@[simp] theorem State.record_zst (s : State) (c : Cause) (w : Bool) : (s.record c w).zst = s.zst := rfl
@[simp] theorem State.record_ns (s : State) (c : Cause) (w : Bool) : (s.record c w).ns = s.ns := rfl
@[simp] theorem State.record_tokens (s : State) (c : Cause) (w : Bool) : (s.record c w).tokens = s.tokens := rfl
@[simp] theorem State.record_pwrReqs (s : State) (c : Cause) (w : Bool) : (s.record c w).pwrReqs = s.pwrReqs := rfl
@[simp] theorem State.record_windows (s : State) (c : Cause) (w : Bool) : (s.record c w).windows = s.windows := rfl
@[simp] theorem State.record_pkgid (s : State) (c : Cause) (w : Bool) : (s.record c w).pkgid = s.pkgid := rfl
@[simp] theorem State.record_vpool (s : State) (c : Cause) (w : Bool) : (s.record c w).vpool = s.vpool := rfl
@[simp] theorem State.record_stst (s : State) (c : Cause) (w : Bool) : (s.record c w).stst = s.stst := rfl
@[simp] theorem State.record_klp (s : State) (c : Cause) (w : Bool) : (s.record c w).klp = s.klp := rfl
@[simp] theorem State.record_replays (s : State) (c : Cause) (w : Bool) : (s.record c w).replays = s.replays := rfl
@[simp] theorem State.record_mrs (s : State) (c : Cause) (w : Bool) : (s.record c w).mrs = s.mrs := rfl
@[simp] theorem State.record_sdr (s : State) (c : Cause) (w : Bool) : (s.record c w).sdr = s.sdr := rfl
@[simp] theorem State.record_sdh (s : State) (c : Cause) (w : Bool) : (s.record c w).sdh = s.sdh := rfl
@[simp] theorem State.record_tdis (s : State) (c : Cause) (w : Bool) : (s.record c w).tdis = s.tdis := rfl
@[simp] theorem State.record_vfs (s : State) (c : Cause) (w : Bool) : (s.record c w).vfs = s.vfs := rfl
@[simp] theorem State.record_hostOut (s : State) (c : Cause) (w : Bool) : (s.record c w).hostOut = s.hostOut := rfl
@[simp] theorem State.record_boot (s : State) (c : Cause) (w : Bool) : (s.record c w).boot = s.boot := rfl
@[simp] theorem State.record_power (s : State) (c : Cause) (w : Bool) : (s.record c w).power = s.power := rfl
@[simp] theorem State.record_agenda (s : State) (c : Cause) (w : Bool) : (s.record c w).agenda = s.agenda := rfl
@[simp] theorem State.record_cur (s : State) (c : Cause) (w : Bool) : (s.record c w).cur = s.cur := rfl
@[simp] theorem State.record_fresh (s : State) (c : Cause) (w : Bool) : (s.record c w).fresh = s.fresh := rfl

@[simp] theorem State.reflect_banks (s : State) (c : Cause) : (s.reflect c).banks = s.banks := rfl
@[simp] theorem State.reflect_firm (s : State) (c : Cause) : (s.reflect c).firm = s.firm := rfl
@[simp] theorem State.reflect_cores (s : State) (c : Cause) : (s.reflect c).cores = s.cores := rfl
@[simp] theorem State.reflect_mem (s : State) (c : Cause) : (s.reflect c).mem = s.mem := rfl
@[simp] theorem State.reflect_remote (s : State) (c : Cause) : (s.reflect c).remote = s.remote := rfl
@[simp] theorem State.reflect_poison (s : State) (c : Cause) : (s.reflect c).poison = s.poison := rfl
@[simp] theorem State.reflect_vctr (s : State) (c : Cause) : (s.reflect c).vctr = s.vctr := rfl
@[simp] theorem State.reflect_snaps (s : State) (c : Cause) : (s.reflect c).snaps = s.snaps := rfl
@[simp] theorem State.reflect_vers (s : State) (c : Cause) : (s.reflect c).vers = s.vers := rfl
@[simp] theorem State.reflect_locks (s : State) (c : Cause) : (s.reflect c).locks = s.locks := rfl
@[simp] theorem State.reflect_ctxs (s : State) (c : Cause) : (s.reflect c).ctxs = s.ctxs := rfl
@[simp] theorem State.reflect_grants (s : State) (c : Cause) : (s.reflect c).grants = s.grants := rfl
@[simp] theorem State.reflect_tlb (s : State) (c : Cause) : (s.reflect c).tlb = s.tlb := rfl
@[simp] theorem State.reflect_nests (s : State) (c : Cause) : (s.reflect c).nests = s.nests := rfl
@[simp] theorem State.reflect_shoots (s : State) (c : Cause) : (s.reflect c).shoots = s.shoots := rfl
@[simp] theorem State.reflect_cells (s : State) (c : Cause) : (s.reflect c).cells = s.cells := rfl
@[simp] theorem State.reflect_tickQ (s : State) (c : Cause) : (s.reflect c).tickQ = s.tickQ := rfl
@[simp] theorem State.reflect_tokqs (s : State) (c : Cause) : (s.reflect c).tokqs = s.tokqs := rfl
@[simp] theorem State.reflect_taskqs (s : State) (c : Cause) : (s.reflect c).taskqs = s.taskqs := rfl
@[simp] theorem State.reflect_launchqs (s : State) (c : Cause) : (s.reflect c).launchqs = s.launchqs := rfl
@[simp] theorem State.reflect_live (s : State) (c : Cause) : (s.reflect c).live = s.live := rfl
@[simp] theorem State.reflect_saved (s : State) (c : Cause) : (s.reflect c).saved = s.saved := rfl
@[simp] theorem State.reflect_parts (s : State) (c : Cause) : (s.reflect c).parts = s.parts := rfl
@[simp] theorem State.reflect_objs (s : State) (c : Cause) : (s.reflect c).objs = s.objs := rfl
@[simp] theorem State.reflect_graphs (s : State) (c : Cause) : (s.reflect c).graphs = s.graphs := rfl
@[simp] theorem State.reflect_uqs (s : State) (c : Cause) : (s.reflect c).uqs = s.uqs := rfl
@[simp] theorem State.reflect_qOwner (s : State) (c : Cause) : (s.reflect c).qOwner = s.qOwner := rfl
@[simp] theorem State.reflect_micro (s : State) (c : Cause) : (s.reflect c).micro = s.micro := rfl
@[simp] theorem State.reflect_rewrites (s : State) (c : Cause) : (s.reflect c).rewrites = s.rewrites := rfl
@[simp] theorem State.reflect_feat (s : State) (c : Cause) : (s.reflect c).feat = s.feat := rfl
@[simp] theorem State.reflect_wdl (s : State) (c : Cause) : (s.reflect c).wdl = s.wdl := rfl
@[simp] theorem State.reflect_clpol (s : State) (c : Cause) : (s.reflect c).clpol = s.clpol := rfl
@[simp] theorem State.reflect_zst (s : State) (c : Cause) : (s.reflect c).zst = s.zst := rfl
@[simp] theorem State.reflect_ns (s : State) (c : Cause) : (s.reflect c).ns = s.ns := rfl
@[simp] theorem State.reflect_tokens (s : State) (c : Cause) : (s.reflect c).tokens = s.tokens := rfl
@[simp] theorem State.reflect_pwrReqs (s : State) (c : Cause) : (s.reflect c).pwrReqs = s.pwrReqs := rfl
@[simp] theorem State.reflect_windows (s : State) (c : Cause) : (s.reflect c).windows = s.windows := rfl
@[simp] theorem State.reflect_pkgid (s : State) (c : Cause) : (s.reflect c).pkgid = s.pkgid := rfl
@[simp] theorem State.reflect_vpool (s : State) (c : Cause) : (s.reflect c).vpool = s.vpool := rfl
@[simp] theorem State.reflect_stst (s : State) (c : Cause) : (s.reflect c).stst = s.stst := rfl
@[simp] theorem State.reflect_klp (s : State) (c : Cause) : (s.reflect c).klp = s.klp := rfl
@[simp] theorem State.reflect_replays (s : State) (c : Cause) : (s.reflect c).replays = s.replays := rfl
@[simp] theorem State.reflect_mrs (s : State) (c : Cause) : (s.reflect c).mrs = s.mrs := rfl
@[simp] theorem State.reflect_sdr (s : State) (c : Cause) : (s.reflect c).sdr = s.sdr := rfl
@[simp] theorem State.reflect_sdh (s : State) (c : Cause) : (s.reflect c).sdh = s.sdh := rfl
@[simp] theorem State.reflect_tdis (s : State) (c : Cause) : (s.reflect c).tdis = s.tdis := rfl
@[simp] theorem State.reflect_vfs (s : State) (c : Cause) : (s.reflect c).vfs = s.vfs := rfl
@[simp] theorem State.reflect_hostOut (s : State) (c : Cause) : (s.reflect c).hostOut = s.hostOut := rfl
@[simp] theorem State.reflect_boot (s : State) (c : Cause) : (s.reflect c).boot = s.boot := rfl
@[simp] theorem State.reflect_power (s : State) (c : Cause) : (s.reflect c).power = s.power := rfl
@[simp] theorem State.reflect_agenda (s : State) (c : Cause) : (s.reflect c).agenda = s.agenda := rfl
@[simp] theorem State.reflect_cur (s : State) (c : Cause) : (s.reflect c).cur = s.cur := rfl
@[simp] theorem State.reflect_fresh (s : State) (c : Cause) : (s.reflect c).fresh = s.fresh := rfl

@[simp] theorem State.result_b_key (s : State) (l : Loc) (v n d : Nat) (p : Bool) : (s.result l v n d p).b.key = s.b.key :=
  State.result_keeps (x := (·.b.key)) l v n d p fun _ _ => rfl
@[simp] theorem State.result_b_bound (s : State) (l : Loc) (v n d : Nat) (p : Bool) : (s.result l v n d p).b.bound = s.b.bound :=
  State.result_keeps (x := (·.b.bound)) l v n d p fun _ _ => rfl
@[simp] theorem State.result_b_uid (s : State) (l : Loc) (v n d : Nat) (p : Bool) : (s.result l v n d p).b.uid = s.b.uid :=
  State.result_keeps (x := (·.b.uid)) l v n d p fun _ _ => rfl
@[simp] theorem State.result_b_ctx (s : State) (l : Loc) (v n d : Nat) (p : Bool) : (s.result l v n d p).b.ctx = s.b.ctx :=
  State.result_keeps (x := (·.b.ctx)) l v n d p fun _ _ => rfl
@[simp] theorem State.result_b_lnch (s : State) (l : Loc) (v n d : Nat) (p : Bool) : (s.result l v n d p).b.lnch = s.b.lnch :=
  State.result_keeps (x := (·.b.lnch)) l v n d p fun _ _ => rfl
@[simp] theorem State.result_b_kern (s : State) (l : Loc) (v n d : Nat) (p : Bool) : (s.result l v n d p).b.kern = s.b.kern :=
  State.result_keeps (x := (·.b.kern)) l v n d p fun _ _ => rfl
@[simp] theorem State.result_b_pri (s : State) (l : Loc) (v n d : Nat) (p : Bool) : (s.result l v n d p).b.pri = s.b.pri :=
  State.result_keeps (x := (·.b.pri)) l v n d p fun _ _ => rfl
@[simp] theorem State.result_b_mode (s : State) (l : Loc) (v n d : Nat) (p : Bool) : (s.result l v n d p).b.mode = s.b.mode :=
  State.result_keeps (x := (·.b.mode)) l v n d p fun _ _ => rfl
@[simp] theorem State.result_b_slotB (s : State) (l : Loc) (v n d : Nat) (p : Bool) : (s.result l v n d p).b.slotB = s.b.slotB :=
  State.result_keeps (x := (·.b.slotB)) l v n d p fun _ _ => rfl
@[simp] theorem State.result_b_core (s : State) (l : Loc) (v n d : Nat) (p : Bool) : (s.result l v n d p).b.core = s.b.core :=
  State.result_keeps (x := (·.b.core)) l v n d p fun _ _ => rfl
@[simp] theorem State.result_b_col (s : State) (l : Loc) (v n d : Nat) (p : Bool) : (s.result l v n d p).b.col = s.b.col :=
  State.result_keeps (x := (·.b.col)) l v n d p fun _ _ => rfl
@[simp] theorem State.result_b_cIdx (s : State) (l : Loc) (v n d : Nat) (p : Bool) : (s.result l v n d p).b.cIdx = s.b.cIdx :=
  State.result_keeps (x := (·.b.cIdx)) l v n d p fun _ _ => rfl
@[simp] theorem State.result_b_cNum (s : State) (l : Loc) (v n d : Nat) (p : Bool) : (s.result l v n d p).b.cNum = s.b.cNum :=
  State.result_keeps (x := (·.b.cNum)) l v n d p fun _ _ => rfl
@[simp] theorem State.result_b_dIdx (s : State) (l : Loc) (v n d : Nat) (p : Bool) : (s.result l v n d p).b.dIdx = s.b.dIdx :=
  State.result_keeps (x := (·.b.dIdx)) l v n d p fun _ _ => rfl
@[simp] theorem State.result_b_dNum (s : State) (l : Loc) (v n d : Nat) (p : Bool) : (s.result l v n d p).b.dNum = s.b.dNum :=
  State.result_keeps (x := (·.b.dNum)) l v n d p fun _ _ => rfl
@[simp] theorem State.result_b_tkBase (s : State) (l : Loc) (v n d : Nat) (p : Bool) : (s.result l v n d p).b.tkBase = s.b.tkBase :=
  State.result_keeps (x := (·.b.tkBase)) l v n d p fun _ _ => rfl
@[simp] theorem State.result_b_sr (s : State) (l : Loc) (v n d : Nat) (p : Bool) : (s.result l v n d p).b.sr = s.b.sr :=
  State.result_keeps (x := (·.b.sr)) l v n d p fun _ _ => rfl
@[simp] theorem State.result_b_ar (s : State) (l : Loc) (v n d : Nat) (p : Bool) : (s.result l v n d p).b.ar = s.b.ar :=
  State.result_keeps (x := (·.b.ar)) l v n d p fun _ _ => rfl
@[simp] theorem State.result_b_fl (s : State) (l : Loc) (v n d : Nat) (p : Bool) : (s.result l v n d p).b.fl = s.b.fl :=
  State.result_keeps (x := (·.b.fl)) l v n d p fun _ _ => rfl
@[simp] theorem State.result_b_gm (s : State) (l : Loc) (v n d : Nat) (p : Bool) : (s.result l v n d p).b.gm = s.b.gm :=
  State.result_keeps (x := (·.b.gm)) l v n d p fun _ _ => rfl
@[simp] theorem State.result_b_bcn (s : State) (l : Loc) (v n d : Nat) (p : Bool) : (s.result l v n d p).b.bcn = s.b.bcn :=
  State.result_keeps (x := (·.b.bcn)) l v n d p fun _ _ => rfl
@[simp] theorem State.result_b_pc (s : State) (l : Loc) (v n d : Nat) (p : Bool) : (s.result l v n d p).b.pc = s.b.pc :=
  State.result_keeps (x := (·.b.pc)) l v n d p fun _ _ => rfl
@[simp] theorem State.result_b_npc (s : State) (l : Loc) (v n d : Nat) (p : Bool) : (s.result l v n d p).b.npc = s.b.npc :=
  State.result_keeps (x := (·.b.npc)) l v n d p fun _ _ => rfl
@[simp] theorem State.result_b_seg (s : State) (l : Loc) (v n d : Nat) (p : Bool) : (s.result l v n d p).b.seg = s.b.seg :=
  State.result_keeps (x := (·.b.seg)) l v n d p fun _ _ => rfl
@[simp] theorem State.result_b_lc (s : State) (l : Loc) (v n d : Nat) (p : Bool) : (s.result l v n d p).b.lc = s.b.lc :=
  State.result_keeps (x := (·.b.lc)) l v n d p fun _ _ => rfl
@[simp] theorem State.result_b_li (s : State) (l : Loc) (v n d : Nat) (p : Bool) : (s.result l v n d p).b.li = s.b.li :=
  State.result_keeps (x := (·.b.li)) l v n d p fun _ _ => rfl
@[simp] theorem State.result_b_ls (s : State) (l : Loc) (v n d : Nat) (p : Bool) : (s.result l v n d p).b.ls = s.b.ls :=
  State.result_keeps (x := (·.b.ls)) l v n d p fun _ _ => rfl
@[simp] theorem State.result_b_le (s : State) (l : Loc) (v n d : Nat) (p : Bool) : (s.result l v n d p).b.le = s.b.le :=
  State.result_keeps (x := (·.b.le)) l v n d p fun _ _ => rfl
@[simp] theorem State.result_b_depth (s : State) (l : Loc) (v n d : Nat) (p : Bool) : (s.result l v n d p).b.depth = s.b.depth :=
  State.result_keeps (x := (·.b.depth)) l v n d p fun _ _ => rfl
@[simp] theorem State.result_b_rgst (s : State) (l : Loc) (v n d : Nat) (p : Bool) : (s.result l v n d p).b.rgst = s.b.rgst :=
  State.result_keeps (x := (·.b.rgst)) l v n d p fun _ _ => rfl
@[simp] theorem State.result_b_vsnp (s : State) (l : Loc) (v n d : Nat) (p : Bool) : (s.result l v n d p).b.vsnp = s.b.vsnp :=
  State.result_keeps (x := (·.b.vsnp)) l v n d p fun _ _ => rfl
@[simp] theorem State.result_b_trow (s : State) (l : Loc) (v n d : Nat) (p : Bool) : (s.result l v n d p).b.trow = s.b.trow :=
  State.result_keeps (x := (·.b.trow)) l v n d p fun _ _ => rfl
@[simp] theorem State.result_b_vcw (s : State) (l : Loc) (v n d : Nat) (p : Bool) : (s.result l v n d p).b.vcw = s.b.vcw :=
  State.result_keeps (x := (·.b.vcw)) l v n d p fun _ _ => rfl
@[simp] theorem State.result_b_vr (s : State) (l : Loc) (v n d : Nat) (p : Bool) : (s.result l v n d p).b.vr = s.b.vr :=
  State.result_keeps (x := (·.b.vr)) l v n d p fun _ _ => rfl
@[simp] theorem State.result_b_vfl (s : State) (l : Loc) (v n d : Nat) (p : Bool) : (s.result l v n d p).b.vfl = s.b.vfl :=
  State.result_keeps (x := (·.b.vfl)) l v n d p fun _ _ => rfl
@[simp] theorem State.result_b_q (s : State) (l : Loc) (v n d : Nat) (p : Bool) : (s.result l v n d p).b.q = s.b.q :=
  State.result_keeps (x := (·.b.q)) l v n d p fun _ _ => rfl
@[simp] theorem State.result_b_xs (s : State) (l : Loc) (v n d : Nat) (p : Bool) : (s.result l v n d p).b.xs = s.b.xs :=
  State.result_keeps (x := (·.b.xs)) l v n d p fun _ _ => rfl
@[simp] theorem State.result_b_spill (s : State) (l : Loc) (v n d : Nat) (p : Bool) : (s.result l v n d p).b.spill = s.b.spill :=
  State.result_keeps (x := (·.b.spill)) l v n d p fun _ _ => rfl
@[simp] theorem State.result_b_cbc (s : State) (l : Loc) (v n d : Nat) (p : Bool) : (s.result l v n d p).b.cbc = s.b.cbc :=
  State.result_keeps (x := (·.b.cbc)) l v n d p fun _ _ => rfl
@[simp] theorem State.result_b_cbs (s : State) (l : Loc) (v n d : Nat) (p : Bool) : (s.result l v n d p).b.cbs = s.b.cbs :=
  State.result_keeps (x := (·.b.cbs)) l v n d p fun _ _ => rfl
@[simp] theorem State.result_b_cn (s : State) (l : Loc) (v n d : Nat) (p : Bool) : (s.result l v n d p).b.cn = s.b.cn :=
  State.result_keeps (x := (·.b.cn)) l v n d p fun _ _ => rfl
@[simp] theorem State.result_b_kfr (s : State) (l : Loc) (v n d : Nat) (p : Bool) : (s.result l v n d p).b.kfr = s.b.kfr :=
  State.result_keeps (x := (·.b.kfr)) l v n d p fun _ _ => rfl
@[simp] theorem State.result_b_queues (s : State) (l : Loc) (v n d : Nat) (p : Bool) : (s.result l v n d p).b.queues = s.b.queues :=
  State.result_keeps (x := (·.b.queues)) l v n d p fun _ _ => rfl
@[simp] theorem State.result_b_filled (s : State) (l : Loc) (v n d : Nat) (p : Bool) : (s.result l v n d p).b.filled = s.b.filled :=
  State.result_keeps (x := (·.b.filled)) l v n d p fun _ _ => rfl
@[simp] theorem State.result_b_streams (s : State) (l : Loc) (v n d : Nat) (p : Bool) : (s.result l v n d p).b.streams = s.b.streams :=
  State.result_keeps (x := (·.b.streams)) l v n d p fun _ _ => rfl
@[simp] theorem State.result_b_holds (s : State) (l : Loc) (v n d : Nat) (p : Bool) : (s.result l v n d p).b.holds = s.b.holds :=
  State.result_keeps (x := (·.b.holds)) l v n d p fun _ _ => rfl
@[simp] theorem State.result_b_aside (s : State) (l : Loc) (v n d : Nat) (p : Bool) : (s.result l v n d p).b.aside = s.b.aside :=
  State.result_keeps (x := (·.b.aside)) l v n d p fun _ _ => rfl
@[simp] theorem State.result_b_waitSyl (s : State) (l : Loc) (v n d : Nat) (p : Bool) : (s.result l v n d p).b.waitSyl = s.b.waitSyl :=
  State.result_keeps (x := (·.b.waitSyl)) l v n d p fun _ _ => rfl
@[simp] theorem State.result_b_bun (s : State) (l : Loc) (v n d : Nat) (p : Bool) : (s.result l v n d p).b.bun = s.b.bun :=
  State.result_keeps (x := (·.b.bun)) l v n d p fun _ _ => rfl
@[simp] theorem State.result_b_wx (s : State) (l : Loc) (v n d : Nat) (p : Bool) : (s.result l v n d p).b.wx = s.b.wx :=
  State.result_keeps (x := (·.b.wx)) l v n d p fun _ _ => rfl
@[simp] theorem State.result_b_forms (s : State) (l : Loc) (v n d : Nat) (p : Bool) : (s.result l v n d p).b.forms = s.b.forms :=
  State.result_keeps (x := (·.b.forms)) l v n d p fun _ _ => rfl
@[simp] theorem State.result_b_barr (s : State) (l : Loc) (v n d : Nat) (p : Bool) : (s.result l v n d p).b.barr = s.b.barr :=
  State.result_keeps (x := (·.b.barr)) l v n d p fun _ _ => rfl
@[simp] theorem State.result_b_wait (s : State) (l : Loc) (v n d : Nat) (p : Bool) : (s.result l v n d p).b.wait = s.b.wait :=
  State.result_keeps (x := (·.b.wait)) l v n d p fun _ _ => rfl
@[simp] theorem State.result_b_open_ (s : State) (l : Loc) (v n d : Nat) (p : Bool) : (s.result l v n d p).b.open_ = s.b.open_ :=
  State.result_keeps (x := (·.b.open_)) l v n d p fun _ _ => rfl
@[simp] theorem State.result_b_safe (s : State) (l : Loc) (v n d : Nat) (p : Bool) : (s.result l v n d p).b.safe = s.b.safe :=
  State.result_keeps (x := (·.b.safe)) l v n d p fun _ _ => rfl
@[simp] theorem State.result_b_yld (s : State) (l : Loc) (v n d : Nat) (p : Bool) : (s.result l v n d p).b.yld = s.b.yld :=
  State.result_keeps (x := (·.b.yld)) l v n d p fun _ _ => rfl
@[simp] theorem State.result_b_live (s : State) (l : Loc) (v n d : Nat) (p : Bool) : (s.result l v n d p).b.live = s.b.live :=
  State.result_keeps (x := (·.b.live)) l v n d p fun _ _ => rfl
@[simp] theorem State.result_b_taken (s : State) (l : Loc) (v n d : Nat) (p : Bool) : (s.result l v n d p).b.taken = s.b.taken :=
  State.result_keeps (x := (·.b.taken)) l v n d p fun _ _ => rfl
@[simp] theorem State.result_b_len (s : State) (l : Loc) (v n d : Nat) (p : Bool) : (s.result l v n d p).b.len = s.b.len :=
  State.result_keeps (x := (·.b.len)) l v n d p fun _ _ => rfl
@[simp] theorem State.result_b_fall (s : State) (l : Loc) (v n d : Nat) (p : Bool) : (s.result l v n d p).b.fall = s.b.fall :=
  State.result_keeps (x := (·.b.fall)) l v n d p fun _ _ => rfl
@[simp] theorem State.result_b_rep (s : State) (l : Loc) (v n d : Nat) (p : Bool) : (s.result l v n d p).b.rep = s.b.rep :=
  State.result_keeps (x := (·.b.rep)) l v n d p fun _ _ => rfl
@[simp] theorem State.result_b_iss (s : State) (l : Loc) (v n d : Nat) (p : Bool) : (s.result l v n d p).b.iss = s.b.iss :=
  State.result_keeps (x := (·.b.iss)) l v n d p fun _ _ => rfl
@[simp] theorem State.result_b_stores (s : State) (l : Loc) (v n d : Nat) (p : Bool) : (s.result l v n d p).b.stores = s.b.stores :=
  State.result_keeps (x := (·.b.stores)) l v n d p fun _ _ => rfl
@[simp] theorem State.result_b_poison (s : State) (l : Loc) (v n d : Nat) (p : Bool) : (s.result l v n d p).b.poison = s.b.poison :=
  State.result_keeps (x := (·.b.poison)) l v n d p fun _ _ => rfl
@[simp] theorem State.result_b_tbr (s : State) (l : Loc) (v n d : Nat) (p : Bool) : (s.result l v n d p).b.tbr = s.b.tbr :=
  State.result_keeps (x := (·.b.tbr)) l v n d p fun _ _ => rfl
@[simp] theorem State.result_b_epc (s : State) (l : Loc) (v n d : Nat) (p : Bool) : (s.result l v n d p).b.epc = s.b.epc :=
  State.result_keeps (x := (·.b.epc)) l v n d p fun _ _ => rfl
@[simp] theorem State.result_b_enpc (s : State) (l : Loc) (v n d : Nat) (p : Bool) : (s.result l v n d p).b.enpc = s.b.enpc :=
  State.result_keeps (x := (·.b.enpc)) l v n d p fun _ _ => rfl
@[simp] theorem State.result_b_esta (s : State) (l : Loc) (v n d : Nat) (p : Bool) : (s.result l v n d p).b.esta = s.b.esta :=
  State.result_keeps (x := (·.b.esta)) l v n d p fun _ _ => rfl
@[simp] theorem State.result_b_ead (s : State) (l : Loc) (v n d : Nat) (p : Bool) : (s.result l v n d p).b.ead = s.b.ead :=
  State.result_keeps (x := (·.b.ead)) l v n d p fun _ _ => rfl
@[simp] theorem State.result_b_edt (s : State) (l : Loc) (v n d : Nat) (p : Bool) : (s.result l v n d p).b.edt = s.b.edt :=
  State.result_keeps (x := (·.b.edt)) l v n d p fun _ _ => rfl
@[simp] theorem State.result_b_eact (s : State) (l : Loc) (v n d : Nat) (p : Bool) : (s.result l v n d p).b.eact = s.b.eact :=
  State.result_keeps (x := (·.b.eact)) l v n d p fun _ _ => rfl
@[simp] theorem State.result_b_pgr (s : State) (l : Loc) (v n d : Nat) (p : Bool) : (s.result l v n d p).b.pgr = s.b.pgr :=
  State.result_keeps (x := (·.b.pgr)) l v n d p fun _ _ => rfl
@[simp] theorem State.result_b_opReq (s : State) (l : Loc) (v n d : Nat) (p : Bool) : (s.result l v n d p).b.opReq = s.b.opReq :=
  State.result_keeps (x := (·.b.opReq)) l v n d p fun _ _ => rfl
@[simp] theorem State.result_b_wdc (s : State) (l : Loc) (v n d : Nat) (p : Bool) : (s.result l v n d p).b.wdc = s.b.wdc :=
  State.result_keeps (x := (·.b.wdc)) l v n d p fun _ _ => rfl
@[simp] theorem State.result_b_sinceSafe (s : State) (l : Loc) (v n d : Nat) (p : Bool) : (s.result l v n d p).b.sinceSafe = s.b.sinceSafe :=
  State.result_keeps (x := (·.b.sinceSafe)) l v n d p fun _ _ => rfl
@[simp] theorem State.result_b_kindA (s : State) (l : Loc) (v n d : Nat) (p : Bool) : (s.result l v n d p).b.kindA = s.b.kindA :=
  State.result_keeps (x := (·.b.kindA)) l v n d p fun _ _ => rfl
@[simp] theorem State.result_b_halted (s : State) (l : Loc) (v n d : Nat) (p : Bool) : (s.result l v n d p).b.halted = s.b.halted :=
  State.result_keeps (x := (·.b.halted)) l v n d p fun _ _ => rfl
@[simp] theorem State.result_b_hint (s : State) (l : Loc) (v n d : Nat) (p : Bool) : (s.result l v n d p).b.hint = s.b.hint :=
  State.result_keeps (x := (·.b.hint)) l v n d p fun _ _ => rfl
@[simp] theorem State.result_b_lines (s : State) (l : Loc) (v n d : Nat) (p : Bool) : (s.result l v n d p).b.lines = s.b.lines :=
  State.result_keeps (x := (·.b.lines)) l v n d p fun _ _ => rfl
@[simp] theorem State.result_b_retiredSwitch (s : State) (l : Loc) (v n d : Nat) (p : Bool) : (s.result l v n d p).b.retiredSwitch = s.b.retiredSwitch :=
  State.result_keeps (x := (·.b.retiredSwitch)) l v n d p fun _ _ => rfl
@[simp] theorem State.result_b_preempt (s : State) (l : Loc) (v n d : Nat) (p : Bool) : (s.result l v n d p).b.preempt = s.b.preempt :=
  State.result_keeps (x := (·.b.preempt)) l v n d p fun _ _ => rfl
@[simp] theorem State.result_b_issuedCyc (s : State) (l : Loc) (v n d : Nat) (p : Bool) : (s.result l v n d p).b.issuedCyc = s.b.issuedCyc :=
  State.result_keeps (x := (·.b.issuedCyc)) l v n d p fun _ _ => rfl

end Sys2Proof.Machine
end

