-- ==== Sys2Proof/Laws/Frame.lean ====
section
/-! SUPPORT. The operations that leave global memory alone: its bytes, its poisoned lines and its versions. One lemma for
each, so that no proof about memory unfolds an operation. -/

namespace Sys2Proof.Machine

open Sys2Proof

/-- What memory is to the machine: its bytes, here and elsewhere, its poisoned lines and its versions. -/
def State.globals (s : State) : Memory × Memory × List Nat × Smap Vers := (s.mem, s.remote, s.poison, s.vers)

@[simp] theorem State.gm_mk (b banks firm cores mem remote poison vctr snaps vers locks ctxs grants tlb nests shoots recs cells tickQ tokqs taskqs launchqs live saved parts objs graphs uqs qOwner micro rewrites feat wdl clpol zst ns tokens pwrReqs windows pkgid vpool stst klp replays mrs sdr sdh tdis vfs hostOut boot power agenda cur fresh) :
  (State.mk b banks firm cores mem remote poison vctr snaps vers locks ctxs grants tlb nests shoots recs cells tickQ tokqs taskqs launchqs live saved parts objs graphs uqs qOwner micro rewrites feat wdl clpol zst ns tokens pwrReqs windows pkgid vpool stst klp replays mrs sdr sdh tdis vfs hostOut boot power agenda cur fresh).globals = (mem, remote, poison, vers) := rfl
@[simp] theorem State.gm_eta (s : State) : (s.mem, s.remote, s.poison, s.vers) = s.globals := rfl

theorem foldl_globals {α} {f : State → α → State} (h : ∀ t x, (f t x).globals = t.globals) (xs : List α) (s : State) : (xs.foldl f s).globals = s.globals := by
  induction xs generalizing s with
  | nil => rfl
  | cons x xs ih => rw [List.foldl_cons, ih, h]

@[simp] theorem State.result_globals (s : State) (l v n b p) : (s.result l v n b p).globals = s.globals := rfl
@[simp] theorem State.focus_globals (s : State) (k : Nat) : (s.focus k).globals = s.globals := by unfold State.focus; split <;> rfl
@[simp] theorem State.modB_globals (s : State) (f : Bank → Bank) : (State.modB s f).globals = s.globals := by
  unfold State.modB
  try dsimp only
  repeat' first | with_reducible rfl | (simp; done) | split | refine (foldl_globals (fun _ _ => ?_) _ _).trans ?_
@[simp] theorem State.modBank_globals (s : State) (k : Nat) (f : Bank → Bank) : (State.modBank s k f).globals = s.globals := by
  unfold State.modBank
  try dsimp only
  repeat' first | with_reducible rfl | (simp; done) | split | refine (foldl_globals (fun _ _ => ?_) _ _).trans ?_
@[simp] theorem State.modCore_globals (s : State) (n : Nat) (f : Core → Core) : (State.modCore s n f).globals = s.globals := by
  unfold State.modCore
  try dsimp only
  repeat' first | with_reducible rfl | (simp; done) | split | refine (foldl_globals (fun _ _ => ?_) _ _).trans ?_
@[simp] theorem State.modSlot_globals (s : State) (f : SlotMem → SlotMem) : (State.modSlot s f).globals = s.globals := by
  unfold State.modSlot
  try dsimp only
  repeat' first | with_reducible rfl | (simp; done) | split | refine (foldl_globals (fun _ _ => ?_) _ _).trans ?_
@[simp] theorem State.draw_globals (s : State) : (State.draw s).globals = s.globals := by
  unfold State.draw
  try dsimp only
  repeat' first | with_reducible rfl | (simp; done) | split | refine (foldl_globals (fun _ _ => ?_) _ _).trans ?_
@[simp] theorem State.resS_globals (s : State) (rd : Nat) (v : DWord) (bound : Nat) : (State.resS s rd v bound).globals = s.globals := by
  unfold State.resS
  try dsimp only
  repeat' first | with_reducible rfl | (simp; done) | split | refine (foldl_globals (fun _ _ => ?_) _ _).trans ?_
@[simp] theorem State.resF_globals (s : State) (fd : Nat) (v : Bool) : (State.resF s fd v).globals = s.globals := by
  unfold State.resF
  try dsimp only
  repeat' first | with_reducible rfl | (simp; done) | split | refine (foldl_globals (fun _ _ => ?_) _ _).trans ?_
@[simp] theorem State.resA_globals (s : State) (ar : Nat) (v : Nat) : (State.resA s ar v).globals = s.globals := by
  unfold State.resA
  try dsimp only
  repeat' first | with_reducible rfl | (simp; done) | split | refine (foldl_globals (fun _ _ => ?_) _ _).trans ?_
@[simp] theorem State.resV_globals (s : State) (cl n v lanes bound : Nat) : (State.resV s cl n v lanes bound).globals = s.globals := by
  unfold State.resV
  try dsimp only
  repeat' first | with_reducible rfl | (simp; done) | split | refine (foldl_globals (fun _ _ => ?_) _ _).trans ?_
@[simp] theorem State.resVfl_globals (s : State) (cl v bound : Nat) : (State.resVfl s cl v bound).globals = s.globals := by
  unfold State.resVfl
  try dsimp only
  repeat' first | with_reducible rfl | (simp; done) | split | refine (foldl_globals (fun _ _ => ?_) _ _).trans ?_
@[simp] theorem State.abortSync_globals (s : State) (cause code gix : Nat) : (State.abortSync s cause code gix).globals = s.globals := by
  unfold State.abortSync
  try dsimp only
  repeat' first | with_reducible rfl | (simp; done) | split | refine (foldl_globals (fun _ _ => ?_) _ _).trans ?_
@[simp] theorem State.guardCheck_globals (s : State) (a n : Nat) : (State.guardCheck s a n).globals = s.globals := by
  unfold State.guardCheck
  try dsimp only
  repeat' first | with_reducible rfl | (simp; done) | split | refine (foldl_globals (fun _ _ => ?_) _ _).trans ?_
@[simp] theorem State.landStores_globals (s : State) : (State.landStores s).globals = s.globals := by
  unfold State.landStores
  try dsimp only
  repeat' first | with_reducible rfl | (simp; done) | split | refine (foldl_globals (fun _ _ => ?_) _ _).trans ?_
@[simp] theorem State.arrived_globals (s : State) (n : Nat) (v : DWord) (who : Bank → Bool) : (State.arrived s n v who).globals = s.globals := by
  unfold State.arrived
  try dsimp only
  repeat' first | with_reducible rfl | (simp; done) | split | refine (foldl_globals (fun _ _ => ?_) _ _).trans ?_
@[simp] theorem State.shadowV_globals (s : State) (cl n : Nat) : (State.shadowV s cl n).1.globals = s.globals := by
  unfold State.shadowV
  try dsimp only
  repeat' first | with_reducible rfl | (simp; done) | split | refine (foldl_globals (fun _ _ => ?_) _ _).trans ?_
@[simp] theorem State.modCtx_globals (s : State) (n : Nat) (f : Ctx → Ctx) : (State.modCtx s n f).globals = s.globals := by
  unfold State.modCtx
  try dsimp only
  repeat' first | with_reducible rfl | (simp; done) | split | refine (foldl_globals (fun _ _ => ?_) _ _).trans ?_
@[simp] theorem State.record_globals (s : State) (c : Cause) (waits : Bool) : (State.record s c waits).globals = s.globals := by
  unfold State.record
  try dsimp only
  repeat' first | with_reducible rfl | (simp; done) | split | refine (foldl_globals (fun _ _ => ?_) _ _).trans ?_
@[simp] theorem State.reflect_globals (s : State) (c : Cause) : (State.reflect s c).globals = s.globals := by
  unfold State.reflect
  try dsimp only
  repeat' first | with_reducible rfl | (simp; done) | split | refine (foldl_globals (fun _ _ => ?_) _ _).trans ?_
@[simp] theorem State.takeTrap_globals (s : State) (c : Cause) : (State.takeTrap s c).globals = s.globals := by
  unfold State.takeTrap
  try dsimp only
  repeat' first | with_reducible rfl | (simp; done) | split | refine (foldl_globals (fun _ _ => ?_) _ _).trans ?_
@[simp] theorem State.report_globals (s : State) (c : Cause) (stops : Bool) : (State.report s c stops).globals = s.globals := by
  unfold State.report
  try dsimp only
  repeat' first | with_reducible rfl | (simp; done) | split | refine (foldl_globals (fun _ _ => ?_) _ _).trans ?_
@[simp] theorem State.thaw_globals (s : State) : (State.thaw s).globals = s.globals := by
  unfold State.thaw
  try dsimp only
  repeat' first | with_reducible rfl | (simp; done) | split | refine (foldl_globals (fun _ _ => ?_) _ _).trans ?_
@[simp] theorem State.refuseFault_globals (s : State) (c : Cause) : (State.refuseFault s c).globals = s.globals := by
  simp only [State.refuseFault]
  have h (xs : List Far) : (xs.foldl (fun s f => s.modB fun x => x.landFar f (s.undef f.dest.width (229 :: f.dest.code))) s).globals =
      s.globals := foldl_globals (fun _ _ => by simp) _ _
  repeat' first | with_reducible rfl | (simp [h]; done) | split
@[simp] theorem State.dropStreams_globals (s : State) : (State.dropStreams s).globals = s.globals := by
  unfold State.dropStreams
  try dsimp only
  repeat' first | with_reducible rfl | (simp; done) | split | refine (foldl_globals (fun _ _ => ?_) _ _).trans ?_
@[simp] theorem State.stopCtx_globals (s : State) (n : Nat) : (State.stopCtx s n).globals = s.globals := by
  unfold State.stopCtx
  try dsimp only
  repeat' first | with_reducible rfl | (simp; done) | split | refine (foldl_globals (fun _ _ => ?_) _ _).trans ?_
@[simp] theorem State.resume_globals (s : State) (c : Cause) (act : Nat) (epc enpc : BitVec 56) (wx : BitVec 32) (own : Bool) : (State.resume s c act epc enpc wx own).globals = s.globals := by
  unfold State.resume
  try dsimp only
  repeat' first | with_reducible rfl | (simp; done) | split | refine (foldl_globals (fun _ _ => ?_) _ _).trans ?_
@[simp] theorem State.postStep_globals (s : State) (ar : BitVec 5) (st : Int) : (State.postStep s ar st).globals = s.globals := by
  unfold State.postStep
  try dsimp only
  repeat' first | with_reducible rfl | (simp; done) | split | refine (foldl_globals (fun _ _ => ?_) _ _).trans ?_
/-- An effect that a region bars keeps what the effect keeps. -/
theorem State.unlessBarred_globals {s : State} {i : Instr} {eff : State → State}
    (h : (eff s).globals = s.globals) : (s.unlessBarred i eff).globals = s.globals := by
  unfold State.unlessBarred
  split
  · simp
  · exact h
/-- A syllable keeps what its effect keeps. -/
theorem State.syl_globals {s : State} {i : Instr} {c : Ctl} (causes : List Cause) {eff : State → State}
    (h : (eff s).globals = s.globals) : (s.syl i c causes eff).globals = s.globals := by
  simp only [State.syl, State.draw_globals]
  repeat' split
  all_goals first | rfl | exact State.unlessBarred_globals h | exact State.takeTrap_globals _ _
@[simp] theorem State.alu_globals (s : State) (rd ra : BitVec 6) (i zext : Bool) (b : BitVec 6) (bound : Nat) (f : DWord → DWord → DWord) : (State.alu s rd ra i zext b bound f).globals = s.globals := by
  unfold State.alu
  try dsimp only
  repeat' first | with_reducible rfl | (simp; done) | split | refine (foldl_globals (fun _ _ => ?_) _ _).trans ?_
@[simp] theorem State.setMask_globals (s : State) (mask : BitVec 15) (v : Bool) : (State.setMask s mask v).globals = s.globals := by
  unfold State.setMask
  try dsimp only
  repeat' first | with_reducible rfl | (simp; done) | split | refine (foldl_globals (fun _ _ => ?_) _ _).trans ?_
@[simp] theorem State.goto_globals (s : State) (t : BitVec 56) : (State.goto s t).globals = s.globals := by
  unfold State.goto
  try dsimp only
  repeat' first | with_reducible rfl | (simp; done) | split | refine (foldl_globals (fun _ _ => ?_) _ _).trans ?_
@[simp] theorem State.goAfter_globals (s : State) (e : BitVec 56) : (s.goAfter e).globals = s.globals := rfl
theorem State.loop_globals {s : State} (fin : BitVec 11) (n : DWord) {after : State → State} (h : (after s).globals = s.globals) :
    (s.loop fin n after).globals = s.globals := by
  simp only [State.loop]; split
  · exact h
  · simp
@[simp] theorem State.fillTlb_globals (s : State) (l : Leaf) : (State.fillTlb s l).globals = s.globals := by
  unfold State.fillTlb
  try dsimp only
  repeat' first | with_reducible rfl | (simp; done) | split | refine (foldl_globals (fun _ _ => ?_) _ _).trans ?_
@[simp] theorem State.markDirty_globals (s : State) (l : Leaf) : (State.markDirty s l).globals = s.globals := by
  unfold State.markDirty
  try dsimp only
  repeat' first | with_reducible rfl | (simp; done) | split | refine (foldl_globals (fun _ _ => ?_) _ _).trans ?_
@[simp] theorem State.charge_globals (s : State) (l : Leaf) (va : Nat) : (State.charge s l va).globals = s.globals := by
  unfold State.charge
  try dsimp only
  repeat' first | with_reducible rfl | (simp; done) | split | refine (foldl_globals (fun _ _ => ?_) _ _).trans ?_
@[simp] theorem State.copyFault_globals (s : State) (k : Nat) (reg far : Bool) (f : WalkFault) (wr : Bool) (va : Nat) : (State.copyFault s k reg far f wr va).globals = s.globals := by
  unfold State.copyFault
  try dsimp only
  repeat' first | with_reducible rfl | (simp; done) | split | refine (foldl_globals (fun _ _ => ?_) _ _).trans ?_
@[simp] theorem State.fillLines_globals (s : State) (pc len : Nat) : (State.fillLines s pc len).globals = s.globals := by
  unfold State.fillLines
  try dsimp only
  repeat' first | with_reducible rfl | (simp; done) | split | refine (foldl_globals (fun _ _ => ?_) _ _).trans ?_
@[simp] theorem State.loadS_globals (s : State) (rs : BitVec 6) (a : Nat) (fmt : BitVec 3) : (State.loadS s rs a fmt).globals = s.globals := by
  unfold State.loadS
  try dsimp only
  repeat' first | with_reducible rfl | (simp; done) | split | refine (foldl_globals (fun _ _ => ?_) _ _).trans ?_
@[simp] theorem State.supersede_globals (s : State) (l : Loc) (lanes : Nat) : (State.supersede s l lanes).globals = s.globals := by
  unfold State.supersede
  try dsimp only
  repeat' first | with_reducible rfl | (simp; done) | split | refine (foldl_globals (fun _ _ => ?_) _ _).trans ?_
@[simp] theorem State.addFar_globals (s : State) (dest : Loc) (size : Nat) (signed : Bool) (core : Option Nat) (a n : Nat) : (State.addFar s dest size signed core a n).globals = s.globals := by
  unfold State.addFar
  try dsimp only
  repeat' first | with_reducible rfl | (simp; done) | split | refine (foldl_globals (fun _ _ => ?_) _ _).trans ?_
@[simp] theorem State.guard_globals (s : State) (a n : Nat) : (State.guard s a n).globals = s.globals := by
  unfold State.guard
  try dsimp only
  repeat' first | with_reducible rfl | (simp; done) | split | refine (foldl_globals (fun _ _ => ?_) _ _).trans ?_
@[simp] theorem State.contribute_globals (s : State) (fmt bound : Nat) (xs : List Nat) : (State.contribute s fmt bound xs).globals = s.globals := by
  unfold State.contribute
  try dsimp only
  repeat' first | with_reducible rfl | (simp; done) | split | refine (foldl_globals (fun _ _ => ?_) _ _).trans ?_
@[simp] theorem State.putV_globals (s : State) (cl n v lanes bound : Nat) (p : Bool) : (s.putV cl n v lanes bound p).globals = s.globals := by
  unfold State.putV
  try dsimp only
  repeat' (first | with_reducible rfl | (simp; done) | split)
@[simp] theorem State.vdeliver_globals (s : State) (e : Vcw) (fmt bound : Nat) (res fls : List Nat) :
    (s.vdeliver e fmt bound res fls).globals = s.globals := by
  have h (t : State) (b : Bool) (cl v n : Nat) : (if b then t else t.resVfl cl v n).globals = t.globals := by cases b <;> simp
  have h' (t : State) (p : Prop) [Decidable p] (x y : Nat) (zs : List Nat) :
      (if p then t.contribute x y zs else t).globals = t.globals := by split <;> simp
  simp only [State.vdeliver, h', h, State.putV_globals]
@[simp] theorem State.vmap_globals (s : State) (e : Vcw) (bound : Nat) (op : Nat → Nat → Nat → Nat × Nat) :
    (s.vmap e bound op).globals = s.globals := by
  simp only [State.vmap, State.vdeliver_globals]
@[simp] theorem State.vspecial_globals (s : State) (e : Vcw) (fn : Nat) : (State.vspecial s e fn).globals = s.globals := by
  unfold State.vspecial
  try dsimp only
  repeat' first | with_reducible rfl | (simp; done) | split | refine (foldl_globals (fun _ _ => ?_) _ _).trans ?_
@[simp] theorem State.accumulate_globals (s : State) (op : Nat) (ql cls : BitVec 2) (lm : Bool) : (State.accumulate s op ql cls lm).globals = s.globals := by
  unfold State.accumulate
  try dsimp only
  repeat' first | with_reducible rfl | (simp; done) | split | refine (foldl_globals (fun _ _ => ?_) _ _).trans ?_
@[simp] theorem State.writeLatch_globals (s : State) (ql : BitVec 2) (v : Nat) : (State.writeLatch s ql v).globals = s.globals := by
  unfold State.writeLatch
  try dsimp only
  repeat' first | with_reducible rfl | (simp; done) | split | refine (foldl_globals (fun _ _ => ?_) _ _).trans ?_
@[simp] theorem State.shadowTiles_globals (s : State) (ts : List Nat) : (State.shadowTiles s ts).1.globals = s.globals := by
  unfold State.shadowTiles
  try dsimp only
  repeat' first | with_reducible rfl | (simp; done) | split | refine (foldl_globals (fun _ _ => ?_) _ _).trans ?_
@[simp] theorem State.holdImage_globals (s : State) (a n : Nat) : (State.holdImage s a n).1.globals = s.globals := by
  unfold State.holdImage
  try dsimp only
  repeat' first | with_reducible rfl | (simp; done) | split | refine (foldl_globals (fun _ _ => ?_) _ _).trans ?_
@[simp] theorem State.xIssue_globals (s : State) (i : Instr) (aa ab : Nat) (step : Option (BitVec 5 × Nat)) : (State.xIssue s i aa ab step).globals = s.globals := by
  unfold State.xIssue
  try dsimp only
  repeat' first | with_reducible rfl | (simp; done) | split | refine (foldl_globals (fun _ _ => ?_) _ _).trans ?_
@[simp] theorem State.putImage_globals (s : State) (o : XOp) (pieces : List (Nat × List Byte)) (a n : Nat) (bad : Bool) : (State.putImage s o pieces a n bad).globals = s.globals := by
  unfold State.putImage
  try dsimp only
  repeat' first | with_reducible rfl | (simp; done) | split | refine (foldl_globals (fun _ _ => ?_) _ _).trans ?_
@[simp] theorem State.xPerform_globals (s : State) (o : XOp) : (State.xPerform s o).globals = s.globals := by
  unfold State.xPerform
  try dsimp only
  repeat' first | with_reducible rfl | (simp; done) | split | refine (foldl_globals (fun _ _ => ?_) _ _).trans ?_
@[simp] theorem State.streamFault_globals (s : State) (col : Nat) (st : Stream) (f : WalkFault) (va : Nat) : (State.streamFault s col st f va).globals = s.globals := by
  unfold State.streamFault
  try dsimp only
  repeat' first | with_reducible rfl | (simp; done) | split | refine (foldl_globals (fun _ _ => ?_) _ _).trans ?_
@[simp] theorem State.enqueue_globals (s : State) (q : BitVec 2) (p : Pkt) (held : Bool) : (State.enqueue s q p held).globals = s.globals := by
  unfold State.enqueue
  try dsimp only
  repeat' first | with_reducible rfl | (simp; done) | split | refine (foldl_globals (fun _ _ => ?_) _ _).trans ?_
@[simp] theorem State.guardRows_globals (s : State) (p : Pkt) : (State.guardRows s p).globals = s.globals := by
  unfold State.guardRows
  try dsimp only
  repeat' first | with_reducible rfl | (simp; done) | split | refine (foldl_globals (fun _ _ => ?_) _ _).trans ?_
@[simp] theorem State.atomic_globals (s : State) (q : BitVec 2) (sp : BitVec 4) (rd : BitVec 6) (sz sg : Bool) (ord : BitVec 2) (arr : BitVec 4) (op : Nat) : (State.atomic s q sp rd sz sg ord arr op).globals = s.globals := by
  unfold State.atomic
  try dsimp only
  repeat' first | with_reducible rfl | (simp; done) | split | refine (foldl_globals (fun _ _ => ?_) _ _).trans ?_
@[simp] theorem State.await_globals (s : State) (k : FormKind) (rd : Nat) (ops : List DWord) : (State.await s k rd ops).globals = s.globals := by
  unfold State.await
  try dsimp only
  repeat' first | with_reducible rfl | (simp; done) | split | refine (foldl_globals (fun _ _ => ?_) _ _).trans ?_
@[simp] theorem State.setPkts_globals (s : State) (k : Nat) (ps : List Pkt) : (State.setPkts s k ps).globals = s.globals := by
  unfold State.setPkts
  try dsimp only
  repeat' first | with_reducible rfl | (simp; done) | split | refine (foldl_globals (fun _ _ => ?_) _ _).trans ?_
@[simp] theorem State.drained_globals (s : State) (k : Nat) (p : Pkt) : (State.drained s k p).1.globals = s.globals := by
  unfold State.drained
  try dsimp only
  repeat' first | with_reducible rfl | (simp; done) | split | refine (foldl_globals (fun _ _ => ?_) _ _).trans ?_
@[simp] theorem State.engWrite_globals (s : State) (a : Nat) (bs : List Byte) (poison whole : Bool) : (State.engWrite s a bs poison whole).globals = s.globals := by
  unfold State.engWrite
  try dsimp only
  repeat' first | with_reducible rfl | (simp; done) | split | refine (foldl_globals (fun _ _ => ?_) _ _).trans ?_
@[simp] theorem State.keepUndo_globals (s : State) (id a n : Nat) : (State.keepUndo s id a n).globals = s.globals := by
  unfold State.keepUndo
  try dsimp only
  repeat' first | with_reducible rfl | (simp; done) | split | refine (foldl_globals (fun _ _ => ?_) _ _).trans ?_
@[simp] theorem State.retireForm_globals (s : State) (f : Form) : (State.retireForm s f).globals = s.globals := by
  unfold State.retireForm
  try dsimp only
  repeat' first | with_reducible rfl | (simp; done) | split | refine (foldl_globals (fun _ _ => ?_) _ _).trans ?_
@[simp] theorem State.trapAt_globals (s : State) (c : Cause) : (State.trapAt s c).globals = s.globals := by
  unfold State.trapAt
  try dsimp only
  repeat' first | with_reducible rfl | (simp; done) | split | refine (foldl_globals (fun _ _ => ?_) _ _).trans ?_
@[simp] theorem State.expelWaiters_globals (s : State) (n code : Nat) : (s.expelWaiters n code).globals = s.globals := by
  simp only [State.expelWaiters, State.focus_globals]
  refine foldl_globals (fun t k => ?_) _ _
  split <;> simp
@[simp] theorem State.writeTqc_globals (s : State) (n : Nat) (v : DWord) : (State.writeTqc s n v).globals = s.globals := by
  unfold State.writeTqc
  try dsimp only
  repeat' first | with_reducible rfl | (simp; done) | split | refine (foldl_globals (fun _ _ => ?_) _ _).trans ?_
@[simp] theorem State.reportRefused_globals (s : State) (ctx : Nat) (f : WalkFault) (va : Nat) : (State.reportRefused s ctx f va).globals = s.globals := by
  unfold State.reportRefused
  try dsimp only
  repeat' first | with_reducible rfl | (simp; done) | split | refine (foldl_globals (fun _ _ => ?_) _ _).trans ?_
@[simp] theorem State.retarget_globals (s : State) (core : Nat) : (State.retarget s core).globals = s.globals := by
  unfold State.retarget
  try dsimp only
  repeat' first | with_reducible rfl | (simp; done) | split | refine (foldl_globals (fun _ _ => ?_) _ _).trans ?_
@[simp] theorem State.putBank_globals (s : State) (b : Bank) : (State.putBank s b).globals = s.globals := by
  unfold State.putBank
  try dsimp only
  repeat' first | with_reducible rfl | (simp; done) | split | refine (foldl_globals (fun _ _ => ?_) _ _).trans ?_
@[simp] theorem State.bind_globals (s : State) (l : Launch) (k : Kern) (ps : List Place) : (State.bind s l k ps).globals = s.globals := by
  unfold State.bind
  try dsimp only
  repeat' first | with_reducible rfl | (simp; done) | split | refine (foldl_globals (fun _ _ => ?_) _ _).trans ?_
@[simp] theorem State.dequeue_globals (s : State) (l : Launch) : (State.dequeue s l).globals = s.globals := by
  unfold State.dequeue
  try dsimp only
  repeat' first | with_reducible rfl | (simp; done) | split | refine (foldl_globals (fun _ _ => ?_) _ _).trans ?_
@[simp] theorem State.syncSaved_globals (s : State) : (State.syncSaved s).globals = s.globals := by
  unfold State.syncSaved
  try dsimp only
  repeat' first | with_reducible rfl | (simp; done) | split | refine (foldl_globals (fun _ _ => ?_) _ _).trans ?_
@[simp] theorem State.freeSlots_globals (s : State) (lnch die : Nat) : (State.freeSlots s lnch die).globals = s.globals := by
  unfold State.freeSlots
  try dsimp only
  repeat' first | with_reducible rfl | (simp; done) | split | refine (foldl_globals (fun _ _ => ?_) _ _).trans ?_
@[simp] theorem State.unbind_globals (s : State) : (State.unbind s).globals = s.globals := by
  unfold State.unbind
  try dsimp only
  repeat' first | with_reducible rfl | (simp; done) | split | refine (foldl_globals (fun _ _ => ?_) _ _).trans ?_
@[simp] theorem State.beginSnap_globals (s : State) : (State.beginSnap s).globals = s.globals := by
  unfold State.beginSnap
  try dsimp only
  repeat' first | with_reducible rfl | (simp; done) | split | refine (foldl_globals (fun _ _ => ?_) _ _).trans ?_
@[simp] theorem State.endSnap_globals (s : State) : (State.endSnap s).globals = s.globals := by
  unfold State.endSnap
  try dsimp only
  repeat' first | with_reducible rfl | (simp; done) | split | refine (foldl_globals (fun _ _ => ?_) _ _).trans ?_
@[simp] theorem State.openRegion_globals (s : State) (txn : Bool) (label : BitVec 56) : (State.openRegion s txn label).globals = s.globals := by
  unfold State.openRegion
  try dsimp only
  repeat' first | with_reducible rfl | (simp; done) | split | refine (foldl_globals (fun _ _ => ?_) _ _).trans ?_
@[simp] theorem State.cancelX_globals (s : State) (ids : List Nat) : (State.cancelX s ids).globals = s.globals := by
  unfold State.cancelX
  try dsimp only
  repeat' first | with_reducible rfl | (simp; done) | split | refine (foldl_globals (fun _ _ => ?_) _ _).trans ?_
@[simp] theorem State.spoil_globals (s : State) (r : Region) : (State.spoil s r).globals = s.globals := by
  unfold State.spoil
  try dsimp only
  repeat' first | with_reducible rfl | (simp; done) | split | refine (foldl_globals (fun _ _ => ?_) _ _).trans ?_
@[simp] theorem State.rollback_globals (s : State) (a : Abort) (at_ : BitVec 56) : (State.rollback s a at_).globals = s.globals := by
  unfold State.rollback
  try dsimp only
  repeat' first | with_reducible rfl | (simp; done) | split | refine (foldl_globals (fun _ _ => ?_) _ _).trans ?_
@[simp] theorem State.drainEntry_globals (s : State) : (State.drainEntry s).globals = s.globals := by
  unfold State.drainEntry
  try dsimp only
  repeat' first | with_reducible rfl | (simp; done) | split | refine (foldl_globals (fun _ _ => ?_) _ _).trans ?_
@[simp] theorem State.drainFour_globals (s : State) : (State.drainFour s).globals = s.globals := by
  unfold State.drainFour
  try dsimp only
  repeat' first | with_reducible rfl | (simp; done) | split | refine (foldl_globals (fun _ _ => ?_) _ _).trans ?_
@[simp] theorem State.enqueueHeld_globals (s : State) : (State.enqueueHeld s).globals = s.globals := by
  unfold State.enqueueHeld
  try dsimp only
  repeat' first | with_reducible rfl | (simp; done) | split | refine (foldl_globals (fun _ _ => ?_) _ _).trans ?_
@[simp] theorem State.closeRegion_globals (s : State) : (State.closeRegion s).globals = s.globals := by
  unfold State.closeRegion
  try dsimp only
  repeat' first | with_reducible rfl | (simp; done) | split | refine (foldl_globals (fun _ _ => ?_) _ _).trans ?_
@[simp] theorem State.setPhase_globals (s : State) (f : Form) (n : Nat) (ops : List DWord) : (State.setPhase s f n ops).globals = s.globals := by
  unfold State.setPhase
  try dsimp only
  repeat' first | with_reducible rfl | (simp; done) | split | refine (foldl_globals (fun _ _ => ?_) _ _).trans ?_
@[simp] theorem State.lockLines_globals (s : State) (ls : List Nat) : (State.lockLines s ls).1.globals = s.globals := by
  unfold State.lockLines
  try dsimp only
  repeat' first | with_reducible rfl | (simp; done) | split | refine (foldl_globals (fun _ _ => ?_) _ _).trans ?_
@[simp] theorem State.txcStart_globals (s : State) (f : Form) (r : Region) : (State.txcStart s f r).globals = s.globals := by
  unfold State.txcStart
  try dsimp only
  repeat' first | with_reducible rfl | (simp; done) | split | refine (foldl_globals (fun _ _ => ?_) _ _).trans ?_
@[simp] theorem State.preempt_globals (s : State) : (State.preempt s).globals = s.globals := by
  unfold State.preempt
  try dsimp only
  repeat' first | with_reducible rfl | (simp; done) | split | refine (foldl_globals (fun _ _ => ?_) _ _).trans ?_
@[simp] theorem State.restreams_globals (s : State) (k : Nat) (p : Place) : (State.restreams s k p).globals = s.globals := by
  unfold State.restreams
  try dsimp only
  repeat' first | with_reducible rfl | (simp; done) | split | refine (foldl_globals (fun _ _ => ?_) _ _).trans ?_
@[simp] theorem State.awaitCtx_globals (s : State) (i : Instr) (rd : BitVec 6) (ops : List DWord) : (State.awaitCtx s i rd ops).globals = s.globals := by
  unfold State.awaitCtx
  try dsimp only
  repeat' first | with_reducible rfl | (simp; done) | split | refine (foldl_globals (fun _ _ => ?_) _ _).trans ?_
/-- An invalidation may drop versions, and no byte (R300, R325). -/
theorem State.invalidate_keeps (s : State) (stage ctx base npg : Nat) :
    (s.invalidate stage ctx base npg).mem = s.mem ∧ (s.invalidate stage ctx base npg).remote = s.remote ∧
      (s.invalidate stage ctx base npg).poison = s.poison := by
  unfold State.invalidate State.unversioned State.modCtx
  dsimp only
  refine ⟨?_, ?_, ?_⟩ <;> repeat' first | with_reducible rfl | split
@[simp] theorem State.retireS1r_globals (s : State) (uid : Nat) : (State.retireS1r s uid).globals = s.globals := by
  unfold State.retireS1r
  try dsimp only
  repeat' first | with_reducible rfl | (simp; done) | split | refine (foldl_globals (fun _ _ => ?_) _ _).trans ?_
@[simp] theorem State.grantCores_globals (s : State) (giver child : Nat) (set : BitVec 128) (excl : Bool) : (State.grantCores s giver child set excl).1.globals = s.globals := by
  unfold State.grantCores
  try dsimp only
  repeat' first | with_reducible rfl | (simp; done) | split | refine (foldl_globals (fun _ _ => ?_) _ _).trans ?_
@[simp] theorem State.grantQueues_globals (s : State) (giver child kind first count : Nat) : (State.grantQueues s giver child kind first count).1.globals = s.globals := by
  unfold State.grantQueues
  try dsimp only
  repeat' first | with_reducible rfl | (simp; done) | split | refine (foldl_globals (fun _ _ => ?_) _ _).trans ?_
@[simp] theorem State.mark_globals (s : State) (uids : List Nat) : (State.mark s uids).globals = s.globals := by
  unfold State.mark
  try dsimp only
  repeat' first | with_reducible rfl | (simp; done) | split | refine (foldl_globals (fun _ _ => ?_) _ _).trans ?_
@[simp] theorem State.clamp_globals (s : State) (n : Nat) : (State.clamp s n).globals = s.globals := by
  unfold State.clamp
  try dsimp only
  repeat' first | with_reducible rfl | (simp; done) | split | refine (foldl_globals (fun _ _ => ?_) _ _).trans ?_
@[simp] theorem State.applyReply_globals (s : State) (r : Rec) (act : Nat) : (State.applyReply s r act).globals = s.globals := by
  unfold State.applyReply
  try dsimp only
  repeat' first | with_reducible rfl | (simp; done) | split | refine (foldl_globals (fun _ _ => ?_) _ _).trans ?_
theorem State.reply_globals (s : State) (holder tid act : Nat) {t : State} (h : State.reply s holder tid act = some t) : t.globals = s.globals := by
  unfold State.reply at h
  try dsimp only at h
  repeat' split at h
  all_goals (first | (cases h; simp; done) | (simp at h; done))
@[simp] theorem State.kill_globals (s : State) : (State.kill s).globals = s.globals := by
  unfold State.kill
  try dsimp only
  repeat' first | with_reducible rfl | (simp; done) | split | refine (foldl_globals (fun _ _ => ?_) _ _).trans ?_
@[simp] theorem State.killAll_globals (s : State) (mine : Nat → Bool) : (s.killAll mine).globals = s.globals := by
  simp only [State.killAll, State.focus_globals]
  exact foldl_globals (fun t k => by simp) _ _
@[simp] theorem State.discard_globals (s : State) (mine : Nat → Bool) : (State.discard s mine).globals = s.globals := by
  unfold State.discard
  try dsimp only
  repeat' first | with_reducible rfl | (simp; done) | split | refine (foldl_globals (fun _ _ => ?_) _ _).trans ?_
@[simp] theorem State.finish_globals (s : State) (f : Form) (st : DWord) : (State.finish s f st).globals = s.globals := by
  unfold State.finish
  try dsimp only
  repeat' first | with_reducible rfl | (simp; done) | split | refine (foldl_globals (fun _ _ => ?_) _ _).trans ?_
@[simp] theorem State.waitShoots_globals (s : State) (f : Form) (st : DWord) (uids : List Nat) : (State.waitShoots s f st uids).globals = s.globals := by
  unfold State.waitShoots
  try dsimp only
  repeat' first | with_reducible rfl | (simp; done) | split | refine (foldl_globals (fun _ _ => ?_) _ _).trans ?_
@[simp] theorem State.newCtx_globals (s : State) (root : DWord) : (State.newCtx s root).1.globals = s.globals := by
  unfold State.newCtx
  try dsimp only
  repeat' first | with_reducible rfl | (simp; done) | split | refine (foldl_globals (fun _ _ => ?_) _ _).trans ?_
@[simp] theorem State.runCtx_globals (s : State) (n : Nat) : (State.runCtx s n).1.globals = s.globals := by
  unfold State.runCtx
  try dsimp only
  repeat' first | with_reducible rfl | (simp; done) | split | refine (foldl_globals (fun _ _ => ?_) _ _).trans ?_
@[simp] theorem State.stopped_globals (s : State) (n : Nat) : (State.stopped s n).globals = s.globals := by
  unfold State.stopped
  try dsimp only
  repeat' first | with_reducible rfl | (simp; done) | split | refine (foldl_globals (fun _ _ => ?_) _ _).trans ?_
@[simp] theorem State.settleStops_globals (s : State) : (State.settleStops s).globals = s.globals := by
  unfold State.settleStops
  try dsimp only
  repeat' first | with_reducible rfl | (simp; done) | split | refine (foldl_globals (fun _ _ => ?_) _ _).trans ?_
/-- Both branches keep it. -/
theorem ite_globals {p : Prop} [Decidable p] {s t u : State} (h : t.globals = s.globals) (h' : u.globals = s.globals) :
    (if p then t else u).globals = s.globals := by split <;> assumption
@[simp] theorem State.sysPut_globals (s : State) (n : Nat) (v : DWord) : (s.sysPut n v).globals = s.globals := by
  simp only [State.sysPut]
  repeat' first
    | exact State.writeTqc_globals ..
    | exact State.modB_globals ..
    | exact State.modCore_globals ..
    | exact State.modCtx_globals ..
    | refine ite_globals ?_ ?_
    | rfl

@[simp] theorem State.sysSend_globals (s : State) (n : Nat) (v : DWord) : (State.sysSend s n v).globals = s.globals := by
  unfold State.sysSend
  try dsimp only
  repeat' first | with_reducible rfl | (simp; done) | split | refine (foldl_globals (fun _ _ => ?_) _ _).trans ?_
@[simp] theorem State.eret_globals (s : State) : (State.eret s).globals = s.globals := by
  unfold State.eret
  try dsimp only
  repeat' first | with_reducible rfl | (simp; done) | split | refine (foldl_globals (fun _ _ => ?_) _ _).trans ?_
@[simp] theorem State.answer_globals (s : State) (abort poison : Bool) (data : List Byte) : (State.answer s abort poison data).globals = s.globals := by
  unfold State.answer
  try dsimp only
  repeat' first | with_reducible rfl | (simp; done) | split | refine (foldl_globals (fun _ _ => ?_) _ _).trans ?_
@[simp] theorem State.spdm_globals (s : State) (req : Nat) (data : List Byte) : (State.spdm s req data).globals = s.globals := by
  unfold State.spdm
  try dsimp only
  repeat' first | with_reducible rfl | (simp; done) | split | refine (foldl_globals (fun _ _ => ?_) _ _).trans ?_
@[simp] theorem State.at__globals (s : State) (base : Nat) (w : Work) : (State.at_ s base w).globals = s.globals := by
  unfold State.at_
  try dsimp only
  repeat' first | with_reducible rfl | (simp; done) | split | refine (foldl_globals (fun _ _ => ?_) _ _).trans ?_
@[simp] theorem State.bundleTrap_globals (s : State) (c : Cause) : (State.bundleTrap s c).globals = s.globals := by
  unfold State.bundleTrap
  try dsimp only
  repeat' first | with_reducible rfl | (simp; done) | split | refine (foldl_globals (fun _ _ => ?_) _ _).trans ?_
@[simp] theorem State.waitTrap_globals (s : State) (c : Cause) : (State.waitTrap s c).globals = s.globals := by
  unfold State.waitTrap
  try dsimp only
  repeat' first | with_reducible rfl | (simp; done) | split | refine (foldl_globals (fun _ _ => ?_) _ _).trans ?_
@[simp] theorem State.forget_globals (s : State) (n : Nat) : (State.forget s n).globals = s.globals := by
  unfold State.forget
  try dsimp only
  repeat' first | with_reducible rfl | (simp; done) | split | refine (foldl_globals (fun _ _ => ?_) _ _).trans ?_
@[simp] theorem State.forgetTemps_globals (s : State) : (State.forgetTemps s).globals = s.globals := by
  unfold State.forgetTemps
  try dsimp only
  repeat' first | with_reducible rfl | (simp; done) | split | refine (foldl_globals (fun _ _ => ?_) _ _).trans ?_
@[simp] theorem State.countFair_globals (s : State) : (State.countFair s).globals = s.globals := by
  unfold State.countFair
  try dsimp only
  repeat' first | with_reducible rfl | (simp; done) | split | refine (foldl_globals (fun _ _ => ?_) _ _).trans ?_
@[simp] theorem State.stamp_globals (s t : State) (occ : List Nat) : (State.stamp s t occ).globals = t.globals := by
  unfold State.stamp
  try dsimp only
  repeat' first | with_reducible rfl | (simp; done) | split | refine (foldl_globals (fun _ _ => ?_) _ _).trans ?_
@[simp] theorem State.opened_globals (t : State) (h : BHdr) (ps : List (Nat × Syl)) (first : Bool) (holds : Smap Hold) (pending : List (Nat × Syl)) (done : List Nat) : (State.opened t h ps first holds pending done).globals = t.globals := by
  unfold State.opened
  try dsimp only
  repeat' first | with_reducible rfl | (simp; done) | split | refine (foldl_globals (fun _ _ => ?_) _ _).trans ?_
@[simp] theorem State.tick_globals (s : State) : (State.tick s).globals = s.globals := by
  unfold State.tick
  try dsimp only
  repeat' first | with_reducible rfl | (simp; done) | split | refine (foldl_globals (fun _ _ => ?_) _ _).trans ?_
end Sys2Proof.Machine
end

