-- ==== Sys2Proof/Laws/Sparse.lean ====
section
/-! SUPPORT. Sparse data: what a read gives after a write, in any list, and that every operation keeps the canonical
form. -/

namespace Sys2Proof.Machine

variable {α : Type}

/-! ### Reads after writes -/

theorem Smap.find_put (m : Smap α) (i j : Nat) (v : α) : (m.put i v).find j = if j = i then some v else m.find j := by
  induction m with
  | nil => rfl
  | cons e m ih =>
    obtain ⟨k, w⟩ := e
    simp only [Smap.put]
    split
    · simp [Smap.find]
    · split
      · subst_vars; simp only [Smap.find]; split <;> simp_all
      · simp only [Smap.find, ih]; split <;> split <;> simp_all

theorem Smap.find_del (m : Smap α) (i j : Nat) : (m.del i).find j = if j = i then none else m.find j := by
  induction m with
  | nil => simp [Smap.del, Smap.find]
  | cons e m ih =>
    obtain ⟨k, w⟩ := e
    simp only [Smap.del]
    split
    · subst_vars; simp only [Smap.find, ih]; split <;> simp_all
    · simp only [Smap.find, ih]; split <;> split <;> simp_all

/-- A key reads what was written to it, and every other key what it read before. -/
theorem Smap.get_set [DecidableEq α] (d : α) (m : Smap α) (i j : Nat) (v : α) :
    (m.set d i v).get d j = if j = i then v else m.get d j := by
  simp only [Smap.set, Smap.get]
  split
  · rw [Smap.find_del]; split <;> simp_all
  · rw [Smap.find_put]; split <;> simp

@[simp] theorem Smap.get_set_same [DecidableEq α] (d : α) (m : Smap α) (i : Nat) (v : α) : (m.set d i v).get d i = v := by
  simp [Smap.get_set]

theorem Smap.get_set_ne [DecidableEq α] {d : α} {m : Smap α} {i j : Nat} {v : α} (h : j ≠ i) :
    (m.set d i v).get d j = m.get d j := by simp [Smap.get_set, h]

/-! ### The canonical form of memory -/

/-- Every key of a list is above `k`. -/
def Smap.above (k : Nat) (m : Smap α) : Prop := ∀ e ∈ m, k < e.1

theorem Smap.sorted_cons {k : Nat} {v : α} {m : Smap α} : Smap.sorted ((k, v) :: m) = true ↔ Smap.above k m ∧ Smap.sorted m = true := by
  induction m generalizing k v with
  | nil => simp [Smap.sorted, Smap.above]
  | cons e m ih =>
    obtain ⟨k', w⟩ := e
    simp only [Smap.sorted, Bool.and_eq_true, decide_eq_true_eq]
    constructor
    · rintro ⟨h, hs⟩
      refine ⟨?_, hs⟩
      intro e he
      rcases List.mem_cons.1 he with rfl | he
      · exact h
      · exact Nat.lt_trans h ((ih.1 hs).1 e he)
    · rintro ⟨h, hs⟩
      exact ⟨h (k', w) List.mem_cons_self, hs⟩

theorem Smap.mem_put {m : Smap α} {i : Nat} {v : α} {e : Nat × α} (h : e ∈ m.put i v) : e = (i, v) ∨ e ∈ m := by
  induction m with
  | nil => simpa [Smap.put] using h
  | cons x m ih =>
    obtain ⟨k, w⟩ := x
    simp only [Smap.put] at h
    split at h
    · simpa using h
    · split at h
      · rcases List.mem_cons.1 h with h | h
        · exact .inl h
        · exact .inr (List.mem_cons_of_mem _ h)
      · rcases List.mem_cons.1 h with h | h
        · exact .inr (h ▸ List.mem_cons_self)
        · exact (ih h).imp_right (List.mem_cons_of_mem _)

theorem Smap.mem_del {m : Smap α} {i : Nat} {e : Nat × α} (h : e ∈ m.del i) : e ∈ m := by
  induction m with
  | nil => simp [Smap.del] at h
  | cons x m ih =>
    obtain ⟨k, w⟩ := x
    simp only [Smap.del] at h
    split at h
    · exact List.mem_cons_of_mem _ (ih h)
    · rcases List.mem_cons.1 h with h | h
      · exact h ▸ List.mem_cons_self
      · exact List.mem_cons_of_mem _ (ih h)

theorem Smap.sorted_put {m : Smap α} {i : Nat} {v : α} (h : m.sorted = true) : (m.put i v).sorted = true := by
  induction m with
  | nil => rfl
  | cons x m ih =>
    obtain ⟨k, w⟩ := x
    have ⟨ha, hs⟩ := Smap.sorted_cons.1 h
    simp only [Smap.put]
    split
    · rename_i hi
      refine Smap.sorted_cons.2 ⟨?_, h⟩
      intro e he
      rcases List.mem_cons.1 he with rfl | he
      · exact hi
      · exact Nat.lt_trans hi (ha e he)
    · split
      · rename_i hk; subst hk; exact Smap.sorted_cons.2 ⟨ha, hs⟩
      · refine Smap.sorted_cons.2 ⟨?_, ih hs⟩
        intro e he
        rcases Smap.mem_put he with rfl | he
        · simp only; omega
        · exact ha e he

theorem Smap.sorted_del {m : Smap α} {i : Nat} (h : m.sorted = true) : (m.del i).sorted = true := by
  induction m with
  | nil => rfl
  | cons x m ih =>
    obtain ⟨k, w⟩ := x
    have ⟨ha, hs⟩ := Smap.sorted_cons.1 h
    simp only [Smap.del]
    split
    · exact ih hs
    · exact Smap.sorted_cons.2 ⟨fun e he => ha e (Smap.mem_del he), ih hs⟩

theorem Smap.sorted_set [DecidableEq α] {d : α} {m : Smap α} {i : Nat} {v : α} (h : m.sorted = true) : (m.set d i v).sorted = true := by
  simp only [Smap.set]; split
  · exact Smap.sorted_del h
  · exact Smap.sorted_put h

/-- A write of one byte keeps the canonical form. -/
theorem Memory.wf_write {m : Memory} (a : Nat) (v : Byte) (h : Memory.wf m = true) : Memory.wf (m.write a v) = true := by
  simp only [Memory.wf, Bool.and_eq_true, List.all_eq_true, bne_iff_ne] at h ⊢
  refine ⟨Smap.sorted_set h.1, ?_⟩
  intro c hc
  simp only [Memory.write, Smap.set] at hc
  split at hc
  · exact h.2 c (Smap.mem_del hc)
  · rename_i hv
    rcases Smap.mem_put hc with rfl | hc
    · exact hv
    · exact h.2 c hc

/-- A write of several bytes keeps the canonical form. -/
theorem Memory.wf_writeN {m : Memory} (a : Nat) (bs : List Byte) (h : Memory.wf m = true) : Memory.wf (m.writeN a bs) = true := by
  induction bs generalizing m a with
  | nil => exact h
  | cons b bs ih => exact ih (a + 1) (Memory.wf_write a b h)

/-- Empty memory is in canonical form. -/
theorem Memory.wf_empty : Memory.wf [] = true := rfl

/-- Two memories in canonical form that read the same everywhere are the same list. -/
theorem Memory.ext_of_read {m n : Memory} (hm : Memory.wf m = true) (hn : Memory.wf n = true)
    (h : ∀ a, m.read a = n.read a) : m = n := by
  have low {k : Nat} {m : Memory} (h : Smap.above k m) : ∀ a, a ≤ k → Smap.find m a = none := by
    induction m with
    | nil => intros; rfl
    | cons e m ih =>
      obtain ⟨x, w⟩ := e
      intro a ha
      have hx := h (x, w) List.mem_cons_self
      simp only at hx
      simp only [Smap.find]
      rw [if_neg (by omega), ih (fun e he => h e (List.mem_cons_of_mem _ he)) a ha]
  have wf_tail {k : Nat} {v : Byte} {m : Memory} (h : Memory.wf ((k, v) :: m) = true) :
      Smap.above k m ∧ v ≠ Memory.unlisted ∧ Memory.wf m = true := by
    simp only [Memory.wf, Bool.and_eq_true, List.all_cons, bne_iff_ne] at h ⊢
    have hs := Smap.sorted_cons.1 h.1
    exact ⟨hs.1, h.2.1, hs.2, h.2.2⟩
  induction m generalizing n with
  | nil =>
    cases n with
    | nil => rfl
    | cons e n =>
      obtain ⟨k, v⟩ := e
      have ht := wf_tail hn
      exact absurd (by simpa [Memory.read, Smap.get, Smap.find] using (h k).symm) ht.2.1
  | cons e m ih =>
    obtain ⟨k, v⟩ := e
    have ht := wf_tail hm
    cases n with
    | nil => exact absurd (by simpa [Memory.read, Smap.get, Smap.find] using h k) ht.2.1
    | cons e n =>
      obtain ⟨k', v'⟩ := e
      have ht' := wf_tail hn
      have hk : k = k' := by
        rcases Nat.lt_trichotomy k k' with hlt | heq | hlt
        · have := h k
          simp only [Memory.read, Smap.get, Smap.find, if_true] at this
          rw [if_neg (by omega), low ht'.1 k (by omega)] at this
          exact absurd this ht.2.1
        · exact heq
        · have := h k'
          simp only [Memory.read, Smap.get, Smap.find, if_true] at this
          rw [if_neg (by omega), low ht.1 k' (by omega)] at this
          exact absurd this.symm ht'.2.1
      subst hk
      have hv : v = v' := by simpa [Memory.read, Smap.get, Smap.find] using h k
      subst hv
      have : m = n := by
        apply ih ht.2.2 ht'.2.2
        intro a
        have ha := h a
        simp only [Memory.read, Smap.get, Smap.find] at ha ⊢
        by_cases hak : a = k
        · subst hak; rw [low ht.1 a (Nat.le_refl _), low ht'.1 a (Nat.le_refl _)]
        · simpa [hak] using ha
      rw [this]

end Sys2Proof.Machine
end

