-- ==== Sys2Proof/Laws/Memory.lean ====
section
/-! SUPPORT. Every operation that writes global memory keeps its canonical form. -/

namespace Sys2Proof.Machine

open Sys2Proof

@[simp] theorem State.store_globals (s : State) (ps : List (Nat × List Byte)) (d : Nat) (p q : Bool) :
    (s.store ps d p q).globals = s.globals := by
  simp only [State.store]
  split
  · rfl
  · split
    · rfl
    · split
      · rfl
      · exact (foldl_globals (fun _ _ => by simp) _ _).trans rfl

/-- The canonical form of memory depends on memory alone. -/
theorem State.MemOk.of_globals {s t : State} (h : s.MemOk) (e : t.globals = s.globals) : t.MemOk := by
  simp only [State.globals, Prod.mk.injEq] at e
  exact ⟨by rw [e.1]; exact h.mem, by rw [e.2.1]; exact h.remote⟩

/-- The state after reset has it. -/
theorem State.reset_memOk : State.reset.MemOk := ⟨rfl, rfl⟩

theorem State.MemOk.gPut {s : State} (h : s.MemOk) (pa : Nat) (bs : List Byte) : (s.gPut pa bs).MemOk := by
  simp only [State.gPut]
  split
  · exact ⟨Memory.wf_writeN _ _ h.mem, h.remote⟩
  · exact ⟨h.mem, Memory.wf_writeN _ _ h.remote⟩

theorem State.MemOk.versionFor {s t : State} (h : s.MemOk) {n : Nat} (e : s.versionFor n = .ok t) : t.MemOk := by
  simp only [State.versionFor] at e
  repeat' split at e
  all_goals cases e
  all_goals exact ⟨h.mem, h.remote⟩

theorem State.MemOk.markDirty {s : State} (h : s.MemOk) (l : Leaf) : (s.markDirty l).MemOk := by
  refine h.of_globals ?_
  unfold State.markDirty
  repeat' first | with_reducible rfl | (simp; done) | split

theorem State.MemOk.unversion {s : State} (h : s.MemOk) (l : Leaf) (va : Nat) : (s.unversion l va).MemOk := by
  unfold State.unversion; split
  · exact h
  · exact ⟨h.mem, h.remote⟩

theorem State.MemOk.writeVia {s t : State} (h : s.MemOk) {l : Leaf} {va : Nat} {bs : List Byte} {p w : Bool}
    (e : s.writeVia l va bs p w = .ok t) : t.MemOk := by
  unfold State.writeVia at e
  simp only at e
  split at e
  · exact nomatch e
  · split at e
    · exact nomatch e
    · rename_i u hu
      have hu' : u.MemOk := by
        split at hu
        · exact h.versionFor hu
        · cases hu; exact h.unversion l va
      have hc := ((hu'.gPut (Leaf.pa l va) bs).markDirty l).of_globals (State.charge_globals _ l va)
      cases e
      exact ⟨hc.mem, hc.remote⟩

theorem State.MemOk.fillTlb {s : State} (h : s.MemOk) (l : Leaf) : (s.fillTlb l).MemOk := ⟨h.mem, h.remote⟩

/-- A copy write through a leaf keeps the canonical form. -/
theorem State.MemOk.writeThrough {s t : State} (h : s.MemOk) {k va n : Nat} {l : Leaf} {rd p w kp : Bool}
    {new : List Byte → List Byte} (e : s.writeThrough k l va n rd p w new kp = .ok t) : t.MemOk := by
  simp only [State.writeThrough] at e
  split at e
  · exact nomatch e
  · split at e
    · exact nomatch e
    · split at e
      · cases e; exact ((h.fillTlb l).of_globals (State.charge_globals _ l va)).of_globals rfl
      · split at e
        · exact nomatch e
        · rename_i hw
          cases e; exact (h.fillTlb l).writeVia hw

theorem State.MemOk.writeAs {s t : State} (h : s.MemOk) {ctx k va n : Nat} {rd conf p w kp : Bool}
    {new : List Byte → List Byte} (e : s.writeAs ctx k va n rd conf p w new kp = .ok t) : t.MemOk := by
  unfold State.writeAs at e
  split at e
  · exact nomatch e
  · exact h.writeThrough e

theorem State.MemOk.putBytes {s : State} (h : s.MemOk) (ctx : Nat) : ∀ (k va : Nat) (bs : List Byte),
    (s.putBytes ctx k va bs).1.MemOk
  | 0, _, _ => h
  | k + 1, va, bs => by
    unfold State.putBytes
    split
    · exact h
    · simp only
      split
      · rename_i t ht; exact State.MemOk.putBytes (h.writeAs ht) ctx k _ _
      · exact h

theorem State.MemOk.putAll {s : State} (h : s.MemOk) (ctx va : Nat) (bs : List Byte) : (s.putAll ctx va bs).1.MemOk :=
  h.putBytes ctx _ _ _

theorem State.MemOk.okraPut {s : State} (h : s.MemOk) (ctx va : Nat) (bs : List Byte) : (s.okraPut ctx va bs).1.MemOk := by
  have hf : (s.asFirm ctx).MemOk := h.of_globals rfl
  exact (hf.putAll ctx va bs).of_globals rfl

theorem State.MemOk.slotWrite {s : State} (h : s.MemOk) (ctx va v : Nat) : (s.slotWrite ctx va v).MemOk := h.okraPut _ _ _

theorem State.MemOk.consume {s : State} (h : s.MemOk) (q : Nat) (p : QPkt) (c k d : Nat) : (s.consume q p c k d).MemOk := by
  have h2 := (h.slotWrite p.ctx (p.at_ + 8) (pack [(8, 0), (8, c), (16, k), (32, d)])).slotWrite p.ctx p.at_ 0
  unfold State.consume
  dsimp only
  generalize State.slotWrite (State.slotWrite s _ _ _) _ _ _ = t at h2 ⊢
  exact ⟨h2.mem, h2.remote⟩

theorem State.MemOk.okraAdd {s t : State} (h : s.MemOk) {ctx va x : Nat} (e : s.okraAdd ctx va x = .ok t) : t.MemOk := by
  have hf : (s.asFirm ctx).MemOk := h.of_globals rfl
  unfold State.okraAdd at e
  split at e
  · rename_i hw; cases e; exact (hf.writeAs hw).of_globals rfl
  · rename_i hn; exact absurd e (hn t)

theorem State.MemOk.complete {s t : State} (h : s.MemOk) {ctx x : Nat} {a : BitVec 56} (e : s.complete ctx a x = some t) :
    t.MemOk := by
  simp only [State.complete] at e
  repeat' split at e
  all_goals cases e
  all_goals first
    | exact ⟨h.mem, h.remote⟩
    | (rename_i hw; exact h.okraAdd hw)

theorem State.MemOk.start {s : State} (h : s.MemOk) (w : Bool) : (s.start w).MemOk := by
  have hm : (s.start w).mem = if w then s.mem else [] := by
    simp only [State.start, apply_ite State.mem, ite_self]
  have hr : (s.start w).remote = s.remote := by
    simp only [State.start, apply_ite State.remote, ite_self]
  refine ⟨?_, hr ▸ h.remote⟩
  rw [hm]
  cases w
  · rfl
  · exact h.mem

theorem State.MemOk.enring {s : State} (h : s.MemOk) (q : Shoot) : (s.enring q).1.MemOk := by
  unfold State.enring
  dsimp only
  exact (h.gPut _ _).gPut _ _

theorem State.MemOk.postShoot {s : State} (h : s.MemOk) (a b c d : Nat) (k : Option Nat) : (s.postShoot a b c d k).MemOk := by
  have hc (cs : Smap Core) (xs : List Shoot) : State.MemOk { s with cores := cs, shoots := xs } := ⟨h.mem, h.remote⟩
  unfold State.postShoot
  dsimp only
  split
  · exact ⟨((hc _ _).enring _).mem, ((hc _ _).enring _).remote⟩
  · exact ⟨h.mem, h.remote⟩

end Sys2Proof.Machine
end

