-- ==== Sys2Proof/Laws/PerInstr.lean ====
section
/-! SUPPORT. A statement about every instruction, made for each: its word, read by its opcode in any slot where it may
stand, gives it back with every operand (R43 to R45). The moves have no word, and the constructors that share the encoding
of CTXRUN and CTXSAVE are not canonical. -/

namespace Sys2Proof.Laws.RawRoundTrip

open Sys2Proof

/-- The word of the instruction is read back as the instruction. -/
def Statement (i : Instr) : Prop := i.canonical = true → ∀ sl ∈ i.slots, decodeRaw sl (encode i) = some i

theorem bundleIssue (bank : Nat) : Statement (.bundleIssue bank) := fun _ _ h => nomatch h
theorem asyncAbort (bank : Nat) : Statement (.asyncAbort bank) := fun _ _ h => nomatch h
theorem waitSyllableExecute (bank : Nat) (col slot : Nat) : Statement (.waitSyllableExecute bank col slot) := fun _ _ h => nomatch h
theorem resultLand (bank : Nat) : Statement (.resultLand bank) := fun _ _ h => nomatch h
theorem latchUpdate (bank : Nat) : Statement (.latchUpdate bank) := fun _ _ h => nomatch h
theorem segmentExpand (bank : Nat) : Statement (.segmentExpand bank) := fun _ _ h => nomatch h
theorem fairnessExpiry (bank : Nat) : Statement (.fairnessExpiry bank) := fun _ _ h => nomatch h
theorem barrierArrival (bank : Nat) : Statement (.barrierArrival bank) := fun _ _ h => nomatch h
theorem barrierComplete (bank : Nat) : Statement (.barrierComplete bank) := fun _ _ h => nomatch h
theorem farRead (bank : Nat) (far : Nat) : Statement (.farRead bank far) := fun _ _ h => nomatch h
theorem farDataArrival (bank : Nat) (far : Nat) : Statement (.farDataArrival bank far) := fun _ _ h => nomatch h
theorem farLoadLand (bank : Nat) : Statement (.farLoadLand bank) := fun _ _ h => nomatch h
theorem gldFault (bank : Nat) : Statement (.gldFault bank) := fun _ _ h => nomatch h
theorem xOpStart (core op : Nat) : Statement (.xOpStart core op) := fun _ _ h => nomatch h
theorem tileRelease (core op : Nat) : Statement (.tileRelease core op) := fun _ _ h => nomatch h
theorem mmasRow (bank : Nat) (col : Nat) : Statement (.mmasRow bank col) := fun _ _ h => nomatch h
theorem packetStart (bank : Nat) (col queue : Nat) : Statement (.packetStart bank col queue) := fun _ _ h => nomatch h
theorem packetGranule (bank : Nat) (col queue : Nat) : Statement (.packetGranule bank col queue) := fun _ _ h => nomatch h
theorem packetComplete (bank : Nat) (col queue : Nat) : Statement (.packetComplete bank col queue) := fun _ _ h => nomatch h
theorem atomicPerform (bank : Nat) (col queue : Nat) : Statement (.atomicPerform bank col queue) := fun _ _ h => nomatch h
theorem cmtCommit (bank : Nat) : Statement (.cmtCommit bank) := fun _ _ h => nomatch h
theorem txcCommit (bank : Nat) : Statement (.txcCommit bank) := fun _ _ h => nomatch h
theorem tkwaitRetire (bank : Nat) : Statement (.tkwaitRetire bank) := fun _ _ h => nomatch h
theorem tqputComplete (bank : Nat) : Statement (.tqputComplete bank) := fun _ _ h => nomatch h
theorem tqgetComplete (bank : Nat) : Statement (.tqgetComplete bank) := fun _ _ h => nomatch h
theorem tqrelComplete (bank : Nat) : Statement (.tqrelComplete bank) := fun _ _ h => nomatch h
theorem fenceRetire (bank : Nat) : Statement (.fenceRetire bank) := fun _ _ h => nomatch h
theorem cwaitRetire (bank : Nat) : Statement (.cwaitRetire bank) := fun _ _ h => nomatch h
theorem drainRetire (bank : Nat) : Statement (.drainRetire bank) := fun _ _ h => nomatch h
theorem postEnqueue (bank : Nat) : Statement (.postEnqueue bank) := fun _ _ h => nomatch h
theorem launchEnqueue (bank : Nat) : Statement (.launchEnqueue bank) := fun _ _ h => nomatch h
theorem launchBind (pri : Nat) (places : List Place) : Statement (.launchBind pri places) := fun _ _ h => nomatch h
theorem taskDispatch (die pri : Nat) (place : Place) : Statement (.taskDispatch die pri place) := fun _ _ h => nomatch h
theorem bankSwitch (core : Nat) : Statement (.bankSwitch core) := fun _ _ h => nomatch h
theorem shareWindowSwitch (ctx core : Nat) : Statement (.shareWindowSwitch ctx core) := fun _ _ h => nomatch h
theorem watchdogExpiry (bank : Nat) (us : Nat) : Statement (.watchdogExpiry bank us) := fun _ _ h => nomatch h
theorem handlerForcedEntry (core : Nat) : Statement (.handlerForcedEntry core) := fun _ _ h => nomatch h
theorem settleComplete (core : Nat) : Statement (.settleComplete core) := fun _ _ h => nomatch h
theorem droopDetect (core : Nat) : Statement (.droopDetect core) := fun _ _ h => nomatch h
theorem powerGrant (bank : Nat) : Statement (.powerGrant bank) := fun _ _ h => nomatch h
theorem thermalTrip (zone : Nat) (temp : Nat) : Statement (.thermalTrip zone temp) := fun _ _ h => nomatch h
theorem mcldLoad (bank : Nat) : Statement (.mcldLoad bank) := fun _ _ h => nomatch h
theorem softError (bank : Nat) : Statement (.softError bank) := fun _ _ h => nomatch h
theorem sramUncorrectable (core : Nat) (slotB : Bool) : Statement (.sramUncorrectable core slotB) := fun _ _ h => nomatch h
theorem cbcWrite (bank : Nat) (col buf : Nat) (val : BitVec 64) : Statement (.cbcWrite bank col buf val) := fun _ _ h => nomatch h
theorem s1rWrite (ctx : Nat) (val : BitVec 64) : Statement (.s1rWrite ctx val) := fun _ _ h => nomatch h
theorem tqcWrite (num : Nat) (val : BitVec 64) : Statement (.tqcWrite num val) := fun _ _ h => nomatch h
theorem trrWrite (ctx : Nat) (val : BitVec 64) : Statement (.trrWrite ctx val) := fun _ _ h => nomatch h
theorem vpoolWrite (val : BitVec 64) : Statement (.vpoolWrite val) := fun _ _ h => nomatch h
theorem registerWrite (bank : Nat) (num : Nat) (val : BitVec 64) : Statement (.registerWrite bank num val) := fun _ _ h => nomatch h
theorem uqnNotify (page : Nat) (widx : BitVec 32) : Statement (.uqnNotify page widx) := fun _ _ h => nomatch h
theorem uqdWrite (queue : Nat) (hi : Bool) (val : BitVec 64) : Statement (.uqdWrite queue hi val) := fun _ _ h => nomatch h
theorem launchPacket (queue : Nat) : Statement (.launchPacket queue) := fun _ _ h => nomatch h
theorem loadPacket (queue : Nat) : Statement (.loadPacket queue) := fun _ _ h => nomatch h
theorem unloadPacket (queue : Nat) : Statement (.unloadPacket queue) := fun _ _ h => nomatch h
theorem graphPacket (queue : Nat) : Statement (.graphPacket queue) := fun _ _ h => nomatch h
theorem replyPacket (queue : Nat) : Statement (.replyPacket queue) := fun _ _ h => nomatch h
theorem hostMemoryAccess (req : HostReq) : Statement (.hostMemoryAccess req) := fun _ _ h => nomatch h
theorem fetchadd (req : AtomicReq) (val : BitVec 64) : Statement (.fetchadd req val) := fun _ _ h => nomatch h
theorem swap (req : AtomicReq) (val : BitVec 64) : Statement (.swap req val) := fun _ _ h => nomatch h
theorem cas (req : AtomicReq) (cmp val : BitVec 64) : Statement (.cas req cmp val) := fun _ _ h => nomatch h
theorem functionLevelReset (vf : Nat) : Statement (.functionLevelReset vf) := fun _ _ h => nomatch h
theorem flitArrival (port : Nat) (crcOk poison : Bool) (target : Nat) : Statement (.flitArrival port crcOk poison target) := fun _ _ h => nomatch h
theorem add (c : Ctl) (rd : BitVec 6) (ra : BitVec 6) (i : Bool) (b : BitVec 6) : Statement (.add c rd ra i b) := fun _ sl hsl => by
  obtain rfl := List.mem_singleton.1 hsl
  have hf : fits [(6, rd.toNat), (6, ra.toNat), (1, i.toNat), (1, 0), (6, b.toNat)] = true := fits_bv _ (fits_bv _ (fits_bool _ (fits_num (by decide) (fits_bv _ fits_nil))))
  refine of_raw (s₀ := .s) rfl ((raw_packS c (op := 0x00) (by decide) hf rfl).trans ?_)
  have hu := unpack_pack hf
  simp only [List.map_cons, List.map_nil] at hu
  have e (w : Nat) : rawS c 0x00 w = (match unpack [6, 6, 1, 1, 6] w with | [rd, ra, i, _, b] => some (.add c (.ofNat _ rd) (.ofNat _ ra) (bit i) (.ofNat _ b)) | _ => none) := rfl
  simp only [e, hu, bit_toNat, BitVec.ofNat_toNat, BitVec.setWidth_eq]
theorem sub (c : Ctl) (rd : BitVec 6) (ra : BitVec 6) (i : Bool) (b : BitVec 6) : Statement (.sub c rd ra i b) := fun _ sl hsl => by
  obtain rfl := List.mem_singleton.1 hsl
  have hf : fits [(6, rd.toNat), (6, ra.toNat), (1, i.toNat), (1, 0), (6, b.toNat)] = true := fits_bv _ (fits_bv _ (fits_bool _ (fits_num (by decide) (fits_bv _ fits_nil))))
  refine of_raw (s₀ := .s) rfl ((raw_packS c (op := 0x01) (by decide) hf rfl).trans ?_)
  have hu := unpack_pack hf
  simp only [List.map_cons, List.map_nil] at hu
  have e (w : Nat) : rawS c 0x01 w = (match unpack [6, 6, 1, 1, 6] w with | [rd, ra, i, _, b] => some (.sub c (.ofNat _ rd) (.ofNat _ ra) (bit i) (.ofNat _ b)) | _ => none) := rfl
  simp only [e, hu, bit_toNat, BitVec.ofNat_toNat, BitVec.setWidth_eq]
theorem mul (c : Ctl) (rd : BitVec 6) (ra : BitVec 6) (i : Bool) (b : BitVec 6) : Statement (.mul c rd ra i b) := fun _ sl hsl => by
  obtain rfl := List.mem_singleton.1 hsl
  have hf : fits [(6, rd.toNat), (6, ra.toNat), (1, i.toNat), (1, 0), (6, b.toNat)] = true := fits_bv _ (fits_bv _ (fits_bool _ (fits_num (by decide) (fits_bv _ fits_nil))))
  refine of_raw (s₀ := .s) rfl ((raw_packS c (op := 0x02) (by decide) hf rfl).trans ?_)
  have hu := unpack_pack hf
  simp only [List.map_cons, List.map_nil] at hu
  have e (w : Nat) : rawS c 0x02 w = (match unpack [6, 6, 1, 1, 6] w with | [rd, ra, i, _, b] => some (.mul c (.ofNat _ rd) (.ofNat _ ra) (bit i) (.ofNat _ b)) | _ => none) := rfl
  simp only [e, hu, bit_toNat, BitVec.ofNat_toNat, BitVec.setWidth_eq]
theorem mulh (c : Ctl) (rd : BitVec 6) (ra : BitVec 6) (i : Bool) (m : Bool) (b : BitVec 6) : Statement (.mulh c rd ra i m b) := fun _ sl hsl => by
  obtain rfl := List.mem_singleton.1 hsl
  have hf : fits [(6, rd.toNat), (6, ra.toNat), (1, i.toNat), (1, m.toNat), (6, b.toNat)] = true := fits_bv _ (fits_bv _ (fits_bool _ (fits_bool _ (fits_bv _ fits_nil))))
  refine of_raw (s₀ := .s) rfl ((raw_packS c (op := 0x03) (by decide) hf rfl).trans ?_)
  have hu := unpack_pack hf
  simp only [List.map_cons, List.map_nil] at hu
  have e (w : Nat) : rawS c 0x03 w = (match unpack [6, 6, 1, 1, 6] w with | [rd, ra, i, m, b] => some (.mulh c (.ofNat _ rd) (.ofNat _ ra) (bit i) (bit m) (.ofNat _ b)) | _ => none) := rfl
  simp only [e, hu, bit_toNat, BitVec.ofNat_toNat, BitVec.setWidth_eq]
theorem div (c : Ctl) (rd : BitVec 6) (ra : BitVec 6) (i : Bool) (m : Bool) (b : BitVec 6) : Statement (.div c rd ra i m b) := fun _ sl hsl => by
  obtain rfl := List.mem_singleton.1 hsl
  have hf : fits [(6, rd.toNat), (6, ra.toNat), (1, i.toNat), (1, m.toNat), (6, b.toNat)] = true := fits_bv _ (fits_bv _ (fits_bool _ (fits_bool _ (fits_bv _ fits_nil))))
  refine of_raw (s₀ := .s) rfl ((raw_packS c (op := 0x04) (by decide) hf rfl).trans ?_)
  have hu := unpack_pack hf
  simp only [List.map_cons, List.map_nil] at hu
  have e (w : Nat) : rawS c 0x04 w = (match unpack [6, 6, 1, 1, 6] w with | [rd, ra, i, m, b] => some (.div c (.ofNat _ rd) (.ofNat _ ra) (bit i) (bit m) (.ofNat _ b)) | _ => none) := rfl
  simp only [e, hu, bit_toNat, BitVec.ofNat_toNat, BitVec.setWidth_eq]
theorem rem (c : Ctl) (rd : BitVec 6) (ra : BitVec 6) (i : Bool) (m : Bool) (b : BitVec 6) : Statement (.rem c rd ra i m b) := fun _ sl hsl => by
  obtain rfl := List.mem_singleton.1 hsl
  have hf : fits [(6, rd.toNat), (6, ra.toNat), (1, i.toNat), (1, m.toNat), (6, b.toNat)] = true := fits_bv _ (fits_bv _ (fits_bool _ (fits_bool _ (fits_bv _ fits_nil))))
  refine of_raw (s₀ := .s) rfl ((raw_packS c (op := 0x05) (by decide) hf rfl).trans ?_)
  have hu := unpack_pack hf
  simp only [List.map_cons, List.map_nil] at hu
  have e (w : Nat) : rawS c 0x05 w = (match unpack [6, 6, 1, 1, 6] w with | [rd, ra, i, m, b] => some (.rem c (.ofNat _ rd) (.ofNat _ ra) (bit i) (bit m) (.ofNat _ b)) | _ => none) := rfl
  simp only [e, hu, bit_toNat, BitVec.ofNat_toNat, BitVec.setWidth_eq]
theorem and (c : Ctl) (rd : BitVec 6) (ra : BitVec 6) (i : Bool) (b : BitVec 6) : Statement (.and c rd ra i b) := fun _ sl hsl => by
  obtain rfl := List.mem_singleton.1 hsl
  have hf : fits [(6, rd.toNat), (6, ra.toNat), (1, i.toNat), (1, 0), (6, b.toNat)] = true := fits_bv _ (fits_bv _ (fits_bool _ (fits_num (by decide) (fits_bv _ fits_nil))))
  refine of_raw (s₀ := .s) rfl ((raw_packS c (op := 0x06) (by decide) hf rfl).trans ?_)
  have hu := unpack_pack hf
  simp only [List.map_cons, List.map_nil] at hu
  have e (w : Nat) : rawS c 0x06 w = (match unpack [6, 6, 1, 1, 6] w with | [rd, ra, i, _, b] => some (.and c (.ofNat _ rd) (.ofNat _ ra) (bit i) (.ofNat _ b)) | _ => none) := rfl
  simp only [e, hu, bit_toNat, BitVec.ofNat_toNat, BitVec.setWidth_eq]
theorem or (c : Ctl) (rd : BitVec 6) (ra : BitVec 6) (i : Bool) (b : BitVec 6) : Statement (.or c rd ra i b) := fun _ sl hsl => by
  obtain rfl := List.mem_singleton.1 hsl
  have hf : fits [(6, rd.toNat), (6, ra.toNat), (1, i.toNat), (1, 0), (6, b.toNat)] = true := fits_bv _ (fits_bv _ (fits_bool _ (fits_num (by decide) (fits_bv _ fits_nil))))
  refine of_raw (s₀ := .s) rfl ((raw_packS c (op := 0x07) (by decide) hf rfl).trans ?_)
  have hu := unpack_pack hf
  simp only [List.map_cons, List.map_nil] at hu
  have e (w : Nat) : rawS c 0x07 w = (match unpack [6, 6, 1, 1, 6] w with | [rd, ra, i, _, b] => some (.or c (.ofNat _ rd) (.ofNat _ ra) (bit i) (.ofNat _ b)) | _ => none) := rfl
  simp only [e, hu, bit_toNat, BitVec.ofNat_toNat, BitVec.setWidth_eq]
theorem xor (c : Ctl) (rd : BitVec 6) (ra : BitVec 6) (i : Bool) (b : BitVec 6) : Statement (.xor c rd ra i b) := fun _ sl hsl => by
  obtain rfl := List.mem_singleton.1 hsl
  have hf : fits [(6, rd.toNat), (6, ra.toNat), (1, i.toNat), (1, 0), (6, b.toNat)] = true := fits_bv _ (fits_bv _ (fits_bool _ (fits_num (by decide) (fits_bv _ fits_nil))))
  refine of_raw (s₀ := .s) rfl ((raw_packS c (op := 0x08) (by decide) hf rfl).trans ?_)
  have hu := unpack_pack hf
  simp only [List.map_cons, List.map_nil] at hu
  have e (w : Nat) : rawS c 0x08 w = (match unpack [6, 6, 1, 1, 6] w with | [rd, ra, i, _, b] => some (.xor c (.ofNat _ rd) (.ofNat _ ra) (bit i) (.ofNat _ b)) | _ => none) := rfl
  simp only [e, hu, bit_toNat, BitVec.ofNat_toNat, BitVec.setWidth_eq]
theorem andn (c : Ctl) (rd : BitVec 6) (ra : BitVec 6) (i : Bool) (b : BitVec 6) : Statement (.andn c rd ra i b) := fun _ sl hsl => by
  obtain rfl := List.mem_singleton.1 hsl
  have hf : fits [(6, rd.toNat), (6, ra.toNat), (1, i.toNat), (1, 0), (6, b.toNat)] = true := fits_bv _ (fits_bv _ (fits_bool _ (fits_num (by decide) (fits_bv _ fits_nil))))
  refine of_raw (s₀ := .s) rfl ((raw_packS c (op := 0x09) (by decide) hf rfl).trans ?_)
  have hu := unpack_pack hf
  simp only [List.map_cons, List.map_nil] at hu
  have e (w : Nat) : rawS c 0x09 w = (match unpack [6, 6, 1, 1, 6] w with | [rd, ra, i, _, b] => some (.andn c (.ofNat _ rd) (.ofNat _ ra) (bit i) (.ofNat _ b)) | _ => none) := rfl
  simp only [e, hu, bit_toNat, BitVec.ofNat_toNat, BitVec.setWidth_eq]
theorem shl (c : Ctl) (rd : BitVec 6) (ra : BitVec 6) (i : Bool) (b : BitVec 6) : Statement (.shl c rd ra i b) := fun _ sl hsl => by
  obtain rfl := List.mem_singleton.1 hsl
  have hf : fits [(6, rd.toNat), (6, ra.toNat), (1, i.toNat), (1, 0), (6, b.toNat)] = true := fits_bv _ (fits_bv _ (fits_bool _ (fits_num (by decide) (fits_bv _ fits_nil))))
  refine of_raw (s₀ := .s) rfl ((raw_packS c (op := 0x0A) (by decide) hf rfl).trans ?_)
  have hu := unpack_pack hf
  simp only [List.map_cons, List.map_nil] at hu
  have e (w : Nat) : rawS c 0x0A w = (match unpack [6, 6, 1, 1, 6] w with | [rd, ra, i, _, b] => some (.shl c (.ofNat _ rd) (.ofNat _ ra) (bit i) (.ofNat _ b)) | _ => none) := rfl
  simp only [e, hu, bit_toNat, BitVec.ofNat_toNat, BitVec.setWidth_eq]
theorem shr (c : Ctl) (rd : BitVec 6) (ra : BitVec 6) (i : Bool) (b : BitVec 6) : Statement (.shr c rd ra i b) := fun _ sl hsl => by
  obtain rfl := List.mem_singleton.1 hsl
  have hf : fits [(6, rd.toNat), (6, ra.toNat), (1, i.toNat), (1, 0), (6, b.toNat)] = true := fits_bv _ (fits_bv _ (fits_bool _ (fits_num (by decide) (fits_bv _ fits_nil))))
  refine of_raw (s₀ := .s) rfl ((raw_packS c (op := 0x0B) (by decide) hf rfl).trans ?_)
  have hu := unpack_pack hf
  simp only [List.map_cons, List.map_nil] at hu
  have e (w : Nat) : rawS c 0x0B w = (match unpack [6, 6, 1, 1, 6] w with | [rd, ra, i, _, b] => some (.shr c (.ofNat _ rd) (.ofNat _ ra) (bit i) (.ofNat _ b)) | _ => none) := rfl
  simp only [e, hu, bit_toNat, BitVec.ofNat_toNat, BitVec.setWidth_eq]
theorem sra (c : Ctl) (rd : BitVec 6) (ra : BitVec 6) (i : Bool) (b : BitVec 6) : Statement (.sra c rd ra i b) := fun _ sl hsl => by
  obtain rfl := List.mem_singleton.1 hsl
  have hf : fits [(6, rd.toNat), (6, ra.toNat), (1, i.toNat), (1, 0), (6, b.toNat)] = true := fits_bv _ (fits_bv _ (fits_bool _ (fits_num (by decide) (fits_bv _ fits_nil))))
  refine of_raw (s₀ := .s) rfl ((raw_packS c (op := 0x0C) (by decide) hf rfl).trans ?_)
  have hu := unpack_pack hf
  simp only [List.map_cons, List.map_nil] at hu
  have e (w : Nat) : rawS c 0x0C w = (match unpack [6, 6, 1, 1, 6] w with | [rd, ra, i, _, b] => some (.sra c (.ofNat _ rd) (.ofNat _ ra) (bit i) (.ofNat _ b)) | _ => none) := rfl
  simp only [e, hu, bit_toNat, BitVec.ofNat_toNat, BitVec.setWidth_eq]
theorem min (c : Ctl) (rd : BitVec 6) (ra : BitVec 6) (i : Bool) (m : Bool) (b : BitVec 6) : Statement (.min c rd ra i m b) := fun _ sl hsl => by
  obtain rfl := List.mem_singleton.1 hsl
  have hf : fits [(6, rd.toNat), (6, ra.toNat), (1, i.toNat), (1, m.toNat), (6, b.toNat)] = true := fits_bv _ (fits_bv _ (fits_bool _ (fits_bool _ (fits_bv _ fits_nil))))
  refine of_raw (s₀ := .s) rfl ((raw_packS c (op := 0x0D) (by decide) hf rfl).trans ?_)
  have hu := unpack_pack hf
  simp only [List.map_cons, List.map_nil] at hu
  have e (w : Nat) : rawS c 0x0D w = (match unpack [6, 6, 1, 1, 6] w with | [rd, ra, i, m, b] => some (.min c (.ofNat _ rd) (.ofNat _ ra) (bit i) (bit m) (.ofNat _ b)) | _ => none) := rfl
  simp only [e, hu, bit_toNat, BitVec.ofNat_toNat, BitVec.setWidth_eq]
theorem max (c : Ctl) (rd : BitVec 6) (ra : BitVec 6) (i : Bool) (m : Bool) (b : BitVec 6) : Statement (.max c rd ra i m b) := fun _ sl hsl => by
  obtain rfl := List.mem_singleton.1 hsl
  have hf : fits [(6, rd.toNat), (6, ra.toNat), (1, i.toNat), (1, m.toNat), (6, b.toNat)] = true := fits_bv _ (fits_bv _ (fits_bool _ (fits_bool _ (fits_bv _ fits_nil))))
  refine of_raw (s₀ := .s) rfl ((raw_packS c (op := 0x0E) (by decide) hf rfl).trans ?_)
  have hu := unpack_pack hf
  simp only [List.map_cons, List.map_nil] at hu
  have e (w : Nat) : rawS c 0x0E w = (match unpack [6, 6, 1, 1, 6] w with | [rd, ra, i, m, b] => some (.max c (.ofNat _ rd) (.ofNat _ ra) (bit i) (bit m) (.ofNat _ b)) | _ => none) := rfl
  simp only [e, hu, bit_toNat, BitVec.ofNat_toNat, BitVec.setWidth_eq]
theorem sel (c : Ctl) (rd : BitVec 6) (ra : BitVec 6) (rb : BitVec 6) (fs : BitVec 2) : Statement (.sel c rd ra rb fs) := fun _ sl hsl => by
  obtain rfl := List.mem_singleton.1 hsl
  have hf : fits [(6, rd.toNat), (6, ra.toNat), (6, rb.toNat), (2, fs.toNat)] = true := fits_bv _ (fits_bv _ (fits_bv _ (fits_bv _ fits_nil)))
  refine of_raw (s₀ := .s) rfl ((raw_packS c (op := 0x0F) (by decide) hf rfl).trans ?_)
  have hu := unpack_pack hf
  simp only [List.map_cons, List.map_nil] at hu
  have e (w : Nat) : rawS c 0x0F w = (match unpack [6, 6, 6, 2] w with | [rd, ra, rb, fs] => some (.sel c (.ofNat _ rd) (.ofNat _ ra) (.ofNat _ rb) (.ofNat _ fs)) | _ => none) := rfl
  simp only [e, hu, BitVec.ofNat_toNat, BitVec.setWidth_eq]
theorem clz (c : Ctl) (rd : BitVec 6) (ra : BitVec 6) : Statement (.clz c rd ra) := fun _ sl hsl => by
  obtain rfl := List.mem_singleton.1 hsl
  have hf : fits [(6, rd.toNat), (6, ra.toNat), (8, 0)] = true := fits_bv _ (fits_bv _ (fits_num (by decide) fits_nil))
  refine of_raw (s₀ := .s) rfl ((raw_packS c (op := 0x10) (by decide) hf rfl).trans ?_)
  have hu := unpack_pack hf
  simp only [List.map_cons, List.map_nil] at hu
  have e (w : Nat) : rawS c 0x10 w = (match unpack [6, 6, 8] w with | [rd, ra, _] => some (.clz c (.ofNat _ rd) (.ofNat _ ra)) | _ => none) := rfl
  simp only [e, hu, BitVec.ofNat_toNat, BitVec.setWidth_eq]
theorem popc (c : Ctl) (rd : BitVec 6) (ra : BitVec 6) : Statement (.popc c rd ra) := fun _ sl hsl => by
  obtain rfl := List.mem_singleton.1 hsl
  have hf : fits [(6, rd.toNat), (6, ra.toNat), (8, 0)] = true := fits_bv _ (fits_bv _ (fits_num (by decide) fits_nil))
  refine of_raw (s₀ := .s) rfl ((raw_packS c (op := 0x11) (by decide) hf rfl).trans ?_)
  have hu := unpack_pack hf
  simp only [List.map_cons, List.map_nil] at hu
  have e (w : Nat) : rawS c 0x11 w = (match unpack [6, 6, 8] w with | [rd, ra, _] => some (.popc c (.ofNat _ rd) (.ofNat _ ra)) | _ => none) := rfl
  simp only [e, hu, BitVec.ofNat_toNat, BitVec.setWidth_eq]
theorem movi (c : Ctl) (rd : BitVec 6) (imm : BitVec 14) : Statement (.movi c rd imm) := fun _ sl hsl => by
  obtain rfl := List.mem_singleton.1 hsl
  have hf : fits [(6, rd.toNat), (14, imm.toNat)] = true := fits_bv _ (fits_bv _ fits_nil)
  refine of_raw (s₀ := .s) rfl ((raw_packS c (op := 0x12) (by decide) hf rfl).trans ?_)
  have hu := unpack_pack hf
  simp only [List.map_cons, List.map_nil] at hu
  have e (w : Nat) : rawS c 0x12 w = (match unpack [6, 14] w with | [rd, imm] => some (.movi c (.ofNat _ rd) (.ofNat _ imm)) | _ => none) := rfl
  simp only [e, hu, BitVec.ofNat_toNat, BitVec.setWidth_eq]
theorem movhi (c : Ctl) (rd : BitVec 6) (imm : BitVec 14) : Statement (.movhi c rd imm) := fun _ sl hsl => by
  obtain rfl := List.mem_singleton.1 hsl
  have hf : fits [(6, rd.toNat), (14, imm.toNat)] = true := fits_bv _ (fits_bv _ fits_nil)
  refine of_raw (s₀ := .s) rfl ((raw_packS c (op := 0x13) (by decide) hf rfl).trans ?_)
  have hu := unpack_pack hf
  simp only [List.map_cons, List.map_nil] at hu
  have e (w : Nat) : rawS c 0x13 w = (match unpack [6, 14] w with | [rd, imm] => some (.movhi c (.ofNat _ rd) (.ofNat _ imm)) | _ => none) := rfl
  simp only [e, hu, BitVec.ofNat_toNat, BitVec.setWidth_eq]
theorem cmp (c : Ctl) (fd : BitVec 4) (cc : BitVec 3) (ra : BitVec 6) (i : Bool) (b : BitVec 6) : Statement (.cmp c fd cc ra i b) := fun _ sl hsl => by
  obtain rfl := List.mem_singleton.1 hsl
  have hf : fits [(4, fd.toNat), (3, cc.toNat), (6, ra.toNat), (1, i.toNat), (6, b.toNat)] = true := fits_bv _ (fits_bv _ (fits_bv _ (fits_bool _ (fits_bv _ fits_nil))))
  refine of_raw (s₀ := .s) rfl ((raw_packS c (op := 0x14) (by decide) hf rfl).trans ?_)
  have hu := unpack_pack hf
  simp only [List.map_cons, List.map_nil] at hu
  have e (w : Nat) : rawS c 0x14 w = (match unpack [4, 3, 6, 1, 6] w with | [fd, cc, ra, i, b] => some (.cmp c (.ofNat _ fd) (.ofNat _ cc) (.ofNat _ ra) (bit i) (.ofNat _ b)) | _ => none) := rfl
  simp only [e, hu, bit_toNat, BitVec.ofNat_toNat, BitVec.setWidth_eq]
theorem ext (c : Ctl) (rd : BitVec 6) (ra : BitVec 6) (wc : BitVec 2) (sg : Bool) (bo : BitVec 3) : Statement (.ext c rd ra wc sg bo) := fun _ sl hsl => by
  obtain rfl := List.mem_singleton.1 hsl
  have hf : fits [(6, rd.toNat), (6, ra.toNat), (2, wc.toNat), (1, sg.toNat), (3, bo.toNat), (2, 0)] = true := fits_bv _ (fits_bv _ (fits_bv _ (fits_bool _ (fits_bv _ (fits_num (by decide) fits_nil)))))
  refine of_raw (s₀ := .s) rfl ((raw_packS c (op := 0x15) (by decide) hf rfl).trans ?_)
  have hu := unpack_pack hf
  simp only [List.map_cons, List.map_nil] at hu
  have e (w : Nat) : rawS c 0x15 w = (match unpack [6, 6, 2, 1, 3, 2] w with | [rd, ra, wc, sg, bo, _] => some (.ext c (.ofNat _ rd) (.ofNat _ ra) (.ofNat _ wc) (bit sg) (.ofNat _ bo)) | _ => none) := rfl
  simp only [e, hu, bit_toNat, BitVec.ofNat_toNat, BitVec.setWidth_eq]
theorem br (c : Ctl) (bi : Bool) (bf : BitVec 4) (off : BitVec 15) : Statement (.br c bi bf off) := fun _ sl hsl => by
  obtain rfl := List.mem_singleton.1 hsl
  have hf : fits [(1, bi.toNat), (4, bf.toNat), (15, off.toNat)] = true := fits_bool _ (fits_bv _ (fits_bv _ fits_nil))
  refine of_raw (s₀ := .s) rfl ((raw_packS c (op := 0x18) (by decide) hf rfl).trans ?_)
  have hu := unpack_pack hf
  simp only [List.map_cons, List.map_nil] at hu
  have e (w : Nat) : rawS c 0x18 w = (match unpack [1, 4, 15] w with | [bi, bf, off] => some (.br c (bit bi) (.ofNat _ bf) (.ofNat _ off)) | _ => none) := rfl
  simp only [e, hu, bit_toNat, BitVec.ofNat_toNat, BitVec.setWidth_eq]
theorem jmp (c : Ctl) (off : BitVec 20) : Statement (.jmp c off) := fun _ sl hsl => by
  obtain rfl := List.mem_singleton.1 hsl
  have hf : fits [(20, off.toNat)] = true := fits_bv _ fits_nil
  refine of_raw (s₀ := .s) rfl ((raw_packS c (op := 0x19) (by decide) hf rfl).trans ?_)
  have hu := unpack_pack hf
  simp only [List.map_cons, List.map_nil] at hu
  have e (w : Nat) : rawS c 0x19 w = (match unpack [20] w with | [off] => some (.jmp c (.ofNat _ off)) | _ => none) := rfl
  simp only [e, hu, BitVec.ofNat_toNat, BitVec.setWidth_eq]
theorem jmpi (c : Ctl) (ra : BitVec 6) (disp : BitVec 14) : Statement (.jmpi c ra disp) := fun _ sl hsl => by
  obtain rfl := List.mem_singleton.1 hsl
  have hf : fits [(6, ra.toNat), (14, disp.toNat)] = true := fits_bv _ (fits_bv _ fits_nil)
  refine of_raw (s₀ := .s) rfl ((raw_packS c (op := 0x1A) (by decide) hf rfl).trans ?_)
  have hu := unpack_pack hf
  simp only [List.map_cons, List.map_nil] at hu
  have e (w : Nat) : rawS c 0x1A w = (match unpack [6, 14] w with | [ra, disp] => some (.jmpi c (.ofNat _ ra) (.ofNat _ disp)) | _ => none) := rfl
  simp only [e, hu, BitVec.ofNat_toNat, BitVec.setWidth_eq]
theorem call (c : Ctl) (off : BitVec 20) : Statement (.call c off) := fun _ sl hsl => by
  obtain rfl := List.mem_singleton.1 hsl
  have hf : fits [(20, off.toNat)] = true := fits_bv _ fits_nil
  refine of_raw (s₀ := .s) rfl ((raw_packS c (op := 0x1B) (by decide) hf rfl).trans ?_)
  have hu := unpack_pack hf
  simp only [List.map_cons, List.map_nil] at hu
  have e (w : Nat) : rawS c 0x1B w = (match unpack [20] w with | [off] => some (.call c (.ofNat _ off)) | _ => none) := rfl
  simp only [e, hu, BitVec.ofNat_toNat, BitVec.setWidth_eq]
theorem ret (c : Ctl) (ra : BitVec 6) : Statement (.ret c ra) := fun _ sl hsl => by
  obtain rfl := List.mem_singleton.1 hsl
  have hf : fits [(6, ra.toNat), (14, 0)] = true := fits_bv _ (fits_num (by decide) fits_nil)
  refine of_raw (s₀ := .s) rfl ((raw_packS c (op := 0x1C) (by decide) hf rfl).trans ?_)
  have hu := unpack_pack hf
  simp only [List.map_cons, List.map_nil] at hu
  have e (w : Nat) : rawS c 0x1C w = (match unpack [6, 14] w with | [ra, _] => some (.ret c (.ofNat _ ra)) | _ => none) := rfl
  simp only [e, hu, BitVec.ofNat_toNat, BitVec.setWidth_eq]
theorem loopImm (c : Ctl) (cnt : BitVec 8) (fin : BitVec 11) : Statement (.loopImm c cnt fin) := fun _ sl hsl => by
  obtain rfl := List.mem_singleton.1 hsl
  have hf : fits [(1, 1), (8, cnt.toNat), (11, fin.toNat)] = true := fits_num (by decide) (fits_bv _ (fits_bv _ fits_nil))
  refine of_raw (s₀ := .s) rfl ((raw_packS c (op := 0x1D) (by decide) hf rfl).trans ?_)
  have hb : (pack [(1, 1), (8, cnt.toNat), (11, fin.toNat)]).testBit 19 = true := testBit_pack (fs := []) (gs := [(8, cnt.toNat), (11, fin.toNat)]) (b := 1) rfl rfl (fits_bv _ (fits_bv _ fits_nil)) (by decide) rfl
  have hu := unpack_pack hf
  simp only [List.map_cons, List.map_nil] at hu
  have e (w : Nat) : rawS c 0x1D w = if w.testBit 19 then (match unpack [1, 8, 11] w with | [_, cnt, fin] => some (.loopImm c (.ofNat _ cnt) (.ofNat _ fin)) | _ => none) else (match unpack [1, 6, 2, 11] w with | [_, ra, _, fin] => some (.loopReg c (.ofNat _ ra) (.ofNat _ fin)) | _ => none) := rfl
  simp only [e, hu, hb, ↓reduceIte, BitVec.ofNat_toNat, BitVec.setWidth_eq]
theorem loopReg (c : Ctl) (ra : BitVec 6) (fin : BitVec 11) : Statement (.loopReg c ra fin) := fun _ sl hsl => by
  obtain rfl := List.mem_singleton.1 hsl
  have hf : fits [(1, 0), (6, ra.toNat), (2, 0), (11, fin.toNat)] = true := fits_num (by decide) (fits_bv _ (fits_num (by decide) (fits_bv _ fits_nil)))
  refine of_raw (s₀ := .s) rfl ((raw_packS c (op := 0x1D) (by decide) hf rfl).trans ?_)
  have hb : (pack [(1, 0), (6, ra.toNat), (2, 0), (11, fin.toNat)]).testBit 19 = false := testBit_pack (fs := []) (gs := [(6, ra.toNat), (2, 0), (11, fin.toNat)]) (b := 0) rfl rfl (fits_bv _ (fits_num (by decide) (fits_bv _ fits_nil))) (by decide) rfl
  have hu := unpack_pack hf
  simp only [List.map_cons, List.map_nil] at hu
  have e (w : Nat) : rawS c 0x1D w = if w.testBit 19 then (match unpack [1, 8, 11] w with | [_, cnt, fin] => some (.loopImm c (.ofNat _ cnt) (.ofNat _ fin)) | _ => none) else (match unpack [1, 6, 2, 11] w with | [_, ra, _, fin] => some (.loopReg c (.ofNat _ ra) (.ofNat _ fin)) | _ => none) := rfl
  simp only [e, hu, hb, ↓reduceIte, Bool.false_eq_true, BitVec.ofNat_toNat, BitVec.setWidth_eq]
theorem loopbrk (c : Ctl) (n : BitVec 3) : Statement (.loopbrk c n) := fun _ sl hsl => by
  obtain rfl := List.mem_singleton.1 hsl
  have hf : fits [(17, 0), (3, n.toNat)] = true := fits_num (by decide) (fits_bv _ fits_nil)
  refine of_raw (s₀ := .s) rfl ((raw_packS c (op := 0x1E) (by decide) hf rfl).trans ?_)
  have hu := unpack_pack hf
  simp only [List.map_cons, List.map_nil] at hu
  have e (w : Nat) : rawS c 0x1E w = (match unpack [17, 3] w with | [_, n] => some (.loopbrk c (.ofNat _ n)) | _ => none) := rfl
  simp only [e, hu, BitVec.ofNat_toNat, BitVec.setWidth_eq]
theorem lidx (c : Ctl) (rd : BitVec 6) (cnt : Bool) (lv : BitVec 3) : Statement (.lidx c rd cnt lv) := fun _ sl hsl => by
  obtain rfl := List.mem_singleton.1 hsl
  have hf : fits [(6, rd.toNat), (1, cnt.toNat), (3, lv.toNat), (10, 0)] = true := fits_bv _ (fits_bool _ (fits_bv _ (fits_num (by decide) fits_nil)))
  refine of_raw (s₀ := .s) rfl ((raw_packS c (op := 0x1F) (by decide) hf rfl).trans ?_)
  have hu := unpack_pack hf
  simp only [List.map_cons, List.map_nil] at hu
  have e (w : Nat) : rawS c 0x1F w = (match unpack [6, 1, 3, 10] w with | [rd, cnt, lv, _] => some (.lidx c (.ofNat _ rd) (bit cnt) (.ofNat _ lv)) | _ => none) := rfl
  simp only [e, hu, bit_toNat, BitVec.ofNat_toNat, BitVec.setWidth_eq]
theorem seghint (c : Ctl) (off : BitVec 20) : Statement (.seghint c off) := fun _ sl hsl => by
  obtain rfl := List.mem_singleton.1 hsl
  have hf : fits [(20, off.toNat)] = true := fits_bv _ fits_nil
  refine of_raw (s₀ := .s) rfl ((raw_packS c (op := 0x20) (by decide) hf rfl).trans ?_)
  have hu := unpack_pack hf
  simp only [List.map_cons, List.map_nil] at hu
  have e (w : Nat) : rawS c 0x20 w = (match unpack [20] w with | [off] => some (.seghint c (.ofNat _ off)) | _ => none) := rfl
  simp only [e, hu, BitVec.ofNat_toNat, BitVec.setWidth_eq]
theorem fset (c : Ctl) (mask : BitVec 15) : Statement (.fset c mask) := fun _ sl hsl => by
  obtain rfl := List.mem_singleton.1 hsl
  have hf : fits [(4, 0), (15, mask.toNat), (1, 0)] = true := fits_num (by decide) (fits_bv _ (fits_num (by decide) fits_nil))
  refine of_raw (s₀ := .s) rfl ((raw_packS c (op := 0x24) (by decide) hf rfl).trans ?_)
  have hu := unpack_pack hf
  simp only [List.map_cons, List.map_nil] at hu
  have e (w : Nat) : rawS c 0x24 w = (match unpack [4, 15, 1] w with | [_, mask, _] => some (.fset c (.ofNat _ mask)) | _ => none) := rfl
  simp only [e, hu, BitVec.ofNat_toNat, BitVec.setWidth_eq]
theorem fclr (c : Ctl) (mask : BitVec 15) : Statement (.fclr c mask) := fun _ sl hsl => by
  obtain rfl := List.mem_singleton.1 hsl
  have hf : fits [(4, 0), (15, mask.toNat), (1, 0)] = true := fits_num (by decide) (fits_bv _ (fits_num (by decide) fits_nil))
  refine of_raw (s₀ := .s) rfl ((raw_packS c (op := 0x25) (by decide) hf rfl).trans ?_)
  have hu := unpack_pack hf
  simp only [List.map_cons, List.map_nil] at hu
  have e (w : Nat) : rawS c 0x25 w = (match unpack [4, 15, 1] w with | [_, mask, _] => some (.fclr c (.ofNat _ mask)) | _ => none) := rfl
  simp only [e, hu, BitVec.ofNat_toNat, BitVec.setWidth_eq]
theorem fop (c : Ctl) (fd : BitVec 4) (fa : BitVec 4) (fb : BitVec 4) (tt : BitVec 4) : Statement (.fop c fd fa fb tt) := fun _ sl hsl => by
  obtain rfl := List.mem_singleton.1 hsl
  have hf : fits [(4, fd.toNat), (4, fa.toNat), (4, fb.toNat), (4, tt.toNat), (4, 0)] = true := fits_bv _ (fits_bv _ (fits_bv _ (fits_bv _ (fits_num (by decide) fits_nil))))
  refine of_raw (s₀ := .s) rfl ((raw_packS c (op := 0x26) (by decide) hf rfl).trans ?_)
  have hu := unpack_pack hf
  simp only [List.map_cons, List.map_nil] at hu
  have e (w : Nat) : rawS c 0x26 w = (match unpack [4, 4, 4, 4, 4] w with | [fd, fa, fb, tt, _] => some (.fop c (.ofNat _ fd) (.ofNat _ fa) (.ofNat _ fb) (.ofNat _ tt)) | _ => none) := rfl
  simp only [e, hu, BitVec.ofNat_toNat, BitVec.setWidth_eq]
theorem vcwld (c : Ctl) (idx : BitVec 9) (ra : BitVec 6) (cnt : BitVec 4) : Statement (.vcwld c idx ra cnt) := fun _ sl hsl => by
  obtain rfl := List.mem_singleton.1 hsl
  have hf : fits [(9, idx.toNat), (6, ra.toNat), (4, cnt.toNat), (1, 0)] = true := fits_bv _ (fits_bv _ (fits_bv _ (fits_num (by decide) fits_nil)))
  refine of_raw (s₀ := .s) rfl ((raw_packS c (op := 0x27) (by decide) hf rfl).trans ?_)
  have hu := unpack_pack hf
  simp only [List.map_cons, List.map_nil] at hu
  have e (w : Nat) : rawS c 0x27 w = (match unpack [9, 6, 4, 1] w with | [idx, ra, cnt, _] => some (.vcwld c (.ofNat _ idx) (.ofNat _ ra) (.ofNat _ cnt)) | _ => none) := rfl
  simp only [e, hu, BitVec.ofNat_toNat, BitVec.setWidth_eq]
theorem gmset (c : Ctl) (gn : BitVec 4) (ra : BitVec 6) : Statement (.gmset c gn ra) := fun _ sl hsl => by
  obtain rfl := List.mem_singleton.1 hsl
  have hf : fits [(4, gn.toNat), (6, ra.toNat), (10, 0)] = true := fits_bv _ (fits_bv _ (fits_num (by decide) fits_nil))
  refine of_raw (s₀ := .s) rfl ((raw_packS c (op := 0x28) (by decide) hf rfl).trans ?_)
  have hu := unpack_pack hf
  simp only [List.map_cons, List.map_nil] at hu
  have e (w : Nat) : rawS c 0x28 w = (match unpack [4, 6, 10] w with | [gn, ra, _] => some (.gmset c (.ofNat _ gn) (.ofNat _ ra)) | _ => none) := rfl
  simp only [e, hu, BitVec.ofNat_toNat, BitVec.setWidth_eq]
theorem tkwait (c : Ctl) (cell : BitVec 8) (ra : BitVec 6) : Statement (.tkwait c cell ra) := fun _ sl hsl => by
  obtain rfl := List.mem_singleton.1 hsl
  have hf : fits [(8, cell.toNat), (6, ra.toNat), (6, 0)] = true := fits_bv _ (fits_bv _ (fits_num (by decide) fits_nil))
  refine of_raw (s₀ := .s) rfl ((raw_packS c (op := 0x29) (by decide) hf rfl).trans ?_)
  have hu := unpack_pack hf
  simp only [List.map_cons, List.map_nil] at hu
  have e (w : Nat) : rawS c 0x29 w = (match unpack [8, 6, 6] w with | [cell, ra, _] => some (.tkwait c (.ofNat _ cell) (.ofNat _ ra)) | _ => none) := rfl
  simp only [e, hu, BitVec.ofNat_toNat, BitVec.setWidth_eq]
theorem tkadv (c : Ctl) (cell : BitVec 8) (inc : BitVec 12) : Statement (.tkadv c cell inc) := fun _ sl hsl => by
  obtain rfl := List.mem_singleton.1 hsl
  have hf : fits [(8, cell.toNat), (12, inc.toNat)] = true := fits_bv _ (fits_bv _ fits_nil)
  refine of_raw (s₀ := .s) rfl ((raw_packS c (op := 0x2A) (by decide) hf rfl).trans ?_)
  have hu := unpack_pack hf
  simp only [List.map_cons, List.map_nil] at hu
  have e (w : Nat) : rawS c 0x2A w = (match unpack [8, 12] w with | [cell, inc] => some (.tkadv c (.ofNat _ cell) (.ofNat _ inc)) | _ => none) := rfl
  simp only [e, hu, BitVec.ofNat_toNat, BitVec.setWidth_eq]
theorem tkset (c : Ctl) (cell : BitVec 8) (ra : BitVec 6) : Statement (.tkset c cell ra) := fun _ sl hsl => by
  obtain rfl := List.mem_singleton.1 hsl
  have hf : fits [(8, cell.toNat), (6, ra.toNat), (6, 0)] = true := fits_bv _ (fits_bv _ (fits_num (by decide) fits_nil))
  refine of_raw (s₀ := .s) rfl ((raw_packS c (op := 0x2B) (by decide) hf rfl).trans ?_)
  have hu := unpack_pack hf
  simp only [List.map_cons, List.map_nil] at hu
  have e (w : Nat) : rawS c 0x2B w = (match unpack [8, 6, 6] w with | [cell, ra, _] => some (.tkset c (.ofNat _ cell) (.ofNat _ ra)) | _ => none) := rfl
  simp only [e, hu, BitVec.ofNat_toNat, BitVec.setWidth_eq]
theorem tqput (c : Ctl) (die : BitVec 4) (tq : BitVec 5) (rb : BitVec 6) : Statement (.tqput c die tq rb) := fun _ sl hsl => by
  obtain rfl := List.mem_singleton.1 hsl
  have hf : fits [(4, die.toNat), (5, tq.toNat), (6, rb.toNat), (5, 0)] = true := fits_bv _ (fits_bv _ (fits_bv _ (fits_num (by decide) fits_nil)))
  refine of_raw (s₀ := .s) rfl ((raw_packS c (op := 0x2C) (by decide) hf rfl).trans ?_)
  have hu := unpack_pack hf
  simp only [List.map_cons, List.map_nil] at hu
  have e (w : Nat) : rawS c 0x2C w = (match unpack [4, 5, 6, 5] w with | [die, tq, rb, _] => some (.tqput c (.ofNat _ die) (.ofNat _ tq) (.ofNat _ rb)) | _ => none) := rfl
  simp only [e, hu, BitVec.ofNat_toNat, BitVec.setWidth_eq]
theorem tqget (c : Ctl) (die : BitVec 4) (tq : BitVec 5) (rd : BitVec 6) : Statement (.tqget c die tq rd) := fun _ sl hsl => by
  obtain rfl := List.mem_singleton.1 hsl
  have hf : fits [(4, die.toNat), (5, tq.toNat), (6, rd.toNat), (5, 0)] = true := fits_bv _ (fits_bv _ (fits_bv _ (fits_num (by decide) fits_nil)))
  refine of_raw (s₀ := .s) rfl ((raw_packS c (op := 0x2D) (by decide) hf rfl).trans ?_)
  have hu := unpack_pack hf
  simp only [List.map_cons, List.map_nil] at hu
  have e (w : Nat) : rawS c 0x2D w = (match unpack [4, 5, 6, 5] w with | [die, tq, rd, _] => some (.tqget c (.ofNat _ die) (.ofNat _ tq) (.ofNat _ rd)) | _ => none) := rfl
  simp only [e, hu, BitVec.ofNat_toNat, BitVec.setWidth_eq]
theorem tqrel (c : Ctl) (die : BitVec 4) (tq : BitVec 5) : Statement (.tqrel c die tq) := fun _ sl hsl => by
  obtain rfl := List.mem_singleton.1 hsl
  have hf : fits [(4, die.toNat), (5, tq.toNat), (11, 0)] = true := fits_bv _ (fits_bv _ (fits_num (by decide) fits_nil))
  refine of_raw (s₀ := .s) rfl ((raw_packS c (op := 0x2E) (by decide) hf rfl).trans ?_)
  have hu := unpack_pack hf
  simp only [List.map_cons, List.map_nil] at hu
  have e (w : Nat) : rawS c 0x2E w = (match unpack [4, 5, 11] w with | [die, tq, _] => some (.tqrel c (.ofNat _ die) (.ofNat _ tq)) | _ => none) := rfl
  simp only [e, hu, BitVec.ofNat_toNat, BitVec.setWidth_eq]
theorem fence (c : Ctl) (cls : BitVec 4) : Statement (.fence c cls) := fun _ sl hsl => by
  obtain rfl := List.mem_singleton.1 hsl
  have hf : fits [(4, cls.toNat), (16, 0)] = true := fits_bv _ (fits_num (by decide) fits_nil)
  refine of_raw (s₀ := .s) rfl ((raw_packS c (op := 0x2F) (by decide) hf rfl).trans ?_)
  have hu := unpack_pack hf
  simp only [List.map_cons, List.map_nil] at hu
  have e (w : Nat) : rawS c 0x2F w = (match unpack [4, 16] w with | [cls, _] => some (.fence c (.ofNat _ cls)) | _ => none) := rfl
  simp only [e, hu, BitVec.ofNat_toNat, BitVec.setWidth_eq]
theorem post (c : Ctl) (sp : BitVec 4) (pri : BitVec 3) : Statement (.post c sp pri) := fun _ sl hsl => by
  obtain rfl := List.mem_singleton.1 hsl
  have hf : fits [(4, sp.toNat), (3, pri.toNat), (13, 0)] = true := fits_bv _ (fits_bv _ (fits_num (by decide) fits_nil))
  refine of_raw (s₀ := .s) rfl ((raw_packS c (op := 0x30) (by decide) hf rfl).trans ?_)
  have hu := unpack_pack hf
  simp only [List.map_cons, List.map_nil] at hu
  have e (w : Nat) : rawS c 0x30 w = (match unpack [4, 3, 13] w with | [sp, pri, _] => some (.post c (.ofNat _ sp) (.ofNat _ pri)) | _ => none) := rfl
  simp only [e, hu, BitVec.ofNat_toNat, BitVec.setWidth_eq]
theorem launch (c : Ctl) (sp : BitVec 4) (pri : BitVec 3) : Statement (.launch c sp pri) := fun _ sl hsl => by
  obtain rfl := List.mem_singleton.1 hsl
  have hf : fits [(4, sp.toNat), (3, pri.toNat), (13, 0)] = true := fits_bv _ (fits_bv _ (fits_num (by decide) fits_nil))
  refine of_raw (s₀ := .s) rfl ((raw_packS c (op := 0x31) (by decide) hf rfl).trans ?_)
  have hu := unpack_pack hf
  simp only [List.map_cons, List.map_nil] at hu
  have e (w : Nat) : rawS c 0x31 w = (match unpack [4, 3, 13] w with | [sp, pri, _] => some (.launch c (.ofNat _ sp) (.ofNat _ pri)) | _ => none) := rfl
  simp only [e, hu, BitVec.ofNat_toNat, BitVec.setWidth_eq]
theorem spat (c : Ctl) (rd : BitVec 6) (lv : BitVec 3) (k : Bool) : Statement (.spat c rd lv k) := fun _ sl hsl => by
  obtain rfl := List.mem_singleton.1 hsl
  have hf : fits [(6, rd.toNat), (3, lv.toNat), (1, k.toNat), (10, 0)] = true := fits_bv _ (fits_bv _ (fits_bool _ (fits_num (by decide) fits_nil)))
  refine of_raw (s₀ := .s) rfl ((raw_packS c (op := 0x32) (by decide) hf rfl).trans ?_)
  have hu := unpack_pack hf
  simp only [List.map_cons, List.map_nil] at hu
  have e (w : Nat) : rawS c 0x32 w = (match unpack [6, 3, 1, 10] w with | [rd, lv, k, _] => some (.spat c (.ofNat _ rd) (.ofNat _ lv) (bit k)) | _ => none) := rfl
  simp only [e, hu, bit_toNat, BitVec.ofNat_toNat, BitVec.setWidth_eq]
theorem sqid (c : Ctl) (rd : BitVec 6) : Statement (.sqid c rd) := fun _ sl hsl => by
  obtain rfl := List.mem_singleton.1 hsl
  have hf : fits [(6, rd.toNat), (14, 0)] = true := fits_bv _ (fits_num (by decide) fits_nil)
  refine of_raw (s₀ := .s) rfl ((raw_packS c (op := 0x33) (by decide) hf rfl).trans ?_)
  have hu := unpack_pack hf
  simp only [List.map_cons, List.map_nil] at hu
  have e (w : Nat) : rawS c 0x33 w = (match unpack [6, 14] w with | [rd, _] => some (.sqid c (.ofNat _ rd)) | _ => none) := rfl
  simp only [e, hu, BitVec.ofNat_toNat, BitVec.setWidth_eq]
theorem tend (c : Ctl) : Statement (.tend c) := fun _ sl hsl => by
  obtain rfl := List.mem_singleton.1 hsl
  have hf : fits [(20, 0)] = true := fits_num (by decide) fits_nil
  refine of_raw (s₀ := .s) rfl ((raw_packS c (op := 0x34) (by decide) hf rfl).trans ?_)
  have hu := unpack_pack hf
  simp only [List.map_cons, List.map_nil] at hu
  have e (w : Nat) : rawS c 0x34 w = (match unpack [20] w with | [_] => some (.tend c) | _ => none) := rfl
  simp only [e, hu]
theorem chk (c : Ctl) (off : BitVec 20) : Statement (.chk c off) := fun _ sl hsl => by
  obtain rfl := List.mem_singleton.1 hsl
  have hf : fits [(20, off.toNat)] = true := fits_bv _ fits_nil
  refine of_raw (s₀ := .s) rfl ((raw_packS c (op := 0x38) (by decide) hf rfl).trans ?_)
  have hu := unpack_pack hf
  simp only [List.map_cons, List.map_nil] at hu
  have e (w : Nat) : rawS c 0x38 w = (match unpack [20] w with | [off] => some (.chk c (.ofNat _ off)) | _ => none) := rfl
  simp only [e, hu, BitVec.ofNat_toNat, BitVec.setWidth_eq]
theorem cmt (c : Ctl) : Statement (.cmt c) := fun _ sl hsl => by
  obtain rfl := List.mem_singleton.1 hsl
  have hf : fits [(20, 0)] = true := fits_num (by decide) fits_nil
  refine of_raw (s₀ := .s) rfl ((raw_packS c (op := 0x39) (by decide) hf rfl).trans ?_)
  have hu := unpack_pack hf
  simp only [List.map_cons, List.map_nil] at hu
  have e (w : Nat) : rawS c 0x39 w = (match unpack [20] w with | [_] => some (.cmt c) | _ => none) := rfl
  simp only [e, hu]
theorem abt (c : Ctl) (code : BitVec 8) : Statement (.abt c code) := fun _ sl hsl => by
  obtain rfl := List.mem_singleton.1 hsl
  have hf : fits [(12, 0), (8, code.toNat)] = true := fits_num (by decide) (fits_bv _ fits_nil)
  refine of_raw (s₀ := .s) rfl ((raw_packS c (op := 0x3A) (by decide) hf rfl).trans ?_)
  have hu := unpack_pack hf
  simp only [List.map_cons, List.map_nil] at hu
  have e (w : Nat) : rawS c 0x3A w = (match unpack [12, 8] w with | [_, code] => some (.abt c (.ofNat _ code)) | _ => none) := rfl
  simp only [e, hu, BitVec.ofNat_toNat, BitVec.setWidth_eq]
theorem gclr (c : Ctl) : Statement (.gclr c) := fun _ sl hsl => by
  obtain rfl := List.mem_singleton.1 hsl
  have hf : fits [(20, 0)] = true := fits_num (by decide) fits_nil
  refine of_raw (s₀ := .s) rfl ((raw_packS c (op := 0x3B) (by decide) hf rfl).trans ?_)
  have hu := unpack_pack hf
  simp only [List.map_cons, List.map_nil] at hu
  have e (w : Nat) : rawS c 0x3B w = (match unpack [20] w with | [_] => some (.gclr c) | _ => none) := rfl
  simp only [e, hu]
theorem asrt (c : Ctl) (code : BitVec 8) : Statement (.asrt c code) := fun _ sl hsl => by
  obtain rfl := List.mem_singleton.1 hsl
  have hf : fits [(12, 0), (8, code.toNat)] = true := fits_num (by decide) (fits_bv _ fits_nil)
  refine of_raw (s₀ := .s) rfl ((raw_packS c (op := 0x3C) (by decide) hf rfl).trans ?_)
  have hu := unpack_pack hf
  simp only [List.map_cons, List.map_nil] at hu
  have e (w : Nat) : rawS c 0x3C w = (match unpack [12, 8] w with | [_, code] => some (.asrt c (.ofNat _ code)) | _ => none) := rfl
  simp only [e, hu, BitVec.ofNat_toNat, BitVec.setWidth_eq]
theorem rgst (c : Ctl) (rd : BitVec 6) : Statement (.rgst c rd) := fun _ sl hsl => by
  obtain rfl := List.mem_singleton.1 hsl
  have hf : fits [(6, rd.toNat), (14, 0)] = true := fits_bv _ (fits_num (by decide) fits_nil)
  refine of_raw (s₀ := .s) rfl ((raw_packS c (op := 0x3D) (by decide) hf rfl).trans ?_)
  have hu := unpack_pack hf
  simp only [List.map_cons, List.map_nil] at hu
  have e (w : Nat) : rawS c 0x3D w = (match unpack [6, 14] w with | [rd, _] => some (.rgst c (.ofNat _ rd)) | _ => none) := rfl
  simp only [e, hu, BitVec.ofNat_toNat, BitVec.setWidth_eq]
theorem txb (c : Ctl) (off : BitVec 20) : Statement (.txb c off) := fun _ sl hsl => by
  obtain rfl := List.mem_singleton.1 hsl
  have hf : fits [(20, off.toNat)] = true := fits_bv _ fits_nil
  refine of_raw (s₀ := .s) rfl ((raw_packS c (op := 0x3E) (by decide) hf rfl).trans ?_)
  have hu := unpack_pack hf
  simp only [List.map_cons, List.map_nil] at hu
  have e (w : Nat) : rawS c 0x3E w = (match unpack [20] w with | [off] => some (.txb c (.ofNat _ off)) | _ => none) := rfl
  simp only [e, hu, BitVec.ofNat_toNat, BitVec.setWidth_eq]
theorem txc (c : Ctl) (rd : BitVec 6) : Statement (.txc c rd) := fun _ sl hsl => by
  obtain rfl := List.mem_singleton.1 hsl
  have hf : fits [(6, rd.toNat), (14, 0)] = true := fits_bv _ (fits_num (by decide) fits_nil)
  refine of_raw (s₀ := .s) rfl ((raw_packS c (op := 0x3F) (by decide) hf rfl).trans ?_)
  have hu := unpack_pack hf
  simp only [List.map_cons, List.map_nil] at hu
  have e (w : Nat) : rawS c 0x3F w = (match unpack [6, 14] w with | [rd, _] => some (.txc c (.ofNat _ rd)) | _ => none) := rfl
  simp only [e, hu, BitVec.ofNat_toNat, BitVec.setWidth_eq]
theorem snap (c : Ctl) : Statement (.snap c) := fun _ sl hsl => by
  obtain rfl := List.mem_singleton.1 hsl
  have hf : fits [(20, 0)] = true := fits_num (by decide) fits_nil
  refine of_raw (s₀ := .s) rfl ((raw_packS c (op := 0x40) (by decide) hf rfl).trans ?_)
  have hu := unpack_pack hf
  simp only [List.map_cons, List.map_nil] at hu
  have e (w : Nat) : rawS c 0x40 w = (match unpack [20] w with | [_] => some (.snap c) | _ => none) := rfl
  simp only [e, hu]
theorem snape (c : Ctl) : Statement (.snape c) := fun _ sl hsl => by
  obtain rfl := List.mem_singleton.1 hsl
  have hf : fits [(20, 0)] = true := fits_num (by decide) fits_nil
  refine of_raw (s₀ := .s) rfl ((raw_packS c (op := 0x41) (by decide) hf rfl).trans ?_)
  have hu := unpack_pack hf
  simp only [List.map_cons, List.map_nil] at hu
  have e (w : Nat) : rawS c 0x41 w = (match unpack [20] w with | [_] => some (.snape c) | _ => none) := rfl
  simp only [e, hu]
theorem ctxnew (c : Ctl) (rd : BitVec 6) (ra : BitVec 6) : Statement (.ctxnew c rd ra) := fun _ sl hsl => by
  obtain rfl := List.mem_singleton.1 hsl
  have hf : fits [(6, rd.toNat), (6, ra.toNat), (8, 0)] = true := fits_bv _ (fits_bv _ (fits_num (by decide) fits_nil))
  refine of_raw (s₀ := .s) rfl ((raw_packS c (op := 0x48) (by decide) hf rfl).trans ?_)
  have hu := unpack_pack hf
  simp only [List.map_cons, List.map_nil] at hu
  have e (w : Nat) : rawS c 0x48 w = (match unpack [6, 6, 8] w with | [rd, ra, _] => some (.ctxnew c (.ofNat _ rd) (.ofNat _ ra)) | _ => none) := rfl
  simp only [e, hu, BitVec.ofNat_toNat, BitVec.setWidth_eq]
theorem ctxdel (c : Ctl) (rd : BitVec 6) (ra : BitVec 6) : Statement (.ctxdel c rd ra) := fun _ sl hsl => by
  obtain rfl := List.mem_singleton.1 hsl
  have hf : fits [(6, rd.toNat), (6, ra.toNat), (8, 0)] = true := fits_bv _ (fits_bv _ (fits_num (by decide) fits_nil))
  refine of_raw (s₀ := .s) rfl ((raw_packS c (op := 0x49) (by decide) hf rfl).trans ?_)
  have hu := unpack_pack hf
  simp only [List.map_cons, List.map_nil] at hu
  have e (w : Nat) : rawS c 0x49 w = (match unpack [6, 6, 8] w with | [rd, ra, _] => some (.ctxdel c (.ofNat _ rd) (.ofNat _ ra)) | _ => none) := rfl
  simp only [e, hu, BitVec.ofNat_toNat, BitVec.setWidth_eq]
theorem ctxcore (c : Ctl) (sp : BitVec 4) (rd : BitVec 6) (ra : BitVec 6) : Statement (.ctxcore c sp rd ra) := fun _ sl hsl => by
  obtain rfl := List.mem_singleton.1 hsl
  have hf : fits [(4, sp.toNat), (6, rd.toNat), (6, ra.toNat), (4, 0)] = true := fits_bv _ (fits_bv _ (fits_bv _ (fits_num (by decide) fits_nil)))
  refine of_raw (s₀ := .s) rfl ((raw_packS c (op := 0x4A) (by decide) hf rfl).trans ?_)
  have hu := unpack_pack hf
  simp only [List.map_cons, List.map_nil] at hu
  have e (w : Nat) : rawS c 0x4A w = (match unpack [4, 6, 6, 4] w with | [sp, rd, ra, _] => some (.ctxcore c (.ofNat _ sp) (.ofNat _ rd) (.ofNat _ ra)) | _ => none) := rfl
  simp only [e, hu, BitVec.ofNat_toNat, BitVec.setWidth_eq]
theorem ctxmem (c : Ctl) (sp : BitVec 4) (rd : BitVec 6) (ra : BitVec 6) : Statement (.ctxmem c sp rd ra) := fun _ sl hsl => by
  obtain rfl := List.mem_singleton.1 hsl
  have hf : fits [(4, sp.toNat), (6, rd.toNat), (6, ra.toNat), (4, 0)] = true := fits_bv _ (fits_bv _ (fits_bv _ (fits_num (by decide) fits_nil)))
  refine of_raw (s₀ := .s) rfl ((raw_packS c (op := 0x4B) (by decide) hf rfl).trans ?_)
  have hu := unpack_pack hf
  simp only [List.map_cons, List.map_nil] at hu
  have e (w : Nat) : rawS c 0x4B w = (match unpack [4, 6, 6, 4] w with | [sp, rd, ra, _] => some (.ctxmem c (.ofNat _ sp) (.ofNat _ rd) (.ofNat _ ra)) | _ => none) := rfl
  simp only [e, hu, BitVec.ofNat_toNat, BitVec.setWidth_eq]
theorem ctxq (c : Ctl) (sp : BitVec 4) (rd : BitVec 6) (ra : BitVec 6) : Statement (.ctxq c sp rd ra) := fun _ sl hsl => by
  obtain rfl := List.mem_singleton.1 hsl
  have hf : fits [(4, sp.toNat), (6, rd.toNat), (6, ra.toNat), (4, 0)] = true := fits_bv _ (fits_bv _ (fits_bv _ (fits_num (by decide) fits_nil)))
  refine of_raw (s₀ := .s) rfl ((raw_packS c (op := 0x4C) (by decide) hf rfl).trans ?_)
  have hu := unpack_pack hf
  simp only [List.map_cons, List.map_nil] at hu
  have e (w : Nat) : rawS c 0x4C w = (match unpack [4, 6, 6, 4] w with | [sp, rd, ra, _] => some (.ctxq c (.ofNat _ sp) (.ofNat _ rd) (.ofNat _ ra)) | _ => none) := rfl
  simp only [e, hu, BitVec.ofNat_toNat, BitVec.setWidth_eq]
theorem ctxbud (c : Ctl) (sp : BitVec 4) (rd : BitVec 6) (ra : BitVec 6) : Statement (.ctxbud c sp rd ra) := fun _ sl hsl => by
  obtain rfl := List.mem_singleton.1 hsl
  have hf : fits [(4, sp.toNat), (6, rd.toNat), (6, ra.toNat), (4, 0)] = true := fits_bv _ (fits_bv _ (fits_bv _ (fits_num (by decide) fits_nil)))
  refine of_raw (s₀ := .s) rfl ((raw_packS c (op := 0x4D) (by decide) hf rfl).trans ?_)
  have hu := unpack_pack hf
  simp only [List.map_cons, List.map_nil] at hu
  have e (w : Nat) : rawS c 0x4D w = (match unpack [4, 6, 6, 4] w with | [sp, rd, ra, _] => some (.ctxbud c (.ofNat _ sp) (.ofNat _ rd) (.ofNat _ ra)) | _ => none) := rfl
  simp only [e, hu, BitVec.ofNat_toNat, BitVec.setWidth_eq]
theorem ctxrunRun (c : Ctl) (rd : BitVec 6) (ra : BitVec 6) (rb : BitVec 6) : Statement (.ctxrunRun c rd ra rb) := fun _ sl hsl => by
  obtain rfl := List.mem_singleton.1 hsl
  have hf : fits [(6, rd.toNat), (6, ra.toNat), (6, rb.toNat), (2, 0)] = true := fits_bv _ (fits_bv _ (fits_bv _ (fits_num (by decide) fits_nil)))
  refine of_raw (s₀ := .s) rfl ((raw_packS c (op := 0x4E) (by decide) hf rfl).trans ?_)
  have hu := unpack_pack hf
  simp only [List.map_cons, List.map_nil] at hu
  have e (w : Nat) : rawS c 0x4E w = (match unpack [6, 6, 6, 2] w with | [rd, ra, rb, _] => some (.ctxrunRun c (.ofNat _ rd) (.ofNat _ ra) (.ofNat _ rb)) | _ => none) := rfl
  simp only [e, hu, BitVec.ofNat_toNat, BitVec.setWidth_eq]
theorem ctxrunRetry (c : Ctl) (rd : BitVec 6) (ra : BitVec 6) (rb : BitVec 6) : Statement (.ctxrunRetry c rd ra rb) := fun h => nomatch h
theorem ctxrunRefuse (c : Ctl) (rd : BitVec 6) (ra : BitVec 6) (rb : BitVec 6) : Statement (.ctxrunRefuse c rd ra rb) := fun h => nomatch h
theorem ctxrunSkip (c : Ctl) (rd : BitVec 6) (ra : BitVec 6) (rb : BitVec 6) : Statement (.ctxrunSkip c rd ra rb) := fun h => nomatch h
theorem ctxstop (c : Ctl) (sp : BitVec 4) (rd : BitVec 6) (ra : BitVec 6) : Statement (.ctxstop c sp rd ra) := fun _ sl hsl => by
  obtain rfl := List.mem_singleton.1 hsl
  have hf : fits [(4, sp.toNat), (6, rd.toNat), (6, ra.toNat), (4, 0)] = true := fits_bv _ (fits_bv _ (fits_bv _ (fits_num (by decide) fits_nil)))
  refine of_raw (s₀ := .s) rfl ((raw_packS c (op := 0x4F) (by decide) hf rfl).trans ?_)
  have hu := unpack_pack hf
  simp only [List.map_cons, List.map_nil] at hu
  have e (w : Nat) : rawS c 0x4F w = (match unpack [4, 6, 6, 4] w with | [sp, rd, ra, _] => some (.ctxstop c (.ofNat _ sp) (.ofNat _ rd) (.ofNat _ ra)) | _ => none) := rfl
  simp only [e, hu, BitVec.ofNat_toNat, BitVec.setWidth_eq]
theorem ctxrev (c : Ctl) (rd : BitVec 6) (ra : BitVec 6) : Statement (.ctxrev c rd ra) := fun _ sl hsl => by
  obtain rfl := List.mem_singleton.1 hsl
  have hf : fits [(6, rd.toNat), (6, ra.toNat), (8, 0)] = true := fits_bv _ (fits_bv _ (fits_num (by decide) fits_nil))
  refine of_raw (s₀ := .s) rfl ((raw_packS c (op := 0x50) (by decide) hf rfl).trans ?_)
  have hu := unpack_pack hf
  simp only [List.map_cons, List.map_nil] at hu
  have e (w : Nat) : rawS c 0x50 w = (match unpack [6, 6, 8] w with | [rd, ra, _] => some (.ctxrev c (.ofNat _ rd) (.ofNat _ ra)) | _ => none) := rfl
  simp only [e, hu, BitVec.ofNat_toNat, BitVec.setWidth_eq]
theorem ctxdlg (c : Ctl) (rd : BitVec 6) (ra : BitVec 6) (rb : BitVec 6) : Statement (.ctxdlg c rd ra rb) := fun _ sl hsl => by
  obtain rfl := List.mem_singleton.1 hsl
  have hf : fits [(6, rd.toNat), (6, ra.toNat), (6, rb.toNat), (2, 0)] = true := fits_bv _ (fits_bv _ (fits_bv _ (fits_num (by decide) fits_nil)))
  refine of_raw (s₀ := .s) rfl ((raw_packS c (op := 0x51) (by decide) hf rfl).trans ?_)
  have hu := unpack_pack hf
  simp only [List.map_cons, List.map_nil] at hu
  have e (w : Nat) : rawS c 0x51 w = (match unpack [6, 6, 6, 2] w with | [rd, ra, rb, _] => some (.ctxdlg c (.ofNat _ rd) (.ofNat _ ra) (.ofNat _ rb)) | _ => none) := rfl
  simp only [e, hu, BitVec.ofNat_toNat, BitVec.setWidth_eq]
theorem ctxrd (c : Ctl) (rd : BitVec 6) (ra : BitVec 6) (rb : BitVec 6) : Statement (.ctxrd c rd ra rb) := fun _ sl hsl => by
  obtain rfl := List.mem_singleton.1 hsl
  have hf : fits [(6, rd.toNat), (6, ra.toNat), (6, rb.toNat), (2, 0)] = true := fits_bv _ (fits_bv _ (fits_bv _ (fits_num (by decide) fits_nil)))
  refine of_raw (s₀ := .s) rfl ((raw_packS c (op := 0x52) (by decide) hf rfl).trans ?_)
  have hu := unpack_pack hf
  simp only [List.map_cons, List.map_nil] at hu
  have e (w : Nat) : rawS c 0x52 w = (match unpack [6, 6, 6, 2] w with | [rd, ra, rb, _] => some (.ctxrd c (.ofNat _ rd) (.ofNat _ ra) (.ofNat _ rb)) | _ => none) := rfl
  simp only [e, hu, BitVec.ofNat_toNat, BitVec.setWidth_eq]
theorem ctxsaveSave (c : Ctl) (sp : BitVec 4) (rd : BitVec 6) (ra : BitVec 6) : Statement (.ctxsaveSave c sp rd ra) := fun _ sl hsl => by
  obtain rfl := List.mem_singleton.1 hsl
  have hf : fits [(4, sp.toNat), (6, rd.toNat), (6, ra.toNat), (4, 0)] = true := fits_bv _ (fits_bv _ (fits_bv _ (fits_num (by decide) fits_nil)))
  refine of_raw (s₀ := .s) rfl ((raw_packS c (op := 0x53) (by decide) hf rfl).trans ?_)
  have hu := unpack_pack hf
  simp only [List.map_cons, List.map_nil] at hu
  have e (w : Nat) : rawS c 0x53 w = (match unpack [4, 6, 6, 4] w with | [sp, rd, ra, _] => some (.ctxsaveSave c (.ofNat _ sp) (.ofNat _ rd) (.ofNat _ ra)) | _ => none) := rfl
  simp only [e, hu, BitVec.ofNat_toNat, BitVec.setWidth_eq]
theorem ctxsaveRestore (c : Ctl) (sp : BitVec 4) (rd : BitVec 6) (ra : BitVec 6) : Statement (.ctxsaveRestore c sp rd ra) := fun h => nomatch h
theorem shoot (c : Ctl) (rd : BitVec 6) (ra : BitVec 6) (rb : BitVec 6) : Statement (.shoot c rd ra rb) := fun _ sl hsl => by
  obtain rfl := List.mem_singleton.1 hsl
  have hf : fits [(6, rd.toNat), (6, ra.toNat), (6, rb.toNat), (2, 0)] = true := fits_bv _ (fits_bv _ (fits_bv _ (fits_num (by decide) fits_nil)))
  refine of_raw (s₀ := .s) rfl ((raw_packS c (op := 0x54) (by decide) hf rfl).trans ?_)
  have hu := unpack_pack hf
  simp only [List.map_cons, List.map_nil] at hu
  have e (w : Nat) : rawS c 0x54 w = (match unpack [6, 6, 6, 2] w with | [rd, ra, rb, _] => some (.shoot c (.ofNat _ rd) (.ofNat _ ra) (.ofNat _ rb)) | _ => none) := rfl
  simp only [e, hu, BitVec.ofNat_toNat, BitVec.setWidth_eq]
theorem trap (c : Ctl) (n : BitVec 5) : Statement (.trap c n) := fun _ sl hsl => by
  obtain rfl := List.mem_singleton.1 hsl
  have hf : fits [(15, 0), (5, n.toNat)] = true := fits_num (by decide) (fits_bv _ fits_nil)
  refine of_raw (s₀ := .s) rfl ((raw_packS c (op := 0x58) (by decide) hf rfl).trans ?_)
  have hu := unpack_pack hf
  simp only [List.map_cons, List.map_nil] at hu
  have e (w : Nat) : rawS c 0x58 w = (match unpack [15, 5] w with | [_, n] => some (.trap c (.ofNat _ n)) | _ => none) := rfl
  simp only [e, hu, BitVec.ofNat_toNat, BitVec.setWidth_eq]
theorem eret (c : Ctl) : Statement (.eret c) := fun _ sl hsl => by
  obtain rfl := List.mem_singleton.1 hsl
  have hf : fits [(20, 0)] = true := fits_num (by decide) fits_nil
  refine of_raw (s₀ := .s) rfl ((raw_packS c (op := 0x59) (by decide) hf rfl).trans ?_)
  have hu := unpack_pack hf
  simp only [List.map_cons, List.map_nil] at hu
  have e (w : Nat) : rawS c 0x59 w = (match unpack [20] w with | [_] => some (.eret c) | _ => none) := rfl
  simp only [e, hu]
theorem sysrd (c : Ctl) (rd : BitVec 6) (num : BitVec 14) : Statement (.sysrd c rd num) := fun _ sl hsl => by
  obtain rfl := List.mem_singleton.1 hsl
  have hf : fits [(6, rd.toNat), (14, num.toNat)] = true := fits_bv _ (fits_bv _ fits_nil)
  refine of_raw (s₀ := .s) rfl ((raw_packS c (op := 0x5A) (by decide) hf rfl).trans ?_)
  have hu := unpack_pack hf
  simp only [List.map_cons, List.map_nil] at hu
  have e (w : Nat) : rawS c 0x5A w = (match unpack [6, 14] w with | [rd, num] => some (.sysrd c (.ofNat _ rd) (.ofNat _ num)) | _ => none) := rfl
  simp only [e, hu, BitVec.ofNat_toNat, BitVec.setWidth_eq]
theorem syswr (c : Ctl) (rb : BitVec 6) (num : BitVec 14) : Statement (.syswr c rb num) := fun _ sl hsl => by
  obtain rfl := List.mem_singleton.1 hsl
  have hf : fits [(6, rb.toNat), (14, num.toNat)] = true := fits_bv _ (fits_bv _ fits_nil)
  refine of_raw (s₀ := .s) rfl ((raw_packS c (op := 0x5B) (by decide) hf rfl).trans ?_)
  have hu := unpack_pack hf
  simp only [List.map_cons, List.map_nil] at hu
  have e (w : Nat) : rawS c 0x5B w = (match unpack [6, 14] w with | [rb, num] => some (.syswr c (.ofNat _ rb) (.ofNat _ num)) | _ => none) := rfl
  simp only [e, hu, BitVec.ofNat_toNat, BitVec.setWidth_eq]
theorem pwracq (c : Ctl) (ra : BitVec 6) : Statement (.pwracq c ra) := fun _ sl hsl => by
  obtain rfl := List.mem_singleton.1 hsl
  have hf : fits [(6, ra.toNat), (14, 0)] = true := fits_bv _ (fits_num (by decide) fits_nil)
  refine of_raw (s₀ := .s) rfl ((raw_packS c (op := 0x5C) (by decide) hf rfl).trans ?_)
  have hu := unpack_pack hf
  simp only [List.map_cons, List.map_nil] at hu
  have e (w : Nat) : rawS c 0x5C w = (match unpack [6, 14] w with | [ra, _] => some (.pwracq c (.ofNat _ ra)) | _ => none) := rfl
  simp only [e, hu, BitVec.ofNat_toNat, BitVec.setWidth_eq]
theorem pwrrel (c : Ctl) : Statement (.pwrrel c) := fun _ sl hsl => by
  obtain rfl := List.mem_singleton.1 hsl
  have hf : fits [(20, 0)] = true := fits_num (by decide) fits_nil
  refine of_raw (s₀ := .s) rfl ((raw_packS c (op := 0x5D) (by decide) hf rfl).trans ?_)
  have hu := unpack_pack hf
  simp only [List.map_cons, List.map_nil] at hu
  have e (w : Nat) : rawS c 0x5D w = (match unpack [20] w with | [_] => some (.pwrrel c) | _ => none) := rfl
  simp only [e, hu]
theorem feat (c : Ctl) (rd : BitVec 6) (w : BitVec 2) : Statement (.feat c rd w) := fun _ sl hsl => by
  obtain rfl := List.mem_singleton.1 hsl
  have hf : fits [(6, rd.toNat), (2, w.toNat), (12, 0)] = true := fits_bv _ (fits_bv _ (fits_num (by decide) fits_nil))
  refine of_raw (s₀ := .s) rfl ((raw_packS c (op := 0x5E) (by decide) hf rfl).trans ?_)
  have hu := unpack_pack hf
  simp only [List.map_cons, List.map_nil] at hu
  have e (w : Nat) : rawS c 0x5E w = (match unpack [6, 2, 12] w with | [rd, k, _] => some (.feat c (.ofNat _ rd) (.ofNat _ k)) | _ => none) := rfl
  simp only [e, hu, BitVec.ofNat_toNat, BitVec.setWidth_eq]
theorem cyc (c : Ctl) (rd : BitVec 6) (k : Bool) : Statement (.cyc c rd k) := fun _ sl hsl => by
  obtain rfl := List.mem_singleton.1 hsl
  have hf : fits [(6, rd.toNat), (1, k.toNat), (13, 0)] = true := fits_bv _ (fits_bool _ (fits_num (by decide) fits_nil))
  refine of_raw (s₀ := .s) rfl ((raw_packS c (op := 0x5F) (by decide) hf rfl).trans ?_)
  have hu := unpack_pack hf
  simp only [List.map_cons, List.map_nil] at hu
  have e (w : Nat) : rawS c 0x5F w = (match unpack [6, 1, 13] w with | [rd, k, _] => some (.cyc c (.ofNat _ rd) (bit k)) | _ => none) := rfl
  simp only [e, hu, bit_toNat, BitVec.ofNat_toNat, BitVec.setWidth_eq]
theorem tbase (c : Ctl) (ra : BitVec 6) : Statement (.tbase c ra) := fun _ sl hsl => by
  obtain rfl := List.mem_singleton.1 hsl
  have hf : fits [(6, ra.toNat), (14, 0)] = true := fits_bv _ (fits_num (by decide) fits_nil)
  refine of_raw (s₀ := .s) rfl ((raw_packS c (op := 0x60) (by decide) hf rfl).trans ?_)
  have hu := unpack_pack hf
  simp only [List.map_cons, List.map_nil] at hu
  have e (w : Nat) : rawS c 0x60 w = (match unpack [6, 14] w with | [ra, _] => some (.tbase c (.ofNat _ ra)) | _ => none) := rfl
  simp only [e, hu, BitVec.ofNat_toNat, BitVec.setWidth_eq]
theorem halt (c : Ctl) : Statement (.halt c) := fun _ sl hsl => by
  obtain rfl := List.mem_singleton.1 hsl
  have hf : fits [(20, 0)] = true := fits_num (by decide) fits_nil
  refine of_raw (s₀ := .s) rfl ((raw_packS c (op := 0x61) (by decide) hf rfl).trans ?_)
  have hu := unpack_pack hf
  simp only [List.map_cons, List.map_nil] at hu
  have e (w : Nat) : rawS c 0x61 w = (match unpack [20] w with | [_] => some (.halt c) | _ => none) := rfl
  simp only [e, hu]
theorem brk (c : Ctl) (code : BitVec 8) : Statement (.brk c code) := fun _ sl hsl => by
  obtain rfl := List.mem_singleton.1 hsl
  have hf : fits [(12, 0), (8, code.toNat)] = true := fits_num (by decide) (fits_bv _ fits_nil)
  refine of_raw (s₀ := .s) rfl ((raw_packS c (op := 0x62) (by decide) hf rfl).trans ?_)
  have hu := unpack_pack hf
  simp only [List.map_cons, List.map_nil] at hu
  have e (w : Nat) : rawS c 0x62 w = (match unpack [12, 8] w with | [_, code] => some (.brk c (.ofNat _ code)) | _ => none) := rfl
  simp only [e, hu, BitVec.ofNat_toNat, BitVec.setWidth_eq]
theorem mcld (c : Ctl) (rd : BitVec 6) (ra : BitVec 6) : Statement (.mcld c rd ra) := fun _ sl hsl => by
  obtain rfl := List.mem_singleton.1 hsl
  have hf : fits [(6, rd.toNat), (6, ra.toNat), (8, 0)] = true := fits_bv _ (fits_bv _ (fits_num (by decide) fits_nil))
  refine of_raw (s₀ := .s) rfl ((raw_packS c (op := 0x63) (by decide) hf rfl).trans ?_)
  have hu := unpack_pack hf
  simp only [List.map_cons, List.map_nil] at hu
  have e (w : Nat) : rawS c 0x63 w = (match unpack [6, 6, 8] w with | [rd, ra, _] => some (.mcld c (.ofNat _ rd) (.ofNat _ ra)) | _ => none) := rfl
  simp only [e, hu, BitVec.ofNat_toNat, BitVec.setWidth_eq]
theorem microcodeS (c : Ctl) (ent : BitVec 4) (arg : BitVec 20) : Statement (.microcodeS c ent arg) := fun _ sl hsl => by
  obtain rfl := List.mem_singleton.1 hsl
  have hf : fits [(20, arg.toNat)] = true := fits_bv _ fits_nil
  refine of_raw (s₀ := .s) rfl ((raw_packS c (op := 0x70 + ent.toNat) (by have := ent.isLt; omega) hf rfl).trans ?_)
  have h (w : Nat) : ∀ k < 16, rawS c (0x70 + k) w = some (.microcodeS c (.ofNat _ k) (.ofNat _ w)) := by
    intro k hk
    iterate 16 (rcases k with _ | k; · rfl)
    omega
  have h4 : pack [(20, arg.toNat)] = arg.toNat := by simp [pack, widthOf]
  rw [h _ _ ent.isLt, h4, BitVec.ofNat_toNat, BitVec.setWidth_eq, BitVec.ofNat_toNat, BitVec.setWidth_eq]
theorem ld (c : Ctl) (rs : BitVec 6) (ar : BitVec 5) (fmt : BitVec 3) (ofs : BitVec 8) : Statement (.ld c rs ar fmt ofs) := fun _ sl hsl => by
  obtain rfl := List.mem_singleton.1 hsl
  have hf : fits [(6, rs.toNat), (5, ar.toNat), (3, fmt.toNat), (8, ofs.toNat)] = true := fits_bv _ (fits_bv _ (fits_bv _ (fits_bv _ fits_nil)))
  refine of_raw (s₀ := .l) rfl ((raw_packL c (op := 0x00) (.inl rfl) (by decide) hf rfl).trans ?_)
  have hu := unpack_pack hf
  simp only [List.map_cons, List.map_nil] at hu
  have e (w : Nat) : rawL c 0x00 w = (match unpack [6, 5, 3, 8] w with | [rs, ar, fmt, ofs] => some (.ld c (.ofNat _ rs) (.ofNat _ ar) (.ofNat _ fmt) (.ofNat _ ofs)) | _ => none) := rfl
  simp only [e, hu, BitVec.ofNat_toNat, BitVec.setWidth_eq]
theorem st (c : Ctl) (rs : BitVec 6) (ar : BitVec 5) (sz : BitVec 2) (ofs : BitVec 8) : Statement (.st c rs ar sz ofs) := fun _ sl hsl => by
  obtain rfl := List.mem_singleton.1 hsl
  have hf : fits [(6, rs.toNat), (5, ar.toNat), (2, sz.toNat), (1, 0), (8, ofs.toNat)] = true := fits_bv _ (fits_bv _ (fits_bv _ (fits_num (by decide) (fits_bv _ fits_nil))))
  refine of_raw (s₀ := .w) rfl ((raw_packL c (op := 0x01) (.inr rfl) (by decide) hf rfl).trans ?_)
  have hu := unpack_pack hf
  simp only [List.map_cons, List.map_nil] at hu
  have e (w : Nat) : rawL c 0x01 w = (match unpack [6, 5, 2, 1, 8] w with | [rs, ar, sz, _, ofs] => some (.st c (.ofNat _ rs) (.ofNat _ ar) (.ofNat _ sz) (.ofNat _ ofs)) | _ => none) := rfl
  simp only [e, hu, BitVec.ofNat_toNat, BitVec.setWidth_eq]
theorem ldv (c : Ctl) (vc : Bool) (vr : BitVec 11) (ar : BitVec 5) (ofs : BitVec 5) : Statement (.ldv c vc vr ar ofs) := fun _ sl hsl => by
  obtain rfl := List.mem_singleton.1 hsl
  have hf : fits [(1, vc.toNat), (11, vr.toNat), (5, ar.toNat), (5, ofs.toNat)] = true := fits_bool _ (fits_bv _ (fits_bv _ (fits_bv _ fits_nil)))
  refine of_raw (s₀ := .l) rfl ((raw_packL c (op := 0x02) (.inl rfl) (by decide) hf rfl).trans ?_)
  have hu := unpack_pack hf
  simp only [List.map_cons, List.map_nil] at hu
  have e (w : Nat) : rawL c 0x02 w = (match unpack [1, 11, 5, 5] w with | [vc, vr, ar, ofs] => some (.ldv c (bit vc) (.ofNat _ vr) (.ofNat _ ar) (.ofNat _ ofs)) | _ => none) := rfl
  simp only [e, hu, bit_toNat, BitVec.ofNat_toNat, BitVec.setWidth_eq]
theorem stv (c : Ctl) (vc : Bool) (vr : BitVec 11) (ar : BitVec 5) (ofs : BitVec 5) : Statement (.stv c vc vr ar ofs) := fun _ sl hsl => by
  obtain rfl := List.mem_singleton.1 hsl
  have hf : fits [(1, vc.toNat), (11, vr.toNat), (5, ar.toNat), (5, ofs.toNat)] = true := fits_bool _ (fits_bv _ (fits_bv _ (fits_bv _ fits_nil)))
  refine of_raw (s₀ := .w) rfl ((raw_packL c (op := 0x03) (.inr rfl) (by decide) hf rfl).trans ?_)
  have hu := unpack_pack hf
  simp only [List.map_cons, List.map_nil] at hu
  have e (w : Nat) : rawL c 0x03 w = (match unpack [1, 11, 5, 5] w with | [vc, vr, ar, ofs] => some (.stv c (bit vc) (.ofNat _ vr) (.ofNat _ ar) (.ofNat _ ofs)) | _ => none) := rfl
  simp only [e, hu, bit_toNat, BitVec.ofNat_toNat, BitVec.setWidth_eq]
theorem gath (c : Ctl) (vc : Bool) (vr : BitVec 11) (ar : BitVec 5) (ew : BitVec 2) (sg : Bool) : Statement (.gath c vc vr ar ew sg) := fun _ sl hsl => by
  obtain rfl := List.mem_singleton.1 hsl
  have hf : fits [(1, vc.toNat), (11, vr.toNat), (5, ar.toNat), (2, ew.toNat), (1, sg.toNat), (2, 0)] = true := fits_bool _ (fits_bv _ (fits_bv _ (fits_bv _ (fits_bool _ (fits_num (by decide) fits_nil)))))
  refine of_raw (s₀ := .l) rfl ((raw_packL c (op := 0x04) (.inl rfl) (by decide) hf rfl).trans ?_)
  have hu := unpack_pack hf
  simp only [List.map_cons, List.map_nil] at hu
  have e (w : Nat) : rawL c 0x04 w = (match unpack [1, 11, 5, 2, 1, 2] w with | [vc, vr, ar, ew, sg, _] => some (.gath c (bit vc) (.ofNat _ vr) (.ofNat _ ar) (.ofNat _ ew) (bit sg)) | _ => none) := rfl
  simp only [e, hu, bit_toNat, BitVec.ofNat_toNat, BitVec.setWidth_eq]
theorem scat (c : Ctl) (vc : Bool) (vr : BitVec 11) (ar : BitVec 5) (ew : BitVec 2) : Statement (.scat c vc vr ar ew) := fun _ sl hsl => by
  obtain rfl := List.mem_singleton.1 hsl
  have hf : fits [(1, vc.toNat), (11, vr.toNat), (5, ar.toNat), (2, ew.toNat), (3, 0)] = true := fits_bool _ (fits_bv _ (fits_bv _ (fits_bv _ (fits_num (by decide) fits_nil))))
  refine of_raw (s₀ := .w) rfl ((raw_packL c (op := 0x05) (.inr rfl) (by decide) hf rfl).trans ?_)
  have hu := unpack_pack hf
  simp only [List.map_cons, List.map_nil] at hu
  have e (w : Nat) : rawL c 0x05 w = (match unpack [1, 11, 5, 2, 3] w with | [vc, vr, ar, ew, _] => some (.scat c (bit vc) (.ofNat _ vr) (.ofNat _ ar) (.ofNat _ ew)) | _ => none) := rfl
  simp only [e, hu, bit_toNat, BitVec.ofNat_toNat, BitVec.setWidth_eq]
theorem spld (c : Ctl) (rs : BitVec 6) (off : BitVec 11) : Statement (.spld c rs off) := fun _ sl hsl => by
  obtain rfl := List.mem_singleton.1 hsl
  have hf : fits [(6, rs.toNat), (11, off.toNat), (5, 0)] = true := fits_bv _ (fits_bv _ (fits_num (by decide) fits_nil))
  refine of_raw (s₀ := .l) rfl ((raw_packL c (op := 0x06) (.inl rfl) (by decide) hf rfl).trans ?_)
  have hu := unpack_pack hf
  simp only [List.map_cons, List.map_nil] at hu
  have e (w : Nat) : rawL c 0x06 w = (match unpack [6, 11, 5] w with | [rs, off, _] => some (.spld c (.ofNat _ rs) (.ofNat _ off)) | _ => none) := rfl
  simp only [e, hu, BitVec.ofNat_toNat, BitVec.setWidth_eq]
theorem spst (c : Ctl) (rs : BitVec 6) (off : BitVec 11) : Statement (.spst c rs off) := fun _ sl hsl => by
  obtain rfl := List.mem_singleton.1 hsl
  have hf : fits [(6, rs.toNat), (11, off.toNat), (5, 0)] = true := fits_bv _ (fits_bv _ (fits_num (by decide) fits_nil))
  refine of_raw (s₀ := .w) rfl ((raw_packL c (op := 0x07) (.inr rfl) (by decide) hf rfl).trans ?_)
  have hu := unpack_pack hf
  simp only [List.map_cons, List.map_nil] at hu
  have e (w : Nat) : rawL c 0x07 w = (match unpack [6, 11, 5] w with | [rs, off, _] => some (.spst c (.ofNat _ rs) (.ofNat _ off)) | _ => none) := rfl
  simp only [e, hu, BitVec.ofNat_toNat, BitVec.setWidth_eq]
theorem fld (c : Ctl) (rs : BitVec 6) (ar : BitVec 5) (fmt : BitVec 3) (arr : BitVec 8) : Statement (.fld c rs ar fmt arr) := fun _ sl hsl => by
  obtain rfl := List.mem_singleton.1 hsl
  have hf : fits [(6, rs.toNat), (5, ar.toNat), (3, fmt.toNat), (8, arr.toNat)] = true := fits_bv _ (fits_bv _ (fits_bv _ (fits_bv _ fits_nil)))
  refine of_raw (s₀ := .l) rfl ((raw_packL c (op := 0x08) (.inl rfl) (by decide) hf rfl).trans ?_)
  have hu := unpack_pack hf
  simp only [List.map_cons, List.map_nil] at hu
  have e (w : Nat) : rawL c 0x08 w = (match unpack [6, 5, 3, 8] w with | [rs, ar, fmt, arr] => some (.fld c (.ofNat _ rs) (.ofNat _ ar) (.ofNat _ fmt) (.ofNat _ arr)) | _ => none) := rfl
  simp only [e, hu, BitVec.ofNat_toNat, BitVec.setWidth_eq]
theorem fldv (c : Ctl) (vc : Bool) (vr : BitVec 11) (ar : BitVec 5) (arr : BitVec 5) : Statement (.fldv c vc vr ar arr) := fun _ sl hsl => by
  obtain rfl := List.mem_singleton.1 hsl
  have hf : fits [(1, vc.toNat), (11, vr.toNat), (5, ar.toNat), (5, arr.toNat)] = true := fits_bool _ (fits_bv _ (fits_bv _ (fits_bv _ fits_nil)))
  refine of_raw (s₀ := .l) rfl ((raw_packL c (op := 0x09) (.inl rfl) (by decide) hf rfl).trans ?_)
  have hu := unpack_pack hf
  simp only [List.map_cons, List.map_nil] at hu
  have e (w : Nat) : rawL c 0x09 w = (match unpack [1, 11, 5, 5] w with | [vc, vr, ar, arr] => some (.fldv c (bit vc) (.ofNat _ vr) (.ofNat _ ar) (.ofNat _ arr)) | _ => none) := rfl
  simp only [e, hu, bit_toNat, BitVec.ofNat_toNat, BitVec.setWidth_eq]
theorem cbrdVector (c : Ctl) (vc : Bool) (vr : BitVec 11) (cb : BitVec 3) (off : BitVec 6) : Statement (.cbrdVector c vc vr cb off) := fun _ sl hsl => by
  obtain rfl := List.mem_singleton.1 hsl
  have hf : fits [(1, vc.toNat), (11, vr.toNat), (3, cb.toNat), (1, 0), (6, off.toNat)] = true := fits_bool _ (fits_bv _ (fits_bv _ (fits_num (by decide) (fits_bv _ fits_nil))))
  refine of_raw (s₀ := .l) rfl ((raw_packL c (op := 0x0A) (.inl rfl) (by decide) hf rfl).trans ?_)
  have hb : (pack [(1, vc.toNat), (11, vr.toNat), (3, cb.toNat), (1, 0), (6, off.toNat)]).testBit 6 = false := testBit_pack (fs := [(1, vc.toNat), (11, vr.toNat), (3, cb.toNat)]) (gs := [(6, off.toNat)]) (b := 0) rfl rfl (fits_bv _ fits_nil) (by decide) rfl
  have hu := unpack_pack hf
  simp only [List.map_cons, List.map_nil] at hu
  have e (w : Nat) : rawL c 0x0A w = if w.testBit 6 then (match unpack [5, 1, 6, 3, 1, 6] w with | [ar, tl, _, cb, _, _] => some (.cbrdAddress c (.ofNat _ ar) (bit tl) (.ofNat _ cb)) | _ => none) else (match unpack [1, 11, 3, 1, 6] w with | [vc, vr, cb, _, off] => some (.cbrdVector c (bit vc) (.ofNat _ vr) (.ofNat _ cb) (.ofNat _ off)) | _ => none) := rfl
  simp only [e, hu, hb, ↓reduceIte, Bool.false_eq_true, bit_toNat, BitVec.ofNat_toNat, BitVec.setWidth_eq]
theorem cbrdAddress (c : Ctl) (ar : BitVec 5) (tl : Bool) (cb : BitVec 3) : Statement (.cbrdAddress c ar tl cb) := fun _ sl hsl => by
  obtain rfl := List.mem_singleton.1 hsl
  have hf : fits [(5, ar.toNat), (1, tl.toNat), (6, 0), (3, cb.toNat), (1, 1), (6, 0)] = true := fits_bv _ (fits_bool _ (fits_num (by decide) (fits_bv _ (fits_num (by decide) (fits_num (by decide) fits_nil)))))
  refine of_raw (s₀ := .l) rfl ((raw_packL c (op := 0x0A) (.inl rfl) (by decide) hf rfl).trans ?_)
  have hb : (pack [(5, ar.toNat), (1, tl.toNat), (6, 0), (3, cb.toNat), (1, 1), (6, 0)]).testBit 6 = true := testBit_pack (fs := [(5, ar.toNat), (1, tl.toNat), (6, 0), (3, cb.toNat)]) (gs := [(6, 0)]) (b := 1) rfl rfl (fits_num (by decide) fits_nil) (by decide) rfl
  have hu := unpack_pack hf
  simp only [List.map_cons, List.map_nil] at hu
  have e (w : Nat) : rawL c 0x0A w = if w.testBit 6 then (match unpack [5, 1, 6, 3, 1, 6] w with | [ar, tl, _, cb, _, _] => some (.cbrdAddress c (.ofNat _ ar) (bit tl) (.ofNat _ cb)) | _ => none) else (match unpack [1, 11, 3, 1, 6] w with | [vc, vr, cb, _, off] => some (.cbrdVector c (bit vc) (.ofNat _ vr) (.ofNat _ cb) (.ofNat _ off)) | _ => none) := rfl
  simp only [e, hu, hb, ↓reduceIte, bit_toNat, BitVec.ofNat_toNat, BitVec.setWidth_eq]
theorem cbrel (c : Ctl) (cb : BitVec 3) : Statement (.cbrel c cb) := fun _ sl hsl => by
  have hf : fits [(12, 0), (3, cb.toNat), (7, 0)] = true := fits_num (by decide) (fits_bv _ (fits_num (by decide) fits_nil))
  refine of_raw (s₀ := .l) rfl ((raw_packL c (op := 0x0B) (by simpa [Instr.slots] using hsl) (by decide) hf rfl).trans ?_)
  have hu := unpack_pack hf
  simp only [List.map_cons, List.map_nil] at hu
  have e (w : Nat) : rawL c 0x0B w = (match unpack [12, 3, 7] w with | [_, cb, _] => some (.cbrel c (.ofNat _ cb)) | _ => none) := rfl
  simp only [e, hu, BitVec.ofNat_toNat, BitVec.setWidth_eq]
theorem adrsetImm (c : Ctl) (ar : BitVec 5) (imm : BitVec 16) : Statement (.adrsetImm c ar imm) := fun _ sl hsl => by
  have hf : fits [(5, ar.toNat), (1, 1), (16, imm.toNat)] = true := fits_bv _ (fits_num (by decide) (fits_bv _ fits_nil))
  refine of_raw (s₀ := .l) rfl ((raw_packL c (op := 0x0C) (by simpa [Instr.slots] using hsl) (by decide) hf rfl).trans ?_)
  have hb : (pack [(5, ar.toNat), (1, 1), (16, imm.toNat)]).testBit 16 = true := testBit_pack (fs := [(5, ar.toNat)]) (gs := [(16, imm.toNat)]) (b := 1) rfl rfl (fits_bv _ fits_nil) (by decide) rfl
  have hu := unpack_pack hf
  simp only [List.map_cons, List.map_nil] at hu
  have e (w : Nat) : rawL c 0x0C w = if w.testBit 16 then (match unpack [5, 1, 16] w with | [ar, _, imm] => some (.adrsetImm c (.ofNat _ ar) (.ofNat _ imm)) | _ => none) else (match unpack [5, 1, 6, 10] w with | [ar, _, rs, _] => some (.adrsetReg c (.ofNat _ ar) (.ofNat _ rs)) | _ => none) := rfl
  simp only [e, hu, hb, ↓reduceIte, BitVec.ofNat_toNat, BitVec.setWidth_eq]
theorem adrsetReg (c : Ctl) (ar : BitVec 5) (rs : BitVec 6) : Statement (.adrsetReg c ar rs) := fun _ sl hsl => by
  have hf : fits [(5, ar.toNat), (1, 0), (6, rs.toNat), (10, 0)] = true := fits_bv _ (fits_num (by decide) (fits_bv _ (fits_num (by decide) fits_nil)))
  refine of_raw (s₀ := .l) rfl ((raw_packL c (op := 0x0C) (by simpa [Instr.slots] using hsl) (by decide) hf rfl).trans ?_)
  have hb : (pack [(5, ar.toNat), (1, 0), (6, rs.toNat), (10, 0)]).testBit 16 = false := testBit_pack (fs := [(5, ar.toNat)]) (gs := [(6, rs.toNat), (10, 0)]) (b := 0) rfl rfl (fits_bv _ (fits_num (by decide) fits_nil)) (by decide) rfl
  have hu := unpack_pack hf
  simp only [List.map_cons, List.map_nil] at hu
  have e (w : Nat) : rawL c 0x0C w = if w.testBit 16 then (match unpack [5, 1, 16] w with | [ar, _, imm] => some (.adrsetImm c (.ofNat _ ar) (.ofNat _ imm)) | _ => none) else (match unpack [5, 1, 6, 10] w with | [ar, _, rs, _] => some (.adrsetReg c (.ofNat _ ar) (.ofNat _ rs)) | _ => none) := rfl
  simp only [e, hu, hb, ↓reduceIte, Bool.false_eq_true, BitVec.ofNat_toNat, BitVec.setWidth_eq]
theorem adraddImm (c : Ctl) (ar : BitVec 5) (imm : BitVec 16) : Statement (.adraddImm c ar imm) := fun _ sl hsl => by
  have hf : fits [(5, ar.toNat), (1, 1), (16, imm.toNat)] = true := fits_bv _ (fits_num (by decide) (fits_bv _ fits_nil))
  refine of_raw (s₀ := .l) rfl ((raw_packL c (op := 0x0D) (by simpa [Instr.slots] using hsl) (by decide) hf rfl).trans ?_)
  have hb : (pack [(5, ar.toNat), (1, 1), (16, imm.toNat)]).testBit 16 = true := testBit_pack (fs := [(5, ar.toNat)]) (gs := [(16, imm.toNat)]) (b := 1) rfl rfl (fits_bv _ fits_nil) (by decide) rfl
  have hu := unpack_pack hf
  simp only [List.map_cons, List.map_nil] at hu
  have e (w : Nat) : rawL c 0x0D w = if w.testBit 16 then (match unpack [5, 1, 16] w with | [ar, _, imm] => some (.adraddImm c (.ofNat _ ar) (.ofNat _ imm)) | _ => none) else (match unpack [5, 1, 6, 10] w with | [ar, _, rs, _] => some (.adraddReg c (.ofNat _ ar) (.ofNat _ rs)) | _ => none) := rfl
  simp only [e, hu, hb, ↓reduceIte, BitVec.ofNat_toNat, BitVec.setWidth_eq]
theorem adraddReg (c : Ctl) (ar : BitVec 5) (rs : BitVec 6) : Statement (.adraddReg c ar rs) := fun _ sl hsl => by
  have hf : fits [(5, ar.toNat), (1, 0), (6, rs.toNat), (10, 0)] = true := fits_bv _ (fits_num (by decide) (fits_bv _ (fits_num (by decide) fits_nil)))
  refine of_raw (s₀ := .l) rfl ((raw_packL c (op := 0x0D) (by simpa [Instr.slots] using hsl) (by decide) hf rfl).trans ?_)
  have hb : (pack [(5, ar.toNat), (1, 0), (6, rs.toNat), (10, 0)]).testBit 16 = false := testBit_pack (fs := [(5, ar.toNat)]) (gs := [(6, rs.toNat), (10, 0)]) (b := 0) rfl rfl (fits_bv _ (fits_num (by decide) fits_nil)) (by decide) rfl
  have hu := unpack_pack hf
  simp only [List.map_cons, List.map_nil] at hu
  have e (w : Nat) : rawL c 0x0D w = if w.testBit 16 then (match unpack [5, 1, 16] w with | [ar, _, imm] => some (.adraddImm c (.ofNat _ ar) (.ofNat _ imm)) | _ => none) else (match unpack [5, 1, 6, 10] w with | [ar, _, rs, _] => some (.adraddReg c (.ofNat _ ar) (.ofNat _ rs)) | _ => none) := rfl
  simp only [e, hu, hb, ↓reduceIte, Bool.false_eq_true, BitVec.ofNat_toNat, BitVec.setWidth_eq]
theorem scld (c : Ctl) (xs : BitVec 3) (ar : BitVec 5) (all : Bool) (ofs : BitVec 8) : Statement (.scld c xs ar all ofs) := fun _ sl hsl => by
  obtain rfl := List.mem_singleton.1 hsl
  have hf : fits [(3, xs.toNat), (5, ar.toNat), (1, all.toNat), (5, 0), (8, ofs.toNat)] = true := fits_bv _ (fits_bv _ (fits_bool _ (fits_num (by decide) (fits_bv _ fits_nil))))
  refine of_raw (s₀ := .l) rfl ((raw_packL c (op := 0x0E) (.inl rfl) (by decide) hf rfl).trans ?_)
  have hu := unpack_pack hf
  simp only [List.map_cons, List.map_nil] at hu
  have e (w : Nat) : rawL c 0x0E w = (match unpack [3, 5, 1, 5, 8] w with | [xs, ar, all, _, ofs] => some (.scld c (.ofNat _ xs) (.ofNat _ ar) (bit all) (.ofNat _ ofs)) | _ => none) := rfl
  simp only [e, hu, bit_toNat, BitVec.ofNat_toNat, BitVec.setWidth_eq]
theorem ldgScalar (c : Ctl) (rs : BitVec 6) (ar : BitVec 5) (fmt : BitVec 3) (d : BitVec 7) : Statement (.ldgScalar c rs ar fmt d) := fun _ sl hsl => by
  obtain rfl := List.mem_singleton.1 hsl
  have hf : fits [(1, 0), (6, rs.toNat), (5, ar.toNat), (3, fmt.toNat), (7, d.toNat)] = true := fits_num (by decide) (fits_bv _ (fits_bv _ (fits_bv _ (fits_bv _ fits_nil))))
  refine of_raw (s₀ := .l) rfl ((raw_packL c (op := 0x0F) (.inl rfl) (by decide) hf rfl).trans ?_)
  have hb : (pack [(1, 0), (6, rs.toNat), (5, ar.toNat), (3, fmt.toNat), (7, d.toNat)]).testBit 21 = false := testBit_pack (fs := []) (gs := [(6, rs.toNat), (5, ar.toNat), (3, fmt.toNat), (7, d.toNat)]) (b := 0) rfl rfl (fits_bv _ (fits_bv _ (fits_bv _ (fits_bv _ fits_nil)))) (by decide) rfl
  have hu := unpack_pack hf
  simp only [List.map_cons, List.map_nil] at hu
  have e (w : Nat) : rawL c 0x0F w = if w.testBit 21 then (match unpack [1, 1, 11, 5, 4] w with | [_, vc, vr, ar, d] => some (.ldgVector c (bit vc) (.ofNat _ vr) (.ofNat _ ar) (.ofNat _ d)) | _ => none) else (match unpack [1, 6, 5, 3, 7] w with | [_, rs, ar, fmt, d] => some (.ldgScalar c (.ofNat _ rs) (.ofNat _ ar) (.ofNat _ fmt) (.ofNat _ d)) | _ => none) := rfl
  simp only [e, hu, hb, ↓reduceIte, Bool.false_eq_true, BitVec.ofNat_toNat, BitVec.setWidth_eq]
theorem ldgVector (c : Ctl) (vc : Bool) (vr : BitVec 11) (ar : BitVec 5) (d : BitVec 4) : Statement (.ldgVector c vc vr ar d) := fun _ sl hsl => by
  obtain rfl := List.mem_singleton.1 hsl
  have hf : fits [(1, 1), (1, vc.toNat), (11, vr.toNat), (5, ar.toNat), (4, d.toNat)] = true := fits_num (by decide) (fits_bool _ (fits_bv _ (fits_bv _ (fits_bv _ fits_nil))))
  refine of_raw (s₀ := .l) rfl ((raw_packL c (op := 0x0F) (.inl rfl) (by decide) hf rfl).trans ?_)
  have hb : (pack [(1, 1), (1, vc.toNat), (11, vr.toNat), (5, ar.toNat), (4, d.toNat)]).testBit 21 = true := testBit_pack (fs := []) (gs := [(1, vc.toNat), (11, vr.toNat), (5, ar.toNat), (4, d.toNat)]) (b := 1) rfl rfl (fits_bool _ (fits_bv _ (fits_bv _ (fits_bv _ fits_nil)))) (by decide) rfl
  have hu := unpack_pack hf
  simp only [List.map_cons, List.map_nil] at hu
  have e (w : Nat) : rawL c 0x0F w = if w.testBit 21 then (match unpack [1, 1, 11, 5, 4] w with | [_, vc, vr, ar, d] => some (.ldgVector c (bit vc) (.ofNat _ vr) (.ofNat _ ar) (.ofNat _ d)) | _ => none) else (match unpack [1, 6, 5, 3, 7] w with | [_, rs, ar, fmt, d] => some (.ldgScalar c (.ofNat _ rs) (.ofNat _ ar) (.ofNat _ fmt) (.ofNat _ d)) | _ => none) := rfl
  simp only [e, hu, hb, ↓reduceIte, bit_toNat, BitVec.ofNat_toNat, BitVec.setWidth_eq]
theorem cpyIn (c : Ctl) (q : BitVec 2) (sp : BitVec 4) (ce : Bool) (co : BitVec 4) : Statement (.cpyIn c q sp ce co) := fun _ sl hsl => by
  obtain rfl := List.mem_singleton.1 hsl
  have hf : fits [(2, q.toNat), (4, sp.toNat), (1, ce.toNat), (4, co.toNat), (1, 0), (9, 0)] = true := fits_bv _ (fits_bv _ (fits_bool _ (fits_bv _ (fits_num (by decide) (fits_num (by decide) fits_nil)))))
  refine of_raw (s₀ := .c) rfl ((raw_packC c (op := 0x00) (by decide) hf rfl).trans ?_)
  have hb : (pack [(2, q.toNat), (4, sp.toNat), (1, ce.toNat), (4, co.toNat), (1, 0), (9, 0)]).testBit 9 = false := testBit_pack (fs := [(2, q.toNat), (4, sp.toNat), (1, ce.toNat), (4, co.toNat)]) (gs := [(9, 0)]) (b := 0) rfl rfl (fits_num (by decide) fits_nil) (by decide) rfl
  have hu := unpack_pack hf
  simp only [List.map_cons, List.map_nil] at hu
  have e (w : Nat) : rawC c 0x00 w = if w.testBit 9 then (match unpack [2, 4, 1, 4, 1, 9] w with | [q, sp, ce, co, _, _] => some (.cpyOut c (.ofNat _ q) (.ofNat _ sp) (bit ce) (.ofNat _ co)) | _ => none) else (match unpack [2, 4, 1, 4, 1, 9] w with | [q, sp, ce, co, _, _] => some (.cpyIn c (.ofNat _ q) (.ofNat _ sp) (bit ce) (.ofNat _ co)) | _ => none) := rfl
  simp only [e, hu, hb, ↓reduceIte, Bool.false_eq_true, bit_toNat, BitVec.ofNat_toNat, BitVec.setWidth_eq]
theorem cpyOut (c : Ctl) (q : BitVec 2) (sp : BitVec 4) (ce : Bool) (co : BitVec 4) : Statement (.cpyOut c q sp ce co) := fun _ sl hsl => by
  obtain rfl := List.mem_singleton.1 hsl
  have hf : fits [(2, q.toNat), (4, sp.toNat), (1, ce.toNat), (4, co.toNat), (1, 1), (9, 0)] = true := fits_bv _ (fits_bv _ (fits_bool _ (fits_bv _ (fits_num (by decide) (fits_num (by decide) fits_nil)))))
  refine of_raw (s₀ := .c) rfl ((raw_packC c (op := 0x00) (by decide) hf rfl).trans ?_)
  have hb : (pack [(2, q.toNat), (4, sp.toNat), (1, ce.toNat), (4, co.toNat), (1, 1), (9, 0)]).testBit 9 = true := testBit_pack (fs := [(2, q.toNat), (4, sp.toNat), (1, ce.toNat), (4, co.toNat)]) (gs := [(9, 0)]) (b := 1) rfl rfl (fits_num (by decide) fits_nil) (by decide) rfl
  have hu := unpack_pack hf
  simp only [List.map_cons, List.map_nil] at hu
  have e (w : Nat) : rawC c 0x00 w = if w.testBit 9 then (match unpack [2, 4, 1, 4, 1, 9] w with | [q, sp, ce, co, _, _] => some (.cpyOut c (.ofNat _ q) (.ofNat _ sp) (bit ce) (.ofNat _ co)) | _ => none) else (match unpack [2, 4, 1, 4, 1, 9] w with | [q, sp, ce, co, _, _] => some (.cpyIn c (.ofNat _ q) (.ofNat _ sp) (bit ce) (.ofNat _ co)) | _ => none) := rfl
  simp only [e, hu, hb, ↓reduceIte, bit_toNat, BitVec.ofNat_toNat, BitVec.setWidth_eq]
theorem cpyg (c : Ctl) (q : BitVec 2) (sp : BitVec 4) (ce : Bool) (co : BitVec 4) : Statement (.cpyg c q sp ce co) := fun _ sl hsl => by
  obtain rfl := List.mem_singleton.1 hsl
  have hf : fits [(2, q.toNat), (4, sp.toNat), (1, ce.toNat), (4, co.toNat), (10, 0)] = true := fits_bv _ (fits_bv _ (fits_bool _ (fits_bv _ (fits_num (by decide) fits_nil))))
  refine of_raw (s₀ := .c) rfl ((raw_packC c (op := 0x01) (by decide) hf rfl).trans ?_)
  have hu := unpack_pack hf
  simp only [List.map_cons, List.map_nil] at hu
  have e (w : Nat) : rawC c 0x01 w = (match unpack [2, 4, 1, 4, 10] w with | [q, sp, ce, co, _] => some (.cpyg c (.ofNat _ q) (.ofNat _ sp) (bit ce) (.ofNat _ co)) | _ => none) := rfl
  simp only [e, hu, bit_toNat, BitVec.ofNat_toNat, BitVec.setWidth_eq]
theorem cpyb (c : Ctl) (q : BitVec 2) (sp : BitVec 4) (ce : Bool) (co : BitVec 4) (cb : BitVec 3) : Statement (.cpyb c q sp ce co cb) := fun _ sl hsl => by
  obtain rfl := List.mem_singleton.1 hsl
  have hf : fits [(2, q.toNat), (4, sp.toNat), (1, ce.toNat), (4, co.toNat), (1, 0), (3, cb.toNat), (6, 0)] = true := fits_bv _ (fits_bv _ (fits_bool _ (fits_bv _ (fits_num (by decide) (fits_bv _ (fits_num (by decide) fits_nil))))))
  refine of_raw (s₀ := .c) rfl ((raw_packC c (op := 0x02) (by decide) hf rfl).trans ?_)
  have hu := unpack_pack hf
  simp only [List.map_cons, List.map_nil] at hu
  have e (w : Nat) : rawC c 0x02 w = (match unpack [2, 4, 1, 4, 1, 3, 6] w with | [q, sp, ce, co, _, cb, _] => some (.cpyb c (.ofNat _ q) (.ofNat _ sp) (bit ce) (.ofNat _ co) (.ofNat _ cb)) | _ => none) := rfl
  simp only [e, hu, bit_toNat, BitVec.ofNat_toNat, BitVec.setWidth_eq]
theorem fill (c : Ctl) (q : BitVec 2) (sp : BitVec 4) (ce : Bool) (co : BitVec 4) : Statement (.fill c q sp ce co) := fun _ sl hsl => by
  obtain rfl := List.mem_singleton.1 hsl
  have hf : fits [(2, q.toNat), (4, sp.toNat), (1, ce.toNat), (4, co.toNat), (10, 0)] = true := fits_bv _ (fits_bv _ (fits_bool _ (fits_bv _ (fits_num (by decide) fits_nil))))
  refine of_raw (s₀ := .c) rfl ((raw_packC c (op := 0x03) (by decide) hf rfl).trans ?_)
  have hu := unpack_pack hf
  simp only [List.map_cons, List.map_nil] at hu
  have e (w : Nat) : rawC c 0x03 w = (match unpack [2, 4, 1, 4, 10] w with | [q, sp, ce, co, _] => some (.fill c (.ofNat _ q) (.ofNat _ sp) (bit ce) (.ofNat _ co)) | _ => none) := rfl
  simp only [e, hu, bit_toNat, BitVec.ofNat_toNat, BitVec.setWidth_eq]
theorem cred (c : Ctl) (q : BitVec 2) (sp : BitVec 4) (ce : Bool) (co : BitVec 4) (rop : BitVec 3) (fmt : BitVec 4) : Statement (.cred c q sp ce co rop fmt) := fun _ sl hsl => by
  obtain rfl := List.mem_singleton.1 hsl
  have hf : fits [(2, q.toNat), (4, sp.toNat), (1, ce.toNat), (4, co.toNat), (1, 0), (3, rop.toNat), (4, fmt.toNat), (2, 0)] = true := fits_bv _ (fits_bv _ (fits_bool _ (fits_bv _ (fits_num (by decide) (fits_bv _ (fits_bv _ (fits_num (by decide) fits_nil)))))))
  refine of_raw (s₀ := .c) rfl ((raw_packC c (op := 0x04) (by decide) hf rfl).trans ?_)
  have hu := unpack_pack hf
  simp only [List.map_cons, List.map_nil] at hu
  have e (w : Nat) : rawC c 0x04 w = (match unpack [2, 4, 1, 4, 1, 3, 4, 2] w with | [q, sp, ce, co, _, rop, fmt, _] => some (.cred c (.ofNat _ q) (.ofNat _ sp) (bit ce) (.ofNat _ co) (.ofNat _ rop) (.ofNat _ fmt)) | _ => none) := rfl
  simp only [e, hu, bit_toNat, BitVec.ofNat_toNat, BitVec.setWidth_eq]
theorem gld (c : Ctl) (q : BitVec 2) (rd : BitVec 6) (ra : BitVec 6) (sz : BitVec 2) (aq : Bool) (arr : BitVec 4) : Statement (.gld c q rd ra sz aq arr) := fun _ sl hsl => by
  obtain rfl := List.mem_singleton.1 hsl
  have hf : fits [(2, q.toNat), (6, rd.toNat), (6, ra.toNat), (2, sz.toNat), (1, aq.toNat), (4, arr.toNat)] = true := fits_bv _ (fits_bv _ (fits_bv _ (fits_bv _ (fits_bool _ (fits_bv _ fits_nil)))))
  refine of_raw (s₀ := .c) rfl ((raw_packC c (op := 0x05) (by decide) hf rfl).trans ?_)
  have hu := unpack_pack hf
  simp only [List.map_cons, List.map_nil] at hu
  have e (w : Nat) : rawC c 0x05 w = (match unpack [2, 6, 6, 2, 1, 4] w with | [q, rd, ra, sz, aq, arr] => some (.gld c (.ofNat _ q) (.ofNat _ rd) (.ofNat _ ra) (.ofNat _ sz) (bit aq) (.ofNat _ arr)) | _ => none) := rfl
  simp only [e, hu, bit_toNat, BitVec.ofNat_toNat, BitVec.setWidth_eq]
theorem gst (c : Ctl) (q : BitVec 2) (rb : BitVec 6) (ra : BitVec 6) (sz : BitVec 2) (rl : Bool) : Statement (.gst c q rb ra sz rl) := fun _ sl hsl => by
  obtain rfl := List.mem_singleton.1 hsl
  have hf : fits [(2, q.toNat), (6, rb.toNat), (6, ra.toNat), (2, sz.toNat), (1, rl.toNat), (4, 0)] = true := fits_bv _ (fits_bv _ (fits_bv _ (fits_bv _ (fits_bool _ (fits_num (by decide) fits_nil)))))
  refine of_raw (s₀ := .c) rfl ((raw_packC c (op := 0x06) (by decide) hf rfl).trans ?_)
  have hu := unpack_pack hf
  simp only [List.map_cons, List.map_nil] at hu
  have e (w : Nat) : rawC c 0x06 w = (match unpack [2, 6, 6, 2, 1, 4] w with | [q, rb, ra, sz, rl, _] => some (.gst c (.ofNat _ q) (.ofNat _ rb) (.ofNat _ ra) (.ofNat _ sz) (bit rl)) | _ => none) := rfl
  simp only [e, hu, bit_toNat, BitVec.ofNat_toNat, BitVec.setWidth_eq]
theorem aadd (c : Ctl) (q : BitVec 2) (sp : BitVec 4) (rd : BitVec 6) (sz : Bool) (ord : BitVec 2) (arr : BitVec 4) : Statement (.aadd c q sp rd sz ord arr) := fun _ sl hsl => by
  obtain rfl := List.mem_singleton.1 hsl
  have hf : fits [(2, q.toNat), (4, sp.toNat), (6, rd.toNat), (1, sz.toNat), (1, 0), (2, ord.toNat), (4, arr.toNat), (1, 0)] = true := fits_bv _ (fits_bv _ (fits_bv _ (fits_bool _ (fits_num (by decide) (fits_bv _ (fits_bv _ (fits_num (by decide) fits_nil)))))))
  refine of_raw (s₀ := .c) rfl ((raw_packC c (op := 0x08) (by decide) hf rfl).trans ?_)
  have hu := unpack_pack hf
  simp only [List.map_cons, List.map_nil] at hu
  have e (w : Nat) : rawC c 0x08 w = (match unpack [2, 4, 6, 1, 1, 2, 4, 1] w with | [q, sp, rd, sz, _, ord, arr, _] => some (.aadd c (.ofNat _ q) (.ofNat _ sp) (.ofNat _ rd) (bit sz) (.ofNat _ ord) (.ofNat _ arr)) | _ => none) := rfl
  simp only [e, hu, bit_toNat, BitVec.ofNat_toNat, BitVec.setWidth_eq]
theorem amin (c : Ctl) (q : BitVec 2) (sp : BitVec 4) (rd : BitVec 6) (sz : Bool) (sg : Bool) (ord : BitVec 2) (arr : BitVec 4) : Statement (.amin c q sp rd sz sg ord arr) := fun _ sl hsl => by
  obtain rfl := List.mem_singleton.1 hsl
  have hf : fits [(2, q.toNat), (4, sp.toNat), (6, rd.toNat), (1, sz.toNat), (1, sg.toNat), (2, ord.toNat), (4, arr.toNat), (1, 0)] = true := fits_bv _ (fits_bv _ (fits_bv _ (fits_bool _ (fits_bool _ (fits_bv _ (fits_bv _ (fits_num (by decide) fits_nil)))))))
  refine of_raw (s₀ := .c) rfl ((raw_packC c (op := 0x09) (by decide) hf rfl).trans ?_)
  have hu := unpack_pack hf
  simp only [List.map_cons, List.map_nil] at hu
  have e (w : Nat) : rawC c 0x09 w = (match unpack [2, 4, 6, 1, 1, 2, 4, 1] w with | [q, sp, rd, sz, sg, ord, arr, _] => some (.amin c (.ofNat _ q) (.ofNat _ sp) (.ofNat _ rd) (bit sz) (bit sg) (.ofNat _ ord) (.ofNat _ arr)) | _ => none) := rfl
  simp only [e, hu, bit_toNat, BitVec.ofNat_toNat, BitVec.setWidth_eq]
theorem amax (c : Ctl) (q : BitVec 2) (sp : BitVec 4) (rd : BitVec 6) (sz : Bool) (sg : Bool) (ord : BitVec 2) (arr : BitVec 4) : Statement (.amax c q sp rd sz sg ord arr) := fun _ sl hsl => by
  obtain rfl := List.mem_singleton.1 hsl
  have hf : fits [(2, q.toNat), (4, sp.toNat), (6, rd.toNat), (1, sz.toNat), (1, sg.toNat), (2, ord.toNat), (4, arr.toNat), (1, 0)] = true := fits_bv _ (fits_bv _ (fits_bv _ (fits_bool _ (fits_bool _ (fits_bv _ (fits_bv _ (fits_num (by decide) fits_nil)))))))
  refine of_raw (s₀ := .c) rfl ((raw_packC c (op := 0x0A) (by decide) hf rfl).trans ?_)
  have hu := unpack_pack hf
  simp only [List.map_cons, List.map_nil] at hu
  have e (w : Nat) : rawC c 0x0A w = (match unpack [2, 4, 6, 1, 1, 2, 4, 1] w with | [q, sp, rd, sz, sg, ord, arr, _] => some (.amax c (.ofNat _ q) (.ofNat _ sp) (.ofNat _ rd) (bit sz) (bit sg) (.ofNat _ ord) (.ofNat _ arr)) | _ => none) := rfl
  simp only [e, hu, bit_toNat, BitVec.ofNat_toNat, BitVec.setWidth_eq]
theorem aand (c : Ctl) (q : BitVec 2) (sp : BitVec 4) (rd : BitVec 6) (sz : Bool) (ord : BitVec 2) (arr : BitVec 4) : Statement (.aand c q sp rd sz ord arr) := fun _ sl hsl => by
  obtain rfl := List.mem_singleton.1 hsl
  have hf : fits [(2, q.toNat), (4, sp.toNat), (6, rd.toNat), (1, sz.toNat), (1, 0), (2, ord.toNat), (4, arr.toNat), (1, 0)] = true := fits_bv _ (fits_bv _ (fits_bv _ (fits_bool _ (fits_num (by decide) (fits_bv _ (fits_bv _ (fits_num (by decide) fits_nil)))))))
  refine of_raw (s₀ := .c) rfl ((raw_packC c (op := 0x0B) (by decide) hf rfl).trans ?_)
  have hu := unpack_pack hf
  simp only [List.map_cons, List.map_nil] at hu
  have e (w : Nat) : rawC c 0x0B w = (match unpack [2, 4, 6, 1, 1, 2, 4, 1] w with | [q, sp, rd, sz, _, ord, arr, _] => some (.aand c (.ofNat _ q) (.ofNat _ sp) (.ofNat _ rd) (bit sz) (.ofNat _ ord) (.ofNat _ arr)) | _ => none) := rfl
  simp only [e, hu, bit_toNat, BitVec.ofNat_toNat, BitVec.setWidth_eq]
theorem aor (c : Ctl) (q : BitVec 2) (sp : BitVec 4) (rd : BitVec 6) (sz : Bool) (ord : BitVec 2) (arr : BitVec 4) : Statement (.aor c q sp rd sz ord arr) := fun _ sl hsl => by
  obtain rfl := List.mem_singleton.1 hsl
  have hf : fits [(2, q.toNat), (4, sp.toNat), (6, rd.toNat), (1, sz.toNat), (1, 0), (2, ord.toNat), (4, arr.toNat), (1, 0)] = true := fits_bv _ (fits_bv _ (fits_bv _ (fits_bool _ (fits_num (by decide) (fits_bv _ (fits_bv _ (fits_num (by decide) fits_nil)))))))
  refine of_raw (s₀ := .c) rfl ((raw_packC c (op := 0x0C) (by decide) hf rfl).trans ?_)
  have hu := unpack_pack hf
  simp only [List.map_cons, List.map_nil] at hu
  have e (w : Nat) : rawC c 0x0C w = (match unpack [2, 4, 6, 1, 1, 2, 4, 1] w with | [q, sp, rd, sz, _, ord, arr, _] => some (.aor c (.ofNat _ q) (.ofNat _ sp) (.ofNat _ rd) (bit sz) (.ofNat _ ord) (.ofNat _ arr)) | _ => none) := rfl
  simp only [e, hu, bit_toNat, BitVec.ofNat_toNat, BitVec.setWidth_eq]
theorem axor (c : Ctl) (q : BitVec 2) (sp : BitVec 4) (rd : BitVec 6) (sz : Bool) (ord : BitVec 2) (arr : BitVec 4) : Statement (.axor c q sp rd sz ord arr) := fun _ sl hsl => by
  obtain rfl := List.mem_singleton.1 hsl
  have hf : fits [(2, q.toNat), (4, sp.toNat), (6, rd.toNat), (1, sz.toNat), (1, 0), (2, ord.toNat), (4, arr.toNat), (1, 0)] = true := fits_bv _ (fits_bv _ (fits_bv _ (fits_bool _ (fits_num (by decide) (fits_bv _ (fits_bv _ (fits_num (by decide) fits_nil)))))))
  refine of_raw (s₀ := .c) rfl ((raw_packC c (op := 0x0D) (by decide) hf rfl).trans ?_)
  have hu := unpack_pack hf
  simp only [List.map_cons, List.map_nil] at hu
  have e (w : Nat) : rawC c 0x0D w = (match unpack [2, 4, 6, 1, 1, 2, 4, 1] w with | [q, sp, rd, sz, _, ord, arr, _] => some (.axor c (.ofNat _ q) (.ofNat _ sp) (.ofNat _ rd) (bit sz) (.ofNat _ ord) (.ofNat _ arr)) | _ => none) := rfl
  simp only [e, hu, bit_toNat, BitVec.ofNat_toNat, BitVec.setWidth_eq]
theorem axch (c : Ctl) (q : BitVec 2) (sp : BitVec 4) (rd : BitVec 6) (sz : Bool) (ord : BitVec 2) (arr : BitVec 4) : Statement (.axch c q sp rd sz ord arr) := fun _ sl hsl => by
  obtain rfl := List.mem_singleton.1 hsl
  have hf : fits [(2, q.toNat), (4, sp.toNat), (6, rd.toNat), (1, sz.toNat), (1, 0), (2, ord.toNat), (4, arr.toNat), (1, 0)] = true := fits_bv _ (fits_bv _ (fits_bv _ (fits_bool _ (fits_num (by decide) (fits_bv _ (fits_bv _ (fits_num (by decide) fits_nil)))))))
  refine of_raw (s₀ := .c) rfl ((raw_packC c (op := 0x0E) (by decide) hf rfl).trans ?_)
  have hu := unpack_pack hf
  simp only [List.map_cons, List.map_nil] at hu
  have e (w : Nat) : rawC c 0x0E w = (match unpack [2, 4, 6, 1, 1, 2, 4, 1] w with | [q, sp, rd, sz, _, ord, arr, _] => some (.axch c (.ofNat _ q) (.ofNat _ sp) (.ofNat _ rd) (bit sz) (.ofNat _ ord) (.ofNat _ arr)) | _ => none) := rfl
  simp only [e, hu, bit_toNat, BitVec.ofNat_toNat, BitVec.setWidth_eq]
theorem acas (c : Ctl) (q : BitVec 2) (sp : BitVec 4) (rd : BitVec 6) (sz : Bool) (ord : BitVec 2) (arr : BitVec 4) : Statement (.acas c q sp rd sz ord arr) := fun _ sl hsl => by
  obtain rfl := List.mem_singleton.1 hsl
  have hf : fits [(2, q.toNat), (4, sp.toNat), (6, rd.toNat), (1, sz.toNat), (1, 0), (2, ord.toNat), (4, arr.toNat), (1, 0)] = true := fits_bv _ (fits_bv _ (fits_bv _ (fits_bool _ (fits_num (by decide) (fits_bv _ (fits_bv _ (fits_num (by decide) fits_nil)))))))
  refine of_raw (s₀ := .c) rfl ((raw_packC c (op := 0x0F) (by decide) hf rfl).trans ?_)
  have hu := unpack_pack hf
  simp only [List.map_cons, List.map_nil] at hu
  have e (w : Nat) : rawC c 0x0F w = (match unpack [2, 4, 6, 1, 1, 2, 4, 1] w with | [q, sp, rd, sz, _, ord, arr, _] => some (.acas c (.ofNat _ q) (.ofNat _ sp) (.ofNat _ rd) (bit sz) (.ofNat _ ord) (.ofNat _ arr)) | _ => none) := rfl
  simp only [e, hu, bit_toNat, BitVec.ofNat_toNat, BitVec.setWidth_eq]
theorem csigCounter (c : Ctl) (q : BitVec 2) (co : BitVec 4) (ra : BitVec 6) : Statement (.csigCounter c q co ra) := fun _ sl hsl => by
  obtain rfl := List.mem_singleton.1 hsl
  have hf : fits [(2, q.toNat), (1, 0), (4, co.toNat), (6, ra.toNat), (8, 0)] = true := fits_bv _ (fits_num (by decide) (fits_bv _ (fits_bv _ (fits_num (by decide) fits_nil))))
  refine of_raw (s₀ := .c) rfl ((raw_packC c (op := 0x10) (by decide) hf rfl).trans ?_)
  have hb : (pack [(2, q.toNat), (1, 0), (4, co.toNat), (6, ra.toNat), (8, 0)]).testBit 18 = false := testBit_pack (fs := [(2, q.toNat)]) (gs := [(4, co.toNat), (6, ra.toNat), (8, 0)]) (b := 0) rfl rfl (fits_bv _ (fits_bv _ (fits_num (by decide) fits_nil))) (by decide) rfl
  have hu := unpack_pack hf
  simp only [List.map_cons, List.map_nil] at hu
  have e (w : Nat) : rawC c 0x10 w = if w.testBit 18 then (match unpack [2, 1, 4, 6, 8] w with | [q, _, _, ra, _] => some (.csigAddress c (.ofNat _ q) (.ofNat _ ra)) | _ => none) else (match unpack [2, 1, 4, 6, 8] w with | [q, _, co, ra, _] => some (.csigCounter c (.ofNat _ q) (.ofNat _ co) (.ofNat _ ra)) | _ => none) := rfl
  simp only [e, hu, hb, ↓reduceIte, Bool.false_eq_true, BitVec.ofNat_toNat, BitVec.setWidth_eq]
theorem csigAddress (c : Ctl) (q : BitVec 2) (ra : BitVec 6) : Statement (.csigAddress c q ra) := fun _ sl hsl => by
  obtain rfl := List.mem_singleton.1 hsl
  have hf : fits [(2, q.toNat), (1, 1), (4, 0), (6, ra.toNat), (8, 0)] = true := fits_bv _ (fits_num (by decide) (fits_num (by decide) (fits_bv _ (fits_num (by decide) fits_nil))))
  refine of_raw (s₀ := .c) rfl ((raw_packC c (op := 0x10) (by decide) hf rfl).trans ?_)
  have hb : (pack [(2, q.toNat), (1, 1), (4, 0), (6, ra.toNat), (8, 0)]).testBit 18 = true := testBit_pack (fs := [(2, q.toNat)]) (gs := [(4, 0), (6, ra.toNat), (8, 0)]) (b := 1) rfl rfl (fits_num (by decide) (fits_bv _ (fits_num (by decide) fits_nil))) (by decide) rfl
  have hu := unpack_pack hf
  simp only [List.map_cons, List.map_nil] at hu
  have e (w : Nat) : rawC c 0x10 w = if w.testBit 18 then (match unpack [2, 1, 4, 6, 8] w with | [q, _, _, ra, _] => some (.csigAddress c (.ofNat _ q) (.ofNat _ ra)) | _ => none) else (match unpack [2, 1, 4, 6, 8] w with | [q, _, co, ra, _] => some (.csigCounter c (.ofNat _ q) (.ofNat _ co) (.ofNat _ ra)) | _ => none) := rfl
  simp only [e, hu, hb, ↓reduceIte, BitVec.ofNat_toNat, BitVec.setWidth_eq]
theorem cwaitReg (c : Ctl) (co : BitVec 4) (sb : Bool) (ra : BitVec 6) : Statement (.cwaitReg c co sb ra) := fun _ sl hsl => by
  obtain rfl := List.mem_singleton.1 hsl
  have hf : fits [(4, co.toNat), (1, sb.toNat), (1, 0), (6, ra.toNat), (9, 0)] = true := fits_bv _ (fits_bool _ (fits_num (by decide) (fits_bv _ (fits_num (by decide) fits_nil))))
  refine of_raw (s₀ := .c) rfl ((raw_packC c (op := 0x11) (by decide) hf rfl).trans ?_)
  have hb : (pack [(4, co.toNat), (1, sb.toNat), (1, 0), (6, ra.toNat), (9, 0)]).testBit 15 = false := testBit_pack (fs := [(4, co.toNat), (1, sb.toNat)]) (gs := [(6, ra.toNat), (9, 0)]) (b := 0) rfl rfl (fits_bv _ (fits_num (by decide) fits_nil)) (by decide) rfl
  have hu := unpack_pack hf
  simp only [List.map_cons, List.map_nil] at hu
  have e (w : Nat) : rawC c 0x11 w = if w.testBit 15 then (match unpack [4, 1, 1, 10, 5] w with | [co, sb, _, imm, _] => some (.cwaitImm c (.ofNat _ co) (bit sb) (.ofNat _ imm)) | _ => none) else (match unpack [4, 1, 1, 6, 9] w with | [co, sb, _, ra, _] => some (.cwaitReg c (.ofNat _ co) (bit sb) (.ofNat _ ra)) | _ => none) := rfl
  simp only [e, hu, hb, ↓reduceIte, Bool.false_eq_true, bit_toNat, BitVec.ofNat_toNat, BitVec.setWidth_eq]
theorem cwaitImm (c : Ctl) (co : BitVec 4) (sb : Bool) (imm : BitVec 10) : Statement (.cwaitImm c co sb imm) := fun _ sl hsl => by
  obtain rfl := List.mem_singleton.1 hsl
  have hf : fits [(4, co.toNat), (1, sb.toNat), (1, 1), (10, imm.toNat), (5, 0)] = true := fits_bv _ (fits_bool _ (fits_num (by decide) (fits_bv _ (fits_num (by decide) fits_nil))))
  refine of_raw (s₀ := .c) rfl ((raw_packC c (op := 0x11) (by decide) hf rfl).trans ?_)
  have hb : (pack [(4, co.toNat), (1, sb.toNat), (1, 1), (10, imm.toNat), (5, 0)]).testBit 15 = true := testBit_pack (fs := [(4, co.toNat), (1, sb.toNat)]) (gs := [(10, imm.toNat), (5, 0)]) (b := 1) rfl rfl (fits_bv _ (fits_num (by decide) fits_nil)) (by decide) rfl
  have hu := unpack_pack hf
  simp only [List.map_cons, List.map_nil] at hu
  have e (w : Nat) : rawC c 0x11 w = if w.testBit 15 then (match unpack [4, 1, 1, 10, 5] w with | [co, sb, _, imm, _] => some (.cwaitImm c (.ofNat _ co) (bit sb) (.ofNat _ imm)) | _ => none) else (match unpack [4, 1, 1, 6, 9] w with | [co, sb, _, ra, _] => some (.cwaitReg c (.ofNat _ co) (bit sb) (.ofNat _ ra)) | _ => none) := rfl
  simp only [e, hu, hb, ↓reduceIte, bit_toNat, BitVec.ofNat_toNat, BitVec.setWidth_eq]
theorem drain (c : Ctl) (sc : BitVec 3) : Statement (.drain c sc) := fun _ sl hsl => by
  obtain rfl := List.mem_singleton.1 hsl
  have hf : fits [(3, sc.toNat), (18, 0)] = true := fits_bv _ (fits_num (by decide) fits_nil)
  refine of_raw (s₀ := .c) rfl ((raw_packC c (op := 0x12) (by decide) hf rfl).trans ?_)
  have hu := unpack_pack hf
  simp only [List.map_cons, List.map_nil] at hu
  have e (w : Nat) : rawC c 0x12 w = (match unpack [3, 18] w with | [sc, _] => some (.drain c (.ofNat _ sc)) | _ => none) := rfl
  simp only [e, hu, BitVec.ofNat_toNat, BitVec.setWidth_eq]
theorem qadd (c : Ctl) (ql : BitVec 2) (cls : BitVec 2) (lm : Bool) : Statement (.qadd c ql cls lm) := fun _ sl hsl => by
  obtain rfl := List.mem_singleton.1 hsl
  have hf : fits [(2, ql.toNat), (2, cls.toNat), (1, lm.toNat), (18, 0)] = true := fits_bv _ (fits_bv _ (fits_bool _ (fits_num (by decide) fits_nil)))
  refine of_raw (s₀ := .q) rfl ((raw_packQ c (op := 0x00) (by decide) hf rfl).trans ?_)
  have hu := unpack_pack hf
  simp only [List.map_cons, List.map_nil] at hu
  have e (w : Nat) : rawQ c 0x00 w = (match unpack [2, 2, 1, 18] w with | [ql, cls, lm, _] => some (.qadd c (.ofNat _ ql) (.ofNat _ cls) (bit lm)) | _ => none) := rfl
  simp only [e, hu, bit_toNat, BitVec.ofNat_toNat, BitVec.setWidth_eq]
theorem qmax (c : Ctl) (ql : BitVec 2) (cls : BitVec 2) (lm : Bool) : Statement (.qmax c ql cls lm) := fun _ sl hsl => by
  obtain rfl := List.mem_singleton.1 hsl
  have hf : fits [(2, ql.toNat), (2, cls.toNat), (1, lm.toNat), (18, 0)] = true := fits_bv _ (fits_bv _ (fits_bool _ (fits_num (by decide) fits_nil)))
  refine of_raw (s₀ := .q) rfl ((raw_packQ c (op := 0x01) (by decide) hf rfl).trans ?_)
  have hu := unpack_pack hf
  simp only [List.map_cons, List.map_nil] at hu
  have e (w : Nat) : rawQ c 0x01 w = (match unpack [2, 2, 1, 18] w with | [ql, cls, lm, _] => some (.qmax c (.ofNat _ ql) (.ofNat _ cls) (bit lm)) | _ => none) := rfl
  simp only [e, hu, bit_toNat, BitVec.ofNat_toNat, BitVec.setWidth_eq]
theorem qmin (c : Ctl) (ql : BitVec 2) (cls : BitVec 2) (lm : Bool) : Statement (.qmin c ql cls lm) := fun _ sl hsl => by
  obtain rfl := List.mem_singleton.1 hsl
  have hf : fits [(2, ql.toNat), (2, cls.toNat), (1, lm.toNat), (18, 0)] = true := fits_bv _ (fits_bv _ (fits_bool _ (fits_num (by decide) fits_nil)))
  refine of_raw (s₀ := .q) rfl ((raw_packQ c (op := 0x02) (by decide) hf rfl).trans ?_)
  have hu := unpack_pack hf
  simp only [List.map_cons, List.map_nil] at hu
  have e (w : Nat) : rawQ c 0x02 w = (match unpack [2, 2, 1, 18] w with | [ql, cls, lm, _] => some (.qmin c (.ofNat _ ql) (.ofNat _ cls) (bit lm)) | _ => none) := rfl
  simp only [e, hu, bit_toNat, BitVec.ofNat_toNat, BitVec.setWidth_eq]
theorem qdrn (c : Ctl) (ql : BitVec 2) (rd : BitVec 6) (cl : Bool) : Statement (.qdrn c ql rd cl) := fun _ sl hsl => by
  obtain rfl := List.mem_singleton.1 hsl
  have hf : fits [(2, ql.toNat), (6, rd.toNat), (1, cl.toNat), (14, 0)] = true := fits_bv _ (fits_bv _ (fits_bool _ (fits_num (by decide) fits_nil)))
  refine of_raw (s₀ := .q) rfl ((raw_packQ c (op := 0x03) (by decide) hf rfl).trans ?_)
  have hu := unpack_pack hf
  simp only [List.map_cons, List.map_nil] at hu
  have e (w : Nat) : rawQ c 0x03 w = (match unpack [2, 6, 1, 14] w with | [ql, rd, cl, _] => some (.qdrn c (.ofNat _ ql) (.ofNat _ rd) (bit cl)) | _ => none) := rfl
  simp only [e, hu, bit_toNat, BitVec.ofNat_toNat, BitVec.setWidth_eq]
theorem qclr (c : Ctl) (ql : BitVec 2) (iv : BitVec 2) (lm : Bool) : Statement (.qclr c ql iv lm) := fun _ sl hsl => by
  obtain rfl := List.mem_singleton.1 hsl
  have hf : fits [(2, ql.toNat), (2, iv.toNat), (1, lm.toNat), (18, 0)] = true := fits_bv _ (fits_bv _ (fits_bool _ (fits_num (by decide) fits_nil)))
  refine of_raw (s₀ := .q) rfl ((raw_packQ c (op := 0x04) (by decide) hf rfl).trans ?_)
  have hu := unpack_pack hf
  simp only [List.map_cons, List.map_nil] at hu
  have e (w : Nat) : rawQ c 0x04 w = (match unpack [2, 2, 1, 18] w with | [ql, iv, lm, _] => some (.qclr c (.ofNat _ ql) (.ofNat _ iv) (bit lm)) | _ => none) := rfl
  simp only [e, hu, bit_toNat, BitVec.ofNat_toNat, BitVec.setWidth_eq]
theorem mma (c : Ctl) (t : BitVec 11) (qd : Bool) (aa : BitVec 5) (ab : BitVec 5) (fa : BitVec 3) (fb : BitVec 3) (ncm : BitVec 7) (z : Bool) (ps : Bool) : Statement (.mma c t qd aa ab fa fb ncm z ps) := fun _ sl hsl => by
  obtain rfl := List.mem_singleton.1 hsl
  have hf : fits [(11, t.toNat), (1, qd.toNat), (5, aa.toNat), (5, ab.toNat), (3, fa.toNat), (3, fb.toNat), (7, ncm.toNat), (1, z.toNat), (1, ps.toNat)] = true := fits_bv _ (fits_bool _ (fits_bv _ (fits_bv _ (fits_bv _ (fits_bv _ (fits_bv _ (fits_bool _ (fits_bool _ fits_nil))))))))
  refine of_raw (s₀ := .x) rfl ((raw_packX c (op := 0x00) (by decide) hf rfl).trans ?_)
  have hu := unpack_pack hf
  simp only [List.map_cons, List.map_nil] at hu
  have e (w : Nat) : rawX c 0x00 w = (match unpack [11, 1, 5, 5, 3, 3, 7, 1, 1] w with | [t, qd, aa, ab, fa, fb, ncm, z, ps] => some (.mma c (.ofNat _ t) (bit qd) (.ofNat _ aa) (.ofNat _ ab) (.ofNat _ fa) (.ofNat _ fb) (.ofNat _ ncm) (bit z) (bit ps)) | _ => none) := rfl
  simp only [e, hu, bit_toNat, BitVec.ofNat_toNat, BitVec.setWidth_eq]
theorem mmas (c : Ctl) (t : BitVec 11) (qd : Bool) (sp : BitVec 5) (ab : BitVec 5) (fa : BitVec 3) (fb : BitVec 3) (ncm : BitVec 7) (z : Bool) : Statement (.mmas c t qd sp ab fa fb ncm z) := fun _ sl hsl => by
  obtain rfl := List.mem_singleton.1 hsl
  have hf : fits [(11, t.toNat), (1, qd.toNat), (5, sp.toNat), (5, ab.toNat), (3, fa.toNat), (3, fb.toNat), (7, ncm.toNat), (1, z.toNat), (1, 0)] = true := fits_bv _ (fits_bool _ (fits_bv _ (fits_bv _ (fits_bv _ (fits_bv _ (fits_bv _ (fits_bool _ (fits_num (by decide) fits_nil))))))))
  refine of_raw (s₀ := .x) rfl ((raw_packX c (op := 0x01) (by decide) hf rfl).trans ?_)
  have hu := unpack_pack hf
  simp only [List.map_cons, List.map_nil] at hu
  have e (w : Nat) : rawX c 0x01 w = (match unpack [11, 1, 5, 5, 3, 3, 7, 1, 1] w with | [t, qd, sp, ab, fa, fb, ncm, z, _] => some (.mmas c (.ofNat _ t) (bit qd) (.ofNat _ sp) (.ofNat _ ab) (.ofNat _ fa) (.ofNat _ fb) (.ofNat _ ncm) (bit z)) | _ => none) := rfl
  simp only [e, hu, bit_toNat, BitVec.ofNat_toNat, BitVec.setWidth_eq]
theorem tzero (c : Ctl) (t : BitVec 11) (qd : Bool) : Statement (.tzero c t qd) := fun _ sl hsl => by
  obtain rfl := List.mem_singleton.1 hsl
  have hf : fits [(11, t.toNat), (1, qd.toNat), (25, 0)] = true := fits_bv _ (fits_bool _ (fits_num (by decide) fits_nil))
  refine of_raw (s₀ := .x) rfl ((raw_packX c (op := 0x02) (by decide) hf rfl).trans ?_)
  have hu := unpack_pack hf
  simp only [List.map_cons, List.map_nil] at hu
  have e (w : Nat) : rawX c 0x02 w = (match unpack [11, 1, 25] w with | [t, qd, _] => some (.tzero c (.ofNat _ t) (bit qd)) | _ => none) := rfl
  simp only [e, hu, bit_toNat, BitVec.ofNat_toNat, BitVec.setWidth_eq]
theorem tld (c : Ctl) (t : BitVec 11) (qd : Bool) (ar : BitVec 5) (fmt : BitVec 5) (ps : Bool) : Statement (.tld c t qd ar fmt ps) := fun _ sl hsl => by
  obtain rfl := List.mem_singleton.1 hsl
  have hf : fits [(11, t.toNat), (1, qd.toNat), (5, ar.toNat), (5, fmt.toNat), (1, ps.toNat), (14, 0)] = true := fits_bv _ (fits_bool _ (fits_bv _ (fits_bv _ (fits_bool _ (fits_num (by decide) fits_nil)))))
  refine of_raw (s₀ := .x) rfl ((raw_packX c (op := 0x03) (by decide) hf rfl).trans ?_)
  have hu := unpack_pack hf
  simp only [List.map_cons, List.map_nil] at hu
  have e (w : Nat) : rawX c 0x03 w = (match unpack [11, 1, 5, 5, 1, 14] w with | [t, qd, ar, fmt, ps, _] => some (.tld c (.ofNat _ t) (bit qd) (.ofNat _ ar) (.ofNat _ fmt) (bit ps)) | _ => none) := rfl
  simp only [e, hu, bit_toNat, BitVec.ofNat_toNat, BitVec.setWidth_eq]
theorem tst (c : Ctl) (t : BitVec 11) (qd : Bool) (ar : BitVec 5) (fmt : BitVec 5) (xs : BitVec 3) (sat : Bool) (ps : Bool) : Statement (.tst c t qd ar fmt xs sat ps) := fun _ sl hsl => by
  obtain rfl := List.mem_singleton.1 hsl
  have hf : fits [(11, t.toNat), (1, qd.toNat), (5, ar.toNat), (5, fmt.toNat), (3, xs.toNat), (1, sat.toNat), (1, ps.toNat), (10, 0)] = true := fits_bv _ (fits_bool _ (fits_bv _ (fits_bv _ (fits_bv _ (fits_bool _ (fits_bool _ (fits_num (by decide) fits_nil)))))))
  refine of_raw (s₀ := .x) rfl ((raw_packX c (op := 0x04) (by decide) hf rfl).trans ?_)
  have hu := unpack_pack hf
  simp only [List.map_cons, List.map_nil] at hu
  have e (w : Nat) : rawX c 0x04 w = (match unpack [11, 1, 5, 5, 3, 1, 1, 10] w with | [t, qd, ar, fmt, xs, sat, ps, _] => some (.tst c (.ofNat _ t) (bit qd) (.ofNat _ ar) (.ofNat _ fmt) (.ofNat _ xs) (bit sat) (bit ps)) | _ => none) := rfl
  simp only [e, hu, bit_toNat, BitVec.ofNat_toNat, BitVec.setWidth_eq]
theorem tadd (c : Ctl) (t : BitVec 11) (qd : Bool) (ta : BitVec 11) (src : BitVec 14) : Statement (.tadd c t qd ta src) := fun _ sl hsl => by
  obtain rfl := List.mem_singleton.1 hsl
  have hf : fits [(11, t.toNat), (1, qd.toNat), (11, ta.toNat), (14, src.toNat)] = true := fits_bv _ (fits_bool _ (fits_bv _ (fits_bv _ fits_nil)))
  refine of_raw (s₀ := .x) rfl ((raw_packX c (op := 0x05) (by decide) hf rfl).trans ?_)
  have hu := unpack_pack hf
  simp only [List.map_cons, List.map_nil] at hu
  have e (w : Nat) : rawX c 0x05 w = (match unpack [11, 1, 11, 14] w with | [t, qd, ta, src] => some (.tadd c (.ofNat _ t) (bit qd) (.ofNat _ ta) (.ofNat _ src)) | _ => none) := rfl
  simp only [e, hu, bit_toNat, BitVec.ofNat_toNat, BitVec.setWidth_eq]
theorem tmov (c : Ctl) (t : BitVec 11) (qd : Bool) (ta : BitVec 11) : Statement (.tmov c t qd ta) := fun _ sl hsl => by
  obtain rfl := List.mem_singleton.1 hsl
  have hf : fits [(11, t.toNat), (1, qd.toNat), (11, ta.toNat), (14, 0)] = true := fits_bv _ (fits_bool _ (fits_bv _ (fits_num (by decide) fits_nil)))
  refine of_raw (s₀ := .x) rfl ((raw_packX c (op := 0x06) (by decide) hf rfl).trans ?_)
  have hu := unpack_pack hf
  simp only [List.map_cons, List.map_nil] at hu
  have e (w : Nat) : rawX c 0x06 w = (match unpack [11, 1, 11, 14] w with | [t, qd, ta, _] => some (.tmov c (.ofNat _ t) (bit qd) (.ofNat _ ta)) | _ => none) := rfl
  simp only [e, hu, bit_toNat, BitVec.ofNat_toNat, BitVec.setWidth_eq]
theorem trow (c : Ctl) (rd : BitVec 6) (cl : Bool) : Statement (.trow c rd cl) := fun _ sl hsl => by
  obtain rfl := List.mem_singleton.1 hsl
  have hf : fits [(6, rd.toNat), (1, cl.toNat), (30, 0)] = true := fits_bv _ (fits_bool _ (fits_num (by decide) fits_nil))
  refine of_raw (s₀ := .x) rfl ((raw_packX c (op := 0x07) (by decide) hf rfl).trans ?_)
  have hu := unpack_pack hf
  simp only [List.map_cons, List.map_nil] at hu
  have e (w : Nat) : rawX c 0x07 w = (match unpack [6, 1, 30] w with | [rd, cl, _] => some (.trow c (.ofNat _ rd) (bit cl)) | _ => none) := rfl
  simp only [e, hu, bit_toNat, BitVec.ofNat_toNat, BitVec.setWidth_eq]
theorem vadd (e : Vcw) : Statement (.vadd e) := fun _ sl hsl => by
  obtain rfl := List.mem_singleton.1 hsl
  exact of_raw (s₀ := .vcw) rfl (raw_packVcw (op := 0x00) (by decide) e)
theorem vsub (e : Vcw) : Statement (.vsub e) := fun _ sl hsl => by
  obtain rfl := List.mem_singleton.1 hsl
  exact of_raw (s₀ := .vcw) rfl (raw_packVcw (op := 0x01) (by decide) e)
theorem vmul (e : Vcw) : Statement (.vmul e) := fun _ sl hsl => by
  obtain rfl := List.mem_singleton.1 hsl
  exact of_raw (s₀ := .vcw) rfl (raw_packVcw (op := 0x02) (by decide) e)
theorem vfma (e : Vcw) : Statement (.vfma e) := fun _ sl hsl => by
  obtain rfl := List.mem_singleton.1 hsl
  exact of_raw (s₀ := .vcw) rfl (raw_packVcw (op := 0x03) (by decide) e)
theorem vfms (e : Vcw) : Statement (.vfms e) := fun _ sl hsl => by
  obtain rfl := List.mem_singleton.1 hsl
  exact of_raw (s₀ := .vcw) rfl (raw_packVcw (op := 0x04) (by decide) e)
theorem vmin (e : Vcw) : Statement (.vmin e) := fun _ sl hsl => by
  obtain rfl := List.mem_singleton.1 hsl
  exact of_raw (s₀ := .vcw) rfl (raw_packVcw (op := 0x05) (by decide) e)
theorem vmax (e : Vcw) : Statement (.vmax e) := fun _ sl hsl => by
  obtain rfl := List.mem_singleton.1 hsl
  exact of_raw (s₀ := .vcw) rfl (raw_packVcw (op := 0x06) (by decide) e)
theorem vabs (e : Vcw) : Statement (.vabs e) := fun _ sl hsl => by
  obtain rfl := List.mem_singleton.1 hsl
  exact of_raw (s₀ := .vcw) rfl (raw_packVcw (op := 0x07) (by decide) e)
theorem vneg (e : Vcw) : Statement (.vneg e) := fun _ sl hsl => by
  obtain rfl := List.mem_singleton.1 hsl
  exact of_raw (s₀ := .vcw) rfl (raw_packVcw (op := 0x08) (by decide) e)
theorem vand (e : Vcw) : Statement (.vand e) := fun _ sl hsl => by
  obtain rfl := List.mem_singleton.1 hsl
  exact of_raw (s₀ := .vcw) rfl (raw_packVcw (op := 0x09) (by decide) e)
theorem vor (e : Vcw) : Statement (.vor e) := fun _ sl hsl => by
  obtain rfl := List.mem_singleton.1 hsl
  exact of_raw (s₀ := .vcw) rfl (raw_packVcw (op := 0x0A) (by decide) e)
theorem vxor (e : Vcw) : Statement (.vxor e) := fun _ sl hsl => by
  obtain rfl := List.mem_singleton.1 hsl
  exact of_raw (s₀ := .vcw) rfl (raw_packVcw (op := 0x0B) (by decide) e)
theorem vshl (e : Vcw) : Statement (.vshl e) := fun _ sl hsl => by
  obtain rfl := List.mem_singleton.1 hsl
  exact of_raw (s₀ := .vcw) rfl (raw_packVcw (op := 0x0C) (by decide) e)
theorem vshr (e : Vcw) : Statement (.vshr e) := fun _ sl hsl => by
  obtain rfl := List.mem_singleton.1 hsl
  exact of_raw (s₀ := .vcw) rfl (raw_packVcw (op := 0x0D) (by decide) e)
theorem vsra (e : Vcw) : Statement (.vsra e) := fun _ sl hsl => by
  obtain rfl := List.mem_singleton.1 hsl
  exact of_raw (s₀ := .vcw) rfl (raw_packVcw (op := 0x0E) (by decide) e)
theorem vcmp (e : Vcw) : Statement (.vcmp e) := fun _ sl hsl => by
  obtain rfl := List.mem_singleton.1 hsl
  exact of_raw (s₀ := .vcw) rfl (raw_packVcw (op := 0x0F) (by decide) e)
theorem vsel (e : Vcw) : Statement (.vsel e) := fun _ sl hsl => by
  obtain rfl := List.mem_singleton.1 hsl
  exact of_raw (s₀ := .vcw) rfl (raw_packVcw (op := 0x10) (by decide) e)
theorem vcvt (e : Vcw) : Statement (.vcvt e) := fun _ sl hsl => by
  obtain rfl := List.mem_singleton.1 hsl
  exact of_raw (s₀ := .vcw) rfl (raw_packVcw (op := 0x11) (by decide) e)
theorem vqbfp (e : Vcw) : Statement (.vqbfp e) := fun _ sl hsl => by
  obtain rfl := List.mem_singleton.1 hsl
  exact of_raw (s₀ := .vcw) rfl (raw_packVcw (op := 0x12) (by decide) e)
theorem vxbfp (e : Vcw) : Statement (.vxbfp e) := fun _ sl hsl => by
  obtain rfl := List.mem_singleton.1 hsl
  exact of_raw (s₀ := .vcw) rfl (raw_packVcw (op := 0x13) (by decide) e)
theorem vrcp (e : Vcw) : Statement (.vrcp e) := fun _ sl hsl => by
  obtain rfl := List.mem_singleton.1 hsl
  exact of_raw (s₀ := .vcw) rfl (raw_packVcw (op := 0x14) (by decide) e)
theorem vrsq (e : Vcw) : Statement (.vrsq e) := fun _ sl hsl => by
  obtain rfl := List.mem_singleton.1 hsl
  exact of_raw (s₀ := .vcw) rfl (raw_packVcw (op := 0x15) (by decide) e)
theorem vexp2 (e : Vcw) : Statement (.vexp2 e) := fun _ sl hsl => by
  obtain rfl := List.mem_singleton.1 hsl
  exact of_raw (s₀ := .vcw) rfl (raw_packVcw (op := 0x16) (by decide) e)
theorem vlog2 (e : Vcw) : Statement (.vlog2 e) := fun _ sl hsl => by
  obtain rfl := List.mem_singleton.1 hsl
  exact of_raw (s₀ := .vcw) rfl (raw_packVcw (op := 0x17) (by decide) e)
theorem vtanh (e : Vcw) : Statement (.vtanh e) := fun _ sl hsl => by
  obtain rfl := List.mem_singleton.1 hsl
  exact of_raw (s₀ := .vcw) rfl (raw_packVcw (op := 0x18) (by decide) e)
theorem vperm (e : Vcw) : Statement (.vperm e) := fun _ sl hsl => by
  obtain rfl := List.mem_singleton.1 hsl
  exact of_raw (s₀ := .vcw) rfl (raw_packVcw (op := 0x19) (by decide) e)
theorem vxc (e : Vcw) : Statement (.vxc e) := fun _ sl hsl => by
  obtain rfl := List.mem_singleton.1 hsl
  exact of_raw (s₀ := .vcw) rfl (raw_packVcw (op := 0x1A) (by decide) e)
theorem vbc (e : Vcw) : Statement (.vbc e) := fun _ sl hsl => by
  obtain rfl := List.mem_singleton.1 hsl
  exact of_raw (s₀ := .vcw) rfl (raw_packVcw (op := 0x1B) (by decide) e)
theorem vext (e : Vcw) : Statement (.vext e) := fun _ sl hsl => by
  obtain rfl := List.mem_singleton.1 hsl
  exact of_raw (s₀ := .vcw) rfl (raw_packVcw (op := 0x1C) (by decide) e)
theorem viota (e : Vcw) : Statement (.viota e) := fun _ sl hsl => by
  obtain rfl := List.mem_singleton.1 hsl
  exact of_raw (s₀ := .vcw) rfl (raw_packVcw (op := 0x1D) (by decide) e)
theorem vscan (e : Vcw) : Statement (.vscan e) := fun _ sl hsl => by
  obtain rfl := List.mem_singleton.1 hsl
  exact of_raw (s₀ := .vcw) rfl (raw_packVcw (op := 0x1E) (by decide) e)
theorem vflg (e : Vcw) : Statement (.vflg e) := fun _ sl hsl => by
  obtain rfl := List.mem_singleton.1 hsl
  exact of_raw (s₀ := .vcw) rfl (raw_packVcw (op := 0x1F) (by decide) e)
theorem microcodeVcw (e : Vcw) (ent : BitVec 4) : Statement (.microcodeVcw e ent) := fun _ sl hsl => by
  obtain rfl := List.mem_singleton.1 hsl
  refine of_raw (s₀ := .vcw) rfl ((raw_packVcw (op := 0xF0 + ent.toNat) (by have := ent.isLt; omega) e).trans ?_)
  have h : ∀ k < 16, rawVcw e (0xF0 + k) = some (.microcodeVcw e (.ofNat _ k)) := by
    intro k hk
    iterate 16 (rcases k with _ | k; · rfl)
    omega
  rw [h _ ent.isLt, BitVec.ofNat_toNat, BitVec.setWidth_eq]
theorem cwaitTimeout (bank : Nat) : Statement (.cwaitTimeout bank) := fun _ _ h => nomatch h
theorem tdispRequest (vf : Nat) (req : TdiReq) : Statement (.tdispRequest vf req) := fun _ _ h => nomatch h
theorem vfEnable (vf ctx : Nat) : Statement (.vfEnable vf ctx) := fun _ _ h => nomatch h
theorem sdrWrite (val : BitVec 64) : Statement (.sdrWrite val) := fun _ _ h => nomatch h
theorem savedBankBind (idx : Nat) (place : Place) : Statement (.savedBankBind idx place) := fun _ _ h => nomatch h
theorem trapRecordWrite : Statement .trapRecordWrite := fun _ _ h => nomatch h
theorem versionCollect : Statement .versionCollect := fun _ _ h => nomatch h
theorem ticketUpdatePerform : Statement .ticketUpdatePerform := fun _ _ h => nomatch h
theorem launchComplete : Statement .launchComplete := fun _ _ h => nomatch h
theorem contextFormComplete : Statement .contextFormComplete := fun _ _ h => nomatch h
theorem shootdownProcess : Statement .shootdownProcess := fun _ _ h => nomatch h
theorem unloadComplete : Statement .unloadComplete := fun _ _ h => nomatch h
theorem getVersion : Statement .getVersion := fun _ _ h => nomatch h
theorem getCapabilities : Statement .getCapabilities := fun _ _ h => nomatch h
theorem negotiateAlgorithms : Statement .negotiateAlgorithms := fun _ _ h => nomatch h
theorem getDigests : Statement .getDigests := fun _ _ h => nomatch h
theorem getCertificate : Statement .getCertificate := fun _ _ h => nomatch h
theorem challenge : Statement .challenge := fun _ _ h => nomatch h
theorem getMeasurements : Statement .getMeasurements := fun _ _ h => nomatch h
theorem keyExchange : Statement .keyExchange := fun _ _ h => nomatch h
theorem finish : Statement .finish := fun _ _ h => nomatch h
theorem coldStart : Statement .coldStart := fun _ _ h => nomatch h
theorem warmStart : Statement .warmStart := fun _ _ h => nomatch h
theorem powerLoss : Statement .powerLoss := fun _ _ h => nomatch h
theorem bucketRefill : Statement .bucketRefill := fun _ _ h => nomatch h

end Sys2Proof.Laws.RawRoundTrip
end

