-- ==== Sys2Proof/Laws/Syllable.lean ====
section
/-! SUPPORT. What every syllable shares: it has no effect when its predicate is 0, and takes its effect when nothing
forbids it. -/

namespace Sys2Proof.Machine

open Sys2Proof


/-- A syllable whose predicate is 0 does nothing (R49). -/
theorem State.syl_skips {s : State} {i : Instr} {c : Ctl} (cs : List Cause) (eff : State → State)
    (h : s.pred c = false) : s.syl i c cs eff = s.draw := by
  simp [State.syl, h]

/-- A syllable that performs and has no cause takes its effect. -/
theorem State.syl_performs {s : State} {i : Instr} {c : Ctl} {cs : List Cause} (eff : State → State)
    (h : s.Performs i c) (hc : s.cur.phase = .commit ∨ cs = []) : s.syl i c cs eff = (eff s).draw := by
  obtain ⟨h1, h2, h3, h4⟩ := h
  have hu : s.unlessBarred i eff = eff s := by
    cases hr : s.b.region with
    | none => simp [State.unlessBarred, hr]
    | some r => simp [State.unlessBarred, hr, h4 (by simp [hr])]
  cases hp : s.cur.phase with
  | commit => simp [State.syl, h1, hp, hu]
  | collect => exact absurd hp h2
  | alone =>
    have hcs : cs = [] := by simpa [hp] using hc
    simp [State.syl, h1, hp, hu, hcs, h3 hp, worst, leastBy]

/-- While the checks of an issue are gathered a syllable changes nothing but what they find (R48). -/
theorem State.syl_collects {s : State} {i : Instr} {c : Ctl} (cs : List Cause) (eff : State → State)
    (h : s.cur.phase = .collect) :
    ∃ found, s.syl i c cs eff = { s.draw with cur := { s.cur with found := found } } := by
  cases hp : s.pred c with
  | false => exact ⟨s.cur.found, by rw [State.syl_skips _ _ hp]; rfl⟩
  | true => simp only [State.syl, hp, h]; exact ⟨_, rfl⟩

/-- A syllable that stands alone outside a region takes the first of its traps (R353). -/
theorem State.syl_traps {s : State} {i : Instr} {c : Ctl} {cs : List Cause} {x : Cause} (eff : State → State)
    (hp : s.pred c = true) (ha : s.cur.phase = .alone) (hr : s.b.region = none)
    (hw : worst (s.poisonCause i ++ cs) = some x) : s.syl i c cs eff = (s.takeTrap x).draw := by
  simp [State.syl, hp, ha, hr, hw]

/-- In an open region the same trap aborts the region, whether or not the syllable may stand there (R293, R294). -/
theorem State.syl_aborts {s : State} {i : Instr} {c : Ctl} {cs : List Cause} {x : Cause} (eff : State → State)
    (hp : s.pred c = true) (ha : s.cur.phase = .alone) (hr : s.b.region.isSome = true)
    (hw : worst (s.poisonCause i ++ cs) = some x) : s.syl i c cs eff = (s.abortSync 6 x.num 0).draw := by
  simp [State.syl, hp, ha, hr, hw]

/-- A syllable that is not speculable and raises no trap aborts an open region (R293, R294). -/
theorem State.syl_barred {s : State} {i : Instr} {c : Ctl} {n : Nat} {cs : List Cause} (eff : State → State)
    (hp : s.pred c = true) (ha : s.cur.phase = .alone) (hr : s.b.region.isSome = true) (hn : Instr.nspec i = some n)
    (hw : worst (s.poisonCause i ++ cs) = none) : s.syl i c cs eff = (s.abortSync 5 n 0).draw := by
  simp [State.syl, State.unlessBarred, hp, ha, hr, hn, hw]

/-- Taking a trap is entering at the own vector or reflecting it, and nothing else (R332, R356). -/
theorem State.takeTrap_cases (s : State) (c : Cause) :
    (s.takesOwn c = true ∧ s.takeTrap c = s.modB (·.enter c (s.epcOf c))) ∨
      (s.takesOwn c = false ∧ s.takeTrap c = s.reflect c) := by
  cases h : s.takesOwn c <;> simp [State.takeTrap, h]

end Sys2Proof.Machine
end

