-- ==== Sys2Proof/Tests/Slice0.lean ====
section
/-! SUPPORT. Tests of the model: words written out from the encodings of the spec, ill-formed terms that the checks refuse, single
steps with the results that the spec's examples give, and for every claim under Certificates/Slice0 a concrete state and operands
that meet its hypotheses (`test_w_<claim>`, where the claims are those that the parts of an obligation name). -/

open Sys2Proof Sys2Proof.Machine

set_option linter.unusedVariables false
set_option maxRecDepth 20000

namespace Sys2Proof.Tests

/-! ### Small machines -/

/-- A bank bound in whole mode for the root on core 0, with a few registers set. -/
def demoBank : Bank :=
  { Bank.fresh 0 with
    bound := true, uid := 2048, pri := 2, mode := .whole
    sr := [(1, 7), (2, 3), (5, 0x100)], ar := [(1, 64), (2, 0x200)]
    pc := 0x40, npc := 0x48, fall := 0x48, len := 8, iss := 5 }

/-- A machine on which that bank alone is bound. -/
def demo : State :=
  { State.reset with b := demoBank, cores := [(0, { Core.reset with a := { SlotMem.zero with partw := 0x0408 }, cyc := 10 })] }

/-- No predicate, no hold. -/
def always : Ctl := ⟨false, 0, false⟩

/-- Under f1, which is 0. -/
def never : Ctl := ⟨false, 1, false⟩

/-- A syllable takes effect where the four conditions hold. -/
theorem performs_of {s : State} {i : Instr} {c : Ctl}
    (h : s.pred c = true ∧ s.cur.phase ≠ .collect ∧ (s.cur.phase = .alone → s.poisonCause i = []) ∧
      (s.b.region.isSome = true → Instr.nspec i = none)) : s.Performs i c :=
  ⟨h.1, h.2.1, h.2.2.1, h.2.2.2⟩

/-- The same machine with a page table of the root that maps the first 64 KiB at frame 1, and the bundle MOVI s3, 8 at 0x40. -/
def demoM : State :=
  { demo with mem := [(1, 0x10), (7, 0x80), (0x1001, 0x20), (0x1007, 0x80), (0x2001, 0x30), (0x2007, 0x80), (0x3000, 0x20),
      (0x3002, 1), (0x3006, 0x80), (0x3007, 0xFF), (0x10045, 0x30), (0x10047, 0x12), (0x10048, 8), (0x10049, 0xC0)] }

theorem decode_ok {sl : Slot} {w : Nat} {i : Instr} (h : decode? sl w = some i) : decodeSyl sl w = .ok i := by
  unfold decode? at h; split at h <;> simp_all

/-- The state that an outcome answers. -/
def nextOf : Host.Outcome State Fault Refusal → State
  | .next t => t
  | _ => State.reset

theorem next_of {o : Host.Outcome State Fault Refusal} (h : (match o with | .next _ => true | _ => false) = true) :
    o = .next (nextOf o) := by
  cases o <;> first | rfl | simp at h

theorem next_has {o : Host.Outcome State Fault Refusal} {p : State → Prop} (h : p (nextOf o)) : ∀ g, o = .next g → p g := by
  intro g e; subst e; exact h

/-- The leaf of that page table for the first 64 KiB. -/
def demoLeaf : Leaf := ⟨0, 0, 1, 1, true, true, 0x3F, false, false, 0, 0xFF80000000010020⟩

/-- A region that the bundle at 0x40 opened, with 0x80 as its label. -/
def demoRegion : Region :=
  ⟨false, false, 0x40, 0x80, ⟨[(1, 9)], [], 1, [], [], [], [], 0, [], [], []⟩, [], [], [], [], [], [], [], false, [], [], 4⟩

/-- The bundle of `demoM` with a reserved header bit set. -/
def demoLow : State := { demoM with mem := demoM.mem.take 10 ++ [(0x10040, 1)] ++ demoM.mem.drop 10 }

theorem ok_of {ε α : Type} [DecidableEq α] {e : Except ε α} {x : α}
    (h : (match e with | .ok y => decide (y = x) | .error _ => false) = true) : e = .ok x := by
  cases e <;> simp_all

theorem err_as {ε α : Type} [DecidableEq ε] {e : Except ε α} {x : ε}
    (h : (match e with | .error y => decide (y = x) | .ok _ => false) = true) : e = .error x := by
  cases e <;> simp_all

/-- What a reading answers, or a value in its place. -/
def okOf {ε α : Type} (d : α) : Except ε α → α
  | .ok y => y
  | .error _ => d

theorem ok_is {ε α : Type} {d : α} {e : Except ε α} (h : (match e with | .ok _ => true | .error _ => false) = true) :
    e = .ok (okOf d e) := by
  cases e <;> simp_all [okOf]

theorem ok_pair {ε α β : Type} {d : α × β} {e : Except ε (α × β)} (h : (match e with | .ok _ => true | .error _ => false) = true) :
    e = .ok ((okOf d e).1, (okOf d e).2) := by
  cases e <;> simp_all [okOf]

/-- The fault of a reading, or a fault in its place. -/
def errOf {α : Type} : Except WalkFault α → WalkFault
  | .ok _ => ⟨0, 0⟩
  | .error f => f

theorem err_is {α : Type} {e : Except WalkFault α} (h : (match e with | .ok _ => true | .error _ => false) = false) :
    e = .error (errOf e) := by
  cases e <;> simp_all [errOf]

/-- A kernel of one sequencer in whole mode. -/
def demoKern : Kern := ⟨.whole, 0x0408, 4, [], [], [], 0, [], [], 0x40, none, 0⟩

/-- The machine with a syllable of slot 3 in hand. -/
def demoV : State := { demo with cur := ⟨0, 3, 0, 0, .alone, []⟩ }

/-- The machine with a packet group in s8 to s11. -/
def demoC : State :=
  { demo with b := { demo.b with sr := [(1, 0x40), (8, 0x10000), (9, 0x40), (10, 0x100000040), (11, 0x4000000040)] } }

/-- A packet of copy queue k0: kind, first, second and third scalar, started, done. -/
def demoPkt (kind : PktKind) (p0 p1 p2 : DWord) (started done : Bool) : Pkt :=
  ⟨kind, 0, p0, p1, p2, 0, true, 3, false, false, 0, none, none, false, started, 0, 0, done, 0, [], false, none, none, 4, 5, false⟩

/-- A machine whose k0 of column 0 holds some packets. -/
def demoQ (s : State) (ps : List Pkt) : State := { s with b := { s.b with queues := [(0, ⟨ps, false, false, 0⟩)] } }

/-- The machine with a context 1 below the root, whose second stage maps its pages 0 and 1. -/
def demoT : State :=
  { demoM with ctxs := [(0, Ctx.root), (1, { Ctx.new 0 1 0 with st := .run, s2 := [(0, ⟨0, true, true, false, 0x3F, false, false, 0, 0⟩), (1, ⟨1, true, true, false, 0x3F, false, false, 0, 0⟩)] })] }

/-- The machine with a loaded kernel of handle 2, a packet group for POST in s8 on and one for LAUNCH in s12 on. -/
def demoW : State :=
  { demoM with b := { demo.b with sr := [(8, 0x40), (9, 0x200000000), (12, 0x200000000), (13, 0x40)] }, objs := [(1, ⟨0, [demoKern], [], [], [], none, true, 0⟩)] }

/-- A launch of that kernel. -/
def demoLaunch : Launch := ⟨1, 0, 2, 1, [0, 5, 6], 0x60, 3, none, false, [], []⟩

/-- A form of the bank of `demo` that waits. -/
def demoForm (kind : FormKind) (ops : List DWord) (phase : Nat := 0) : Form := ⟨kind, 0, 0, 9, ops, 0, 5, 9, phase⟩

/-- A machine whose bank waits for some forms. -/
def demoF (s : State) (fs : List Form) : State := { s with b := { s.b with forms := fs } }

theorem smap_one {α : Type} {d x : α} {k n : Nat} (h : n ≠ k) : Smap.get d [(k, x)] n = d := by
  simp [Smap.get, Smap.find, h]

/-- A transaction whose one held packet writes line 512 of a versioned page, whose versions are `m`. -/
def demoTx (m : List (Nat × Vers)) : State :=
  { demo with
    mem := demoM.mem.take 7 ++ [(0x3002, 1), (0x3006, 0xC0), (0x3007, 0xFF)], vctr := 9, vpool := 1, vers := m
    b := { demo.b with
      region := some { demoRegion with txn := true, pkts := [(0, 0, demoPkt (.gst 8) 0x60 0x40 0x40 false false)] }
      forms := [demoForm .txc [0]], vsnp := 0x8000000000000007 } }

/-- A machine whose context 1 has a child context 2, with a form of the root that waits. -/
def demoX (f : Form) (st : CtxSt) : State :=
  { demoT with
    b := { demo.b with forms := [f] }
    ctxs := [(0, Ctx.root), (1, { Ctx.new 0 1 0 with st := st }), (2, { Ctx.new 1 2 0 with st := st })] }

theorem smap_range {n k : Nat} (h : k < n) :
    (Smap.find ((List.range n).map fun i => (i, Ctx.root)) k).isSome = true := by
  have : ∀ l : List Nat, k ∈ l → (Smap.find (l.map fun i => (i, Ctx.root)) k).isSome = true := by
    intro l; induction l with
    | nil => simp
    | cons a l ih => intro hk; by_cases e : k = a <;> simp_all [Smap.find]
  exact this _ (by simpa using h)

/-- The state of an access that is performed, or a state in its place. -/
def accOf : Access → State
  | .ok t => t
  | _ => demo

theorem acc_is {e : Access} (h : (match e with | .ok _ => true | _ => false) = true) : e = .ok (accOf e) := by
  cases e <;> simp_all [accOf]

theorem smap_only {α : Type} {x : α} {k n : Nat} (h : n ≠ k) : Smap.find [(k, x)] n = none := by
  simp [Smap.find, h]

/-- A machine whose context 1 has a trap ring of 16 records at 0x1000 and a record to come; its page 0 can be written or not. -/
def demoRing (trt : BitVec 32) (ok : Bool) : State :=
  { demoT with
    firm := []
    ctxs := [(0, Ctx.root), (1, { Ctx.new 0 1 0 with
      st := .run, trr := 0x8000000000001004, trt := trt
      s2 := [(0, ⟨0, true, ok, false, 0x3F, false, false, 0, 0⟩), (1, ⟨1, true, ok, false, 0x3F, false, false, 0, 0⟩)] })]
    recs := [⟨0, 1, ⟨63, 0, 0, 0, 0, 0, true, .before, false, none⟩, 1, 1, 2049, 0x40, 0, 0, false, true⟩] }

theorem mem_as {s : State} {m : Memory} (h : s.mem = m) : s = { s with mem := m } := by
  subst h; rfl

/-- The ring's machine once the fields of the record are in memory. -/
def demoRec : State :=
  let r : Rec := ⟨0, 1, ⟨63, 0, 0, 0, 0, 0, true, .before, false, none⟩, 1, 1, 2049, 0x40, 0, 0, false, true⟩
  ((demoRing 15 true).draw.okraPut 1 0x13C0 (toBytes 8 (63 * 2 ^ 40 + 2 ^ 28 + 2 ^ 17 + 2 ^ 16) ++ toBytes 8 r.pc.toNat ++
    toBytes 8 r.cause.ead.toNat ++ toBytes 8 r.cause.edt.toNat ++ toBytes 8 (r.g1.toNat * 2 ^ 32 + r.g2.toNat) ++ List.replicate 24 0)).1

theorem one_of_two {α : Type} {a b x : α} (h : x ∈ [a, b]) : x = a ∨ x = b := by
  simpa using h

/-- The bytes other than 0 of some dwords, one after another. -/
def demoCells (a : Nat) (ds : List Nat) : Memory :=
  ((List.range (8 * ds.length)).map fun i => (a + i, BitVec.ofNat 8 (ds.getD (i / 8) 0 / 256 ^ (i % 8)))).filter fun c => c.2 != 0

/-- A packet of user queue 0, with priority 1, at address 0x400, with the kernel handle 2 in 0x500. -/
def demoH (type : Nat) (ds : List Nat) : State :=
  { demoW with
    firm := []
    mem := demoM.mem ++ demoCells 0x10400 ((2 ^ 63 + type * 2 ^ 48 + 2 ^ 45) :: 0 :: ds) ++ [(0x10500, 2)]
    uqs := [(0, ⟨0xA400000000000400, 0, 1, none⟩)] }

/-- The state that the reading of a packet leaves, and the packet. -/
def qpktOf : Option (State × QPkt × Option Nat) → State × QPkt
  | some (w, p, _) => (w, p)
  | none => (demo, ⟨0, 0, []⟩)

theorem pkt_is {o : Option (State × QPkt × Option Nat)} (h : (match o with | some (_, _, none) => true | _ => false) = true) :
    o = some ((qpktOf o).1, (qpktOf o).2, none) := by
  cases o with
  | none => simp at h
  | some x => obtain ⟨w, p, _ | _⟩ := x <;> simp_all [qpktOf]

theorem some_is {α : Type} {d : α} {e : Option α} (h : e.isSome = true) : e = some (e.getD d) := by
  cases e <;> simp_all

/-! ### Decoding -/

/-- R102, MOVI s3, 8. -/
theorem test_decode_movi : decode? .s 0b0_0010010_000_0_000011_00000000001000 = some (.movi always 3 8) := by
  decide

/-- R102, MOVHI s3, 0x26AF. -/
theorem test_decode_movhi : decode? .s 0b0_0010011_000_0_000011_10011010101111 = some (.movhi always 3 0x26AF) := by
  decide

/-- R104, CMP.lt f1, s9, s0. -/
theorem test_decode_cmp : decode? .s 0b0_0010100_000_0_0001_010_001001_0_000000 = some (.cmp always 1 2 9 false 0) := by
  decide

/-- R104, (f1) SUB s9, s0, s9. -/
theorem test_decode_sub : decode? .s 0b0_0000001_001_0_001001_000000_0_0_001001 = some (.sub ⟨false, 1, false⟩ 9 0 false 9) := by
  decide

/-- LOOP of 4 passes, to 32 parcels on. -/
theorem test_decode_loopImm : decode? .s 0b00011101_000_0_1_00000100_00000100000 = some (.loopImm always 4 32) := by
  decide

/-- TRAP 3. -/
theorem test_decode_trap : decode? .s 0b01011000_000_0_000000000000000_00011 = some (.trap always 3) := by
  decide

/-- SYSRD s4, 0x700. -/
theorem test_decode_sysrd : decode? .s 0b0_1011010_000_0_000100_00011100000000 = some (.sysrd always 4 0x700) := by
  decide

/-- PWRACQ s6. -/
theorem test_decode_pwracq : decode? .s 0b0_1011100_000_0_000110_00000000000000 = some (.pwracq always 6) := by
  decide

/-- MCLD s3, s10. -/
theorem test_decode_mcld : decode? .s 0b0_1100011_000_0_000011_001010_00000000 = some (.mcld always 3 10) := by
  decide

/-- CTXSTOP s3, s6, s12. -/
theorem test_decode_ctxstop : decode? .s 0b0_1001111_000_0_0011_000011_000110_0000 = some (.ctxstop always 3 3 6) := by
  decide

/-- SHOOT s9, s10, s11. -/
theorem test_decode_shoot : decode? .s 0b0_1010100_000_0_001001_001010_001011_00 = some (.shoot always 9 10 11) := by
  decide

/-- TQGET. -/
theorem test_decode_tqget : decode? .s 0b0_0101101_000_0_1000_00011_010101_00000 = some (.tqget always 8 3 21) := by
  decide

/-- POST. -/
theorem test_decode_post : decode? .s 0b0_0110000_000_0_0010_011_0000000000000 = some (.post always 2 3) := by
  decide

/-- SPAT.cnt s7, 2. -/
theorem test_decode_spat : decode? .s 0b0_0110010_000_0_000111_010_1_0000000000 = some (.spat always 7 2 true) := by
  decide

/-- LDV v0, [a1], 17. -/
theorem test_decode_ldv : decode? .l 0b0_00010_000_0_0_00000000000_00001_10001 = some (.ldv always false 0 1 17) := by
  decide

/-- FLD.i32 s5, [a6], 40. -/
theorem test_decode_fld : decode? .l 0b0_01000_000_0_000101_00110_100_00101000 = some (.fld always 5 6 4 40) := by
  decide

/-- LDG.i32 s5, [a1], 1. -/
theorem test_decode_ldgScalar : decode? .l 0b0_01111_000_0_0_000101_00001_100_0000001 = some (.ldgScalar always 5 1 4 1) := by
  decide

/-- ADRSET a2, 0x80. -/
theorem test_decode_adrsetImm : decode? .l 0b0_01100_000_0_00010_1_0000000010000000 = some (.adrsetImm always 2 0x80) := by
  decide

/-- ST.i64 s9, [a3], 24. -/
theorem test_decode_st : decode? .w 0b0_00001_000_0_001001_00011_11_0_00011000 = some (.st always 9 3 3 24) := by
  decide

/-- CPY.out. -/
theorem test_decode_cpyOut : decode? .c 0b0_000000_000_0_01_0010_1_0010_1000000000 = some (.cpyOut always 1 2 true 2) := by
  decide

/-- GLD. -/
theorem test_decode_gld : decode? .c 0b0_000101_000_0_10_010110_010100_10_1_0011 = some (.gld always 2 22 20 2 true 3) := by
  decide

/-- AADD.n64.acqrel. -/
theorem test_decode_aadd : decode? .c 0b0_001000_000_0_00_0011_001001_1_0_11_0001_0 = some (.aadd always 0 3 9 true 3 1) := by
  decide

/-- CWAIT cn2, 1. -/
theorem test_decode_cwaitImm : decode? .c 0b0_010001_000_0_0010_0_1_0000000001_00000 = some (.cwaitImm always 2 false 1) := by
  decide

/-- QADD.i64 q0. -/
theorem test_decode_qadd : decode? .q 0b0_0000_000_0_00_10_1_000000000000000000 = some (.qadd always 0 2 true) := by
  decide

/-- QDRN s9, q0. -/
theorem test_decode_qdrn : decode? .q 0b0_0011_000_0_00_001001_0_00000000000000 = some (.qdrn always 0 9 false) := by
  decide

/-- MMA. -/
theorem test_decode_mma : decode? .x 0b0000_0000_0000_0000_0000_0000_0001_0001_0010_1100_0000_0010 = some (.mma always 0 false 1 2 2 6 0 true false) := by
  decide

/-- TROW s5. -/
theorem test_decode_trow : decode? .x 0b0000_1110_0000_0010_1000_0000_0000_0000_0000_0000_0000_0000 = some (.trow always 5 false) := by
  decide

/-- TST.bf16 [a4], t0, xs0. -/
theorem test_decode_tst : decode? .x 0b0000_1000_0000_0000_0000_0000_0100_0101_0000_0000_0000_0000 = some (.tst always 0 false 4 10 0 false false) := by
  decide

/-- R151, the entry in bits: VFMA.f32.rtz v10, v11, s7, v12. -/
theorem test_decode_vfma : decode? .vcw (0x034000500B000030 * 2 ^ 192 + 0x00000000088E0000 * 2 ^ 128) =
    some (.vfma ⟨8, 0, 10, 11, 0, 12, 0, 0, 0, 0, 0, false, false, 1, false, false, false, true, 7, 0⟩) := by
  decide

/-- The entry mulq of the spec's kernel: VMUL.i32 v4, v0, v2 with a step of 1 on each and TQ. -/
theorem test_decode_vmul : decode? .vcw (0x0210002000004000 * 2 ^ 192 + 0x0404040001000000 * 2 ^ 128) =
    some (.vmul ⟨2, 0, 4, 0, 2, 0, 1, 1, 1, 0, 0, false, false, 0, false, false, true, false, 0, 0⟩) := by
  decide

/-- R153, VCWLD 16, s4, 4. -/
theorem test_decode_vcwld : decodeTableWord 32 0x27008086 = some (.vcwld always 16 4 3) := by
  decide

/-- R47: a syllable of control flow cannot be held. -/
theorem test_refuses_held_transfer : decode? .s (0x1D082020 + 2 ^ 31) = none := by
  decide

/-- R46: a word with a reserved bit set is no instruction. -/
theorem test_refuses_reserved_bit : decode? .s (0x3D030000 + 1) = none := by
  decide

/-- R46: an unassigned opcode is no instruction. -/
theorem test_refuses_unassigned : decode? .s 0x16000000 = none ∧ decode? .l 0x40000000 = none ∧ decode? .vcw (0x20 * 2 ^ 248) = none := by
  decide

/-! ### Ill-formed terms that the checks refuse -/

/-- R103: EXT with WC = 3. -/
theorem test_illformed_field : (Instr.ext always 3 1 3 true 0).fieldsOk = false ∧ (Instr.ext always 3 1 3 true 0).wellFormed = false := by
  decide

/-- R313: CTXRUN has one encoding, which the decoder reads as another constructor. -/
theorem test_illformed_canonical : (Instr.ctxrunSkip always 3 1 2).canonical = false ∧ (Instr.ctxrunSkip always 3 1 2).wellFormed = false := by
  decide

/-- A column, slot, queue, buffer, priority, die or place that does not exist. -/
theorem test_illformed_units :
    colOk 4 = false ∧ queueOk 4 = false ∧ priOk 8 = false ∧ Place.ok ⟨0, 4, false⟩ = false ∧ (Instr.mmasRow 0 4).wellFormed = false ∧
    (Instr.packetStart 0 0 4).wellFormed = false ∧ (Instr.waitSyllableExecute 0 0 8).wellFormed = false ∧
    (Instr.cbcWrite 0 0 8 0).wellFormed = false ∧ (Instr.launchBind 8 []).wellFormed = false ∧
    (Instr.launchBind 0 [⟨0, 4, false⟩]).wellFormed = false ∧ (Instr.taskDispatch 8 0 ⟨0, 0, false⟩).wellFormed = false ∧
    (Instr.savedBankBind 0 ⟨0, 4, true⟩).wellFormed = false := by
  decide

theorem test_wellformed : (Instr.ext always 3 1 2 true 4).wellFormed = true ∧ (Instr.launchBind 7 [⟨159, 3, true⟩]).wellFormed = true := by
  decide

/-! ### One step, with results from the spec's examples -/

/-- The value that an instruction of the machine has on its way at the end. -/
def lastVal (i : Instr) (s : State) : Option Nat := ((nextOf (exec i s)).b.pend.getLast?).map (·.val)

/-- The machine with some values in s1 and s2. -/
def demoS (x y : DWord) : State := { demo with b := { demo.b with sr := [(1, x), (2, y)] } }

/-- R99: DIV of -7 by 2 gives -3, and REM gives -1. -/
theorem test_div : lastVal (.div always 3 1 false false 2) (demoS (-7) 2) = some (2 ^ 64 - 3) ∧
    lastVal (.rem always 3 1 false false 2) (demoS (-7) 2) = some (2 ^ 64 - 1) := by
  decide +kernel

/-- R99: DIV.n64 of 7 by 0 gives 2^64 - 1, and REM gives 7; the least number by -1 gives itself and 0. -/
theorem test_div_corners : lastVal (.div always 3 1 false true 2) (demoS 7 0) = some (2 ^ 64 - 1) ∧
    lastVal (.rem always 3 1 false true 2) (demoS 7 0) = some 7 ∧
    lastVal (.div always 3 1 false false 2) (demoS 0x8000000000000000 (-1)) = some (2 ^ 63) ∧
    lastVal (.rem always 3 1 false false 2) (demoS 0x8000000000000000 (-1)) = some 0 := by
  decide +kernel

/-- R102: MOVHI s3, 0x26AF on 8 gives 0x226AF. -/
theorem test_movhi : lastVal (.movhi always 1 0x26AF) (demoS 8 0) = some 0x226AF := by
  decide +kernel

/-- R103: EXT.i16 s4, s5, 6 of 0x8001_0000_0000_0000. -/
theorem test_ext : lastVal (.ext always 4 1 1 true 6) (demoS 0x8001000000000000 0) = some 0xFFFFFFFFFFFF8001 := by
  decide +kernel

/-- R98: a shift uses bits [5:0] of the register; SUB wraps. -/
theorem test_shift_sub : lastVal (.shl always 3 1 false 2) (demoS 3 65) = some 6 ∧ lastVal (.sub always 3 1 false 2) (demoS 0 1) = some (2 ^ 64 - 1) := by
  decide +kernel

/-- R101: a value of zero has 64 leading zeros. -/
theorem test_clz : lastVal (.clz always 3 1) (demoS 0 0) = some 64 := by
  decide +kernel

/-! ### The hypotheses of the claims are met -/

theorem test_w_EncodeAndDecodeAgree :
  (let i : Instr := .movi always 3 8; let sl : Slot := .s; i.wellFormed = true ∧ sl ∈ i.slots) ∧ (let sl : Slot := .s;
    let w : Nat := 0x1200C008; let i : Instr := .movi always 3 8; decodeSyl sl w = .ok i) := by
  dsimp only
  refine ⟨⟨?_, ?_⟩, decode_ok (by decide)⟩ <;> first | exact performs_of (by decide) | decide | decide +kernel

theorem test_w_ResetState :
  let n := 1; n ≠ 0 := by
  dsimp only
  first | exact performs_of (by decide) | decide | decide +kernel

theorem test_w_StepRunsTheNextMove :
  (let s : State := { demo with agenda := [.droopDetect 0] }; let i : Instr := .droopDetect 0; let is : List Instr := [];
    s.agenda = i :: is ∧ (s.power = true ∨ i = .coldStart)) ∧
    (let s : State := { demo with agenda := [.droopDetect 0], power := false }; let i : Instr := .droopDetect 0;
    let is : List Instr := []; s.agenda = i :: is ∧ s.power = false ∧ i ≠ .coldStart) ∧ (let s : State := demo;
    s.agenda = [] ∧ s.power = true) ∧ (let s : State := { demo with power := false }; s.agenda = [] ∧ s.power = false) ∧
    (let s : State := demo; let i : Instr := .movi always 3 8; let nbits : Nat := 32; let w : Nat := 0x1200C008;
    decodeTableWord nbits w = some i ∧ s.power = true) := by
  dsimp only
  and_intros <;> first | exact performs_of (by decide) | decide | decide +kernel

theorem test_w_StepKeepsMemory :
  let s : State := { demo with agenda := [.droopDetect 0] }; let t : State := demo; s.MemOk ∧ step s = .next t := by
  dsimp only
  refine ⟨⟨by decide, by decide⟩, rfl⟩ <;> first | exact performs_of (by decide) | decide | decide +kernel

theorem test_w_SyllablesWriteNoMemory :
  let s : State := demo; let t : State := (demo.resS 3 8 1).draw; let i : Instr := .movi always 3 8; let c : Ctl := always;
    Instr.ctl i = some c ∧ exec i s = .next t := by
  dsimp only
  refine ⟨rfl, rfl⟩ <;> first | exact performs_of (by decide) | decide | decide +kernel

theorem test_w_RegisterFormsFrame :
  let s : State := demo; let t : State := (demo.resS 3 8 1).draw; let i : Instr := .movi always 3 8; let c : Ctl := always;
    let l : Loc := .s 3; (c = always ∧ l = .s (3 : BitVec 6).toNat) ∧ s.Performs i c ∧ exec i s = .next t := by
  dsimp only
  refine ⟨⟨rfl, rfl⟩, ?_, rfl⟩ <;> first | exact performs_of (by decide) | decide | decide +kernel

theorem test_w_PredicateFalse :
  let s : State := demo; let i : Instr := .movi never 3 8; let c : Ctl := never; Instr.ctl i = some c ∧
    (∀ d code, i ≠ .asrt d code) ∧ s.pred c = false := by
  dsimp only
  refine ⟨rfl, (by intro _ _ h; cases h), ?_⟩ <;> first | exact performs_of (by decide) | decide | decide +kernel

theorem test_w_BundleIssueRunsTheSyllable :
  let s : State := demoM; let bank : Nat := 0; let slot : Nat := 0; let w : Nat := 0x1200C008; let tmpl : Nat := 128;
    let len : Nat := 10; let i : Instr := .movi always 3 8; let c : Ctl := always;
    let hdr : BHdr := ⟨false, 0, 0, false, false, 0, false, false, 0, 0⟩; let b := s.b;
    let s1 := s.draw.enterHalf.modB fun b => { b with len := 0, fall := b.pc, taken := false, rep := 0 };
    let end_ := b.pc + .ofNat 56 len; let n := if (s1.trailer end_).isSome then len + 12 else len;
    let s2 := s1.fillLines b.pc.toNat n;
    let s3 := s2.modB fun b => { b with len := len, fall := s2.follow end_, owed := if s2.unread end_ then some (end_, false) else none };
    let s4 := { s3 with b := { s3.b with iss := s3.b.iss + 1, safe := false, yld := false, live := 0 }, cur := ⟨0, 0, 0, 0, .alone, []⟩ };
    let x : Work := ⟨0, slot, 0, 0, false, i⟩;
    let at_ (p : Phase) : State := { s4 with cur := ⟨0, slot, 0, 0, p, []⟩, fresh := s4.fresh + slot };
    let u := nextOf (exec i (at_ .commit));
    let u1 : State := { u with fresh := s4.fresh + 64, cur := ⟨0, 0, 0, 0, .alone, []⟩ };
    let u2 := if s4.clearsTrow s4.fresh x && u1.b.region.isNone then u1.dropStreams else u1;
    let v := (u2.modB (·.overtake)).fixOperands; s.b.key = bank ∧ slot < 8 ∧ slot ≠ 3 ∧ slot ≠ 4 ∧ tmpl ≠ 0 ∧
    b.bound = true ∧ s.core.frozen = false ∧ s.core.fgB = b.slotB ∧ b.issuedCyc ≠ s.now + 1 ∧ b.open_ = false ∧
    b.halted = none ∧ b.kindA = [] ∧ b.region = none ∧ b.preempt = false ∧ b.holds = [] ∧ b.fars = [] ∧ b.owed = none ∧
    (∀ r ∈ s.pwrReqs, r.1 ≠ bank) ∧ (∀ x ∈ s.rivals, x.slotB = b.slotB) ∧
    s1.fetch b.pc.toNat = .ok ⟨hdr, [⟨0, true, tmpl, 0, [(slot, w)]⟩], len⟩ ∧ decodeSyl (slotOf slot) w = .ok i ∧
    Instr.ctl i = some c ∧ c.h = false ∧ Instr.opens i = false ∧ s1.fetchWaits b.pc.toNat n = false ∧
    s3.pastLimit len = false ∧ s4.issueIllegal [x] = none ∧ s4.usedSlots x = [] ∧ s4.workStalls s4.fresh x = false ∧
    s4.queuesFull s4.fresh [x] = false ∧ s4.headCauses hdr true [x] = [] ∧ (∀ g, exec i (at_ .collect) = .next g →
    g.cur.found = []) ∧ exec i (at_ .commit) = .next u ∧ v.landingFull = false ∧ v.acceptTaken = false ∧ v.b.region = none := by
  dsimp only
  refine ⟨?_, ?_, ?_, ?_, ?_, ?_, ?_, ?_, ?_, ?_, ?_, ?_, ?_, ?_, ?_, ?_, ?_, ?_, ?_, (by decide +kernel), decode_ok (by decide), ?_, ?_, ?_, (by decide +kernel), ?_, ?_, ?_, ?_, ?_, ?_, next_has (by decide +kernel), next_of (by decide +kernel), ?_, ?_, ?_⟩ <;> first | exact performs_of (by decide) | decide | decide +kernel

theorem test_w_HoldsRepeat :
  (let b : Bank := demoBank; let ps : List (Nat × Syl) := [(0, Syl.op (.movi ⟨true, 0, false⟩ 3 8))];
    let first : Bool := true; let k : Nat := 0; let e := 0; let y := Syl.op (.movi ⟨true, 0, false⟩ 3 8); k < 8 * b.cols ∧
    ps.find? (fun e => e.1 == k) = some (e, y) ∧ first = true) ∧ (let b : Bank := demoBank;
    let ps : List (Nat × Syl) := [(0, Syl.op (.movi ⟨true, 0, false⟩ 3 8))]; let first : Bool := false; let k : Nat := 0;
    let e := 0; let y := Syl.op (.movi ⟨true, 0, false⟩ 3 8); k < 8 * b.cols ∧ ps.find? (fun e => e.1 == k) = some (e, y) ∧
    first = false) ∧
    (let b : Bank := { demoBank with holds := [(31, ⟨some (Syl.op (.movi ⟨true, 0, false⟩ 3 8)), true, 2⟩)] };
    let ps : List (Nat × Syl) := []; let first : Bool := true; let clear : Bool := false; let wait : Bool := false;
    let k : Nat := 31; let h := b.holds.get ⟨none, false, 0⟩ k; let off := clear = true ∧ first = true; k < 8 * b.cols ∧
    ps.find? (fun e => e.1 == k) = none ∧ h.act = true ∧ ¬off ∧ wait = false) ∧
    (let b : Bank := { demoBank with holds := [(31, ⟨some (Syl.op (.movi ⟨true, 0, false⟩ 3 8)), true, 2⟩)] };
    let ps : List (Nat × Syl) := []; let first : Bool := true; let clear : Bool := false; let wait : Bool := true;
    let k : Nat := 31; let h := b.holds.get ⟨none, false, 0⟩ k; let off := clear = true ∧ first = true; k < 8 * b.cols ∧
    ps.find? (fun e => e.1 == k) = none ∧ (h.act = false ∨ off ∨ wait = true) ∧ ¬off) ∧
    (let b : Bank := { demoBank with holds := [(31, ⟨some (Syl.op (.movi ⟨true, 0, false⟩ 3 8)), true, 2⟩)] };
    let ps : List (Nat × Syl) := []; let first : Bool := true; let clear : Bool := true; let wait : Bool := false;
    let k : Nat := 31; let h := b.holds.get ⟨none, false, 0⟩ k; let off := clear = true ∧ first = true; k < 8 * b.cols ∧
    ps.find? (fun e => e.1 == k) = none ∧ (h.act = false ∨ off ∨ wait = true) ∧ off) ∧
    (let b : Bank := { demoBank with holds := [(31, ⟨some (Syl.op (.movi ⟨true, 0, false⟩ 3 8)), true, 2⟩)] };
    let ps : List (Nat × Syl) := []; let first : Bool := true; let clear : Bool := false; let wait : Bool := false;
    let k : Nat := 30; let (h', xs) := b.takeHolds ps first clear wait; let h := b.holds.get ⟨none, false, 0⟩ k;
    let off := clear = true ∧ first = true; let e := ((31, ⟨some (Syl.op (.movi ⟨true, 0, false⟩ 3 8)), true, 3⟩,
    true) : Nat × Hold × Bool); k < 8 * b.cols ∧ ps.find? (fun e => e.1 == k) = none ∧ (h.act = false ∨ off ∨ wait = true) ∧
    e ∈ xs) := by
  dsimp only
  and_intros <;> first | exact performs_of (by decide) | decide | decide +kernel

theorem test_w_AluForms :
  let s : State := demo; let c : Ctl := always; let rd : BitVec 6 := 3; let ra : BitVec 6 := 1; let b : BitVec 6 := 2;
    let i : Bool := false; let m : Bool := true; s.Performs (.add c rd ra i b) c ∧ s.Performs (.sub c rd ra i b) c ∧
    s.Performs (.mul c rd ra i b) c ∧ s.Performs (.mulh c rd ra i m b) c ∧ s.Performs (.and c rd ra i b) c ∧
    s.Performs (.or c rd ra i b) c ∧ s.Performs (.xor c rd ra i b) c ∧ s.Performs (.andn c rd ra i b) c ∧
    s.Performs (.shl c rd ra i b) c ∧ s.Performs (.shr c rd ra i b) c ∧ s.Performs (.sra c rd ra i b) c ∧
    s.Performs (.min c rd ra i m b) c ∧ s.Performs (.max c rd ra i m b) c := by
  dsimp only
  and_intros <;> first | exact performs_of (by decide) | decide | decide +kernel

theorem test_w_SelectCountMoveExtend :
  let s : State := demo; let c : Ctl := always; let rd : BitVec 6 := 3; let ra : BitVec 6 := 1; let rb : BitVec 6 := 2;
    let fs : BitVec 2 := 3; let wc : BitVec 2 := 2; let imm : BitVec 14 := 8; let sg : Bool := true; let bo : BitVec 3 := 4;
    s.Performs (.sel c rd ra rb fs) c ∧ s.Performs (.clz c rd ra) c ∧ s.Performs (.popc c rd ra) c ∧
    s.Performs (.movi c rd imm) c ∧ s.Performs (.movhi c rd imm) c ∧ s.Performs (.ext c rd ra wc sg bo) c ∧ wc ≠ 3 ∧
    bo.toNat + 2 ^ wc.toNat ≤ 8 := by
  dsimp only
  and_intros <;> first | exact performs_of (by decide) | decide | decide +kernel

theorem test_w_FlagForms :
  let s : State := demo; let c : Ctl := always; let fd : BitVec 4 := 0; let fa : BitVec 4 := 1; let fb : BitVec 4 := 15;
    let tt : BitVec 4 := 6; let cc : BitVec 3 := 4; let ra : BitVec 6 := 1; let b : BitVec 6 := 63; let i : Bool := true;
    let mask : BitVec 15 := 0x7FFF; s.Performs (.cmp c fd cc ra i b) c ∧ s.Performs (.fset c mask) c ∧
    s.Performs (.fclr c mask) c ∧ s.Performs (.fop c fd fa fb tt) c := by
  dsimp only
  and_intros <;> first | exact performs_of (by decide) | decide | decide +kernel

theorem test_w_DivisionIsTruncated :
  let s : State := demo; let c : Ctl := always; let rd : BitVec 6 := 3; let ra : BitVec 6 := 1; let b : BitVec 6 := 2;
    let i : Bool := false; let m : Bool := true; s.Performs (.div c rd ra i m b) c ∧ s.Performs (.rem c rd ra i m b) c := by
  dsimp only
  and_intros <;> first | exact performs_of (by decide) | decide | decide +kernel

theorem test_w_SequencerReads :
  let s : State := demo; let c : Ctl := always; let rd : BitVec 6 := 3; let k : Bool := true; let lv : BitVec 3 := 5;
    let w : BitVec 2 := 3; s.Performs (.lidx c rd k lv) c ∧ s.Performs (.spat c rd lv k) c ∧ s.Performs (.sqid c rd) c ∧
    s.Performs (.rgst c rd) c ∧ s.Performs (.feat c rd w) c ∧ s.Performs (.cyc c rd k) c := by
  dsimp only
  and_intros <;> first | exact performs_of (by decide) | decide | decide +kernel

/-- The machine with the line at 0x40 in the half in issue, which memory does not map any more. -/
def demoHeld (h : Option (BitVec 56)) : State := { demo with b := { demo.b with lines := [(0x40, [])], hint := h } }

def isErr : Except WalkFault (List Byte) → Bool
  | .error _ => true
  | .ok _ => false

theorem held_lines {s : State} (hl : s.b.held = [(0x40, [])]) (h1 : isErr (s.readLine 64) = true)
    (h2 : isErr (s.fetchLine 128) = true) : s.segmentLines 512 64 64 = ([64], none) := by
  obtain ⟨x, e1⟩ : ∃ x, s.readLine 64 = .error x := by
    cases e : s.readLine 64 <;> simp_all [isErr]
  obtain ⟨y, e2⟩ : ∃ y, s.fetchLine 128 = .error y := by
    cases e : s.fetchLine 128 <;> simp_all [isErr]
  have e : s.fetchLine 64 = .ok [] := by
    unfold State.fetchLine
    rw [hl, show [((0x40 : BitVec 56), ([] : List Byte))].find? (fun e => e.1.toNat == 64) = some (0x40, []) from rfl, e1]
    dsimp only
    split <;> rfl
  have f : s.fetch 64 = .fault 128 y := by
    unfold State.fetch State.fetchIn
    rw [show s.fetchFrom 3 64 = ([], some (128, y)) by
      unfold State.fetchFrom; dsimp only; rw [e]
      unfold State.fetchFrom; dsimp only
      rw [show (64 / 64 * 64 + 64) / 64 * 64 = 128 from rfl, e2]; rfl]
    rfl
  unfold State.segmentLines
  rw [f]

theorem test_w_Retirement :
  (let s : State := { demo with b := { demo.b with open_ := true } }; let bank : Nat := 0; s.b.key = bank ∧
    s.b.bound = true ∧ s.core.frozen = false ∧ s.b.issuedCyc ≠ s.now + 1 ∧ s.b.open_ = true ∧ s.b.halted = none ∧
    s.b.rep = 0 ∧ s.b.barr = none ∧ s.b.waitSyl = [] ∧ s.b.safe = false ∧ s.b.yld = false ∧ s.b.forms = []) ∧
    (let s : State := { demo with b := { demo.b with open_ := true, forms := [⟨.tend, 0, 0, 0, [], 0, 5, 9, 0⟩] } };
    let bank : Nat := 0; let f := ⟨.tend, 0, 0, 0, [], 0, 5, 9, 0⟩; s.b.key = bank ∧ s.b.bound = true ∧
    s.core.frozen = false ∧ s.b.issuedCyc ≠ s.now + 1 ∧ s.b.open_ = true ∧ s.b.halted = none ∧ s.b.rep = 0 ∧
    s.b.barr = none ∧ s.b.waitSyl = [] ∧ s.b.safe = false ∧ s.b.yld = false ∧ s.b.forms = [f] ∧ f.kind = .tend ∧
    s.draw.tendDone = true) ∧
    (let s : State := { demo with b := { demo.b with open_ := true, forms := [⟨.tend, 0, 0, 0, [], 0, 5, 9, 0⟩], stores := [⟨64, [1], 4, 20, false, 0, []⟩] } };
    let bank : Nat := 0; let f := ⟨.tend, 0, 0, 0, [], 0, 5, 9, 0⟩; s.b.key = bank ∧ s.b.bound = true ∧
    s.core.frozen = false ∧ s.b.issuedCyc ≠ s.now + 1 ∧ s.b.open_ = true ∧ s.b.halted = none ∧ s.b.rep = 0 ∧
    s.b.barr = none ∧ s.b.waitSyl = [] ∧ s.b.safe = false ∧ s.b.yld = false ∧ s.b.forms = [f] ∧ f.kind = .tend ∧
    s.draw.tendDone = false ∧ s.b.kindA = [] ∧ s.b.preempt = false) := by
  dsimp only
  and_intros <;> first | exact performs_of (by decide) | decide | decide +kernel

theorem test_w_IssueTraps :
  (let s : State := demo; let bank : Nat := 0; let pc := s.b.pc.toNat;
    let s1 := s.draw.enterHalf.modB fun b => { b with len := 0, fall := b.pc, taken := false, rep := 0 };
    let f := s1.fetch pc; let l := 0x40; let e := ⟨1, 0⟩; s.b.key = bank ∧ s.b.bound = true ∧ s.core.frozen = false ∧
    s.core.fgB = s.b.slotB ∧ s.b.issuedCyc ≠ s.now + 1 ∧ s.b.open_ = false ∧ s.b.halted = none ∧ s.b.kindA = [] ∧
    s.b.preempt = false ∧ s.b.fars = [] ∧ s.b.owed = none ∧ (∀ r ∈ s.pwrReqs, r.1 ≠ bank) ∧
    (∀ x ∈ s.rivals, x.slotB = s.b.slotB) ∧ s.draw.b.asyncAbort = none ∧ f = .fault l e ∧ s.b.region = none ∧ e.cause ≠ 0) ∧
    (let s : State := { demoM with poison := [0x200] }; let bank : Nat := 0; let pc := s.b.pc.toNat;
    let s1 := s.draw.enterHalf.modB fun b => { b with len := 0, fall := b.pc, taken := false, rep := 0 };
    let s2 := s1.modB (·.dropLines (pc / 64 * 64)); let f := s1.fetch pc; let read := (s2.fetchFrom 1 pc).1;
    let h := bhdr (leNat (read.take 4)); let wrong : Prop := h.low ≠ TMARK ∧ s2.headerOk h = false;
    let power : Prop := h.opc = true ∧ rfld (s.ctx s.b.ctx).power 2 0 < h.opp; let l := 0x40; let e := ⟨0, 0⟩;
    s.b.key = bank ∧ s.b.bound = true ∧ s.core.frozen = false ∧ s.core.fgB = s.b.slotB ∧ s.b.issuedCyc ≠ s.now + 1 ∧
    s.b.open_ = false ∧ s.b.halted = none ∧ s.b.kindA = [] ∧ s.b.preempt = false ∧ s.b.fars = [] ∧ s.b.owed = none ∧
    (∀ r ∈ s.pwrReqs, r.1 ≠ bank) ∧ (∀ x ∈ s.rivals, x.slotB = s.b.slotB) ∧ s.draw.b.asyncAbort = none ∧ f = .fault l e ∧
    s.b.region = none ∧ e.cause = 0 ∧ (read.length < 4 ∨ (¬wrong ∧ ¬power))) := by
  dsimp only
  refine ⟨⟨?_, ?_, ?_, ?_, ?_, ?_, ?_, ?_, ?_, ?_, ?_, ?_, ?_, ?_, (by decide +kernel), ?_, ?_⟩, ⟨?_, ?_, ?_, ?_, ?_, ?_, ?_, ?_, ?_, ?_, ?_, ?_, ?_, ?_, (by decide +kernel), ?_, ?_, ?_⟩⟩ <;> first | exact performs_of (by decide) | decide | decide +kernel

theorem test_w_IssueTraps_header :
  (let s : State := { demoM with b := { demoM.b with pc := 0x7C }, poison := [0x201], ctxs := [(0, { Ctx.root with power := 0 })], mem := demoM.mem.take 10 ++ demoCells 0x10078 [64 * 2 ^ 32] };
    let bank : Nat := 0; let pc := s.b.pc.toNat;
    let s1 := s.draw.enterHalf.modB fun b => { b with len := 0, fall := b.pc, taken := false, rep := 0 };
    let s2 := s1.modB (·.dropLines (pc / 64 * 64)); let f := s1.fetch pc; let read := (s2.fetchFrom 1 pc).1;
    let h := bhdr (leNat (read.take 4)); let wrong : Prop := h.low ≠ TMARK ∧ s2.headerOk h = false; let l := 0x80;
    let e := ⟨0, 0⟩; s.b.key = bank ∧ s.b.bound = true ∧ s.core.frozen = false ∧ s.core.fgB = s.b.slotB ∧
    s.b.issuedCyc ≠ s.now + 1 ∧ s.b.open_ = false ∧ s.b.halted = none ∧ s.b.kindA = [] ∧ s.b.preempt = false ∧
    s.b.fars = [] ∧ s.b.owed = none ∧ (∀ r ∈ s.pwrReqs, r.1 ≠ bank) ∧ (∀ x ∈ s.rivals, x.slotB = s.b.slotB) ∧
    s.draw.b.asyncAbort = none ∧ f = .fault l e ∧ s.b.region = none ∧ e.cause = 0 ∧ 4 ≤ read.length ∧ wrong) ∧
    (let s : State := { demoM with b := { demoM.b with pc := 0x7C }, poison := [0x201], ctxs := [(0, { Ctx.root with power := 0 })], mem := demoM.mem.take 10 ++ demoCells 0x10078 [960 * 2 ^ 32] };
    let bank : Nat := 0; let pc := s.b.pc.toNat;
    let s1 := s.draw.enterHalf.modB fun b => { b with len := 0, fall := b.pc, taken := false, rep := 0 };
    let s2 := s1.modB (·.dropLines (pc / 64 * 64)); let f := s1.fetch pc; let read := (s2.fetchFrom 1 pc).1;
    let h := bhdr (leNat (read.take 4)); let wrong : Prop := h.low ≠ TMARK ∧ s2.headerOk h = false;
    let power : Prop := h.opc = true ∧ rfld (s.ctx s.b.ctx).power 2 0 < h.opp; let l := 0x80; let e := ⟨0, 0⟩;
    s.b.key = bank ∧ s.b.bound = true ∧ s.core.frozen = false ∧ s.core.fgB = s.b.slotB ∧ s.b.issuedCyc ≠ s.now + 1 ∧
    s.b.open_ = false ∧ s.b.halted = none ∧ s.b.kindA = [] ∧ s.b.preempt = false ∧ s.b.fars = [] ∧ s.b.owed = none ∧
    (∀ r ∈ s.pwrReqs, r.1 ≠ bank) ∧ (∀ x ∈ s.rivals, x.slotB = s.b.slotB) ∧ s.draw.b.asyncAbort = none ∧ f = .fault l e ∧
    s.b.region = none ∧ e.cause = 0 ∧ 4 ≤ read.length ∧ ¬wrong ∧ power) := by
  dsimp only
  refine ⟨⟨?_, ?_, ?_, ?_, ?_, ?_, ?_, ?_, ?_, ?_, ?_, ?_, ?_, ?_, (by decide +kernel), ?_, ?_, ?_, ?_⟩, ⟨?_, ?_, ?_, ?_, ?_, ?_, ?_, ?_, ?_, ?_, ?_, ?_, ?_, ?_, (by decide +kernel), ?_, ?_, ?_, ?_, ?_⟩⟩ <;> first | exact performs_of (by decide) | decide | decide +kernel

theorem test_w_IssueTraps_boundary :
  (let s : State := { demo with b := { demo.b with region := some demoRegion } }; let bank : Nat := 0;
    let pc := s.b.pc.toNat;
    let s1 := s.draw.enterHalf.modB fun b => { b with len := 0, fall := b.pc, taken := false, rep := 0 };
    let f := s1.fetch pc; let l := 0x40; let e := ⟨1, 0⟩; let r := demoRegion; s.b.key = bank ∧ s.b.bound = true ∧
    s.core.frozen = false ∧ s.core.fgB = s.b.slotB ∧ s.b.issuedCyc ≠ s.now + 1 ∧ s.b.open_ = false ∧ s.b.halted = none ∧
    s.b.kindA = [] ∧ s.b.preempt = false ∧ s.b.fars = [] ∧ s.b.owed = none ∧ (∀ r ∈ s.pwrReqs, r.1 ≠ bank) ∧
    (∀ x ∈ s.rivals, x.slotB = s.b.slotB) ∧ s.draw.b.asyncAbort = none ∧ f = .fault l e ∧ s.b.region = some r) ∧
    (let s : State := { demoM with b := { demoM.b with pc := 0x7E }, mem := demoM.mem.filter (fun e => e.1 < 0x10000) ++ [(0x10082, 0xE0), (0x10083, 0x1F), (0x100A2, 0xE0), (0x100A3, 0x1F), (0x100C2, 0xE0), (0x100C3, 0x1F), (0x100E2, 0xE0), (0x100E3, 0x1F)] };
    let bank : Nat := 0; let pc := s.b.pc.toNat;
    let s1 := s.draw.enterHalf.modB fun b => { b with len := 0, fall := b.pc, taken := false, rep := 0 };
    let f := s1.fetch pc; s.b.key = bank ∧ s.b.bound = true ∧ s.core.frozen = false ∧ s.core.fgB = s.b.slotB ∧
    s.b.issuedCyc ≠ s.now + 1 ∧ s.b.open_ = false ∧ s.b.halted = none ∧ s.b.kindA = [] ∧ s.b.preempt = false ∧
    s.b.fars = [] ∧ s.b.owed = none ∧ (∀ r ∈ s.pwrReqs, r.1 ≠ bank) ∧ (∀ x ∈ s.rivals, x.slotB = s.b.slotB) ∧
    s.draw.b.asyncAbort = none ∧ f = .illegal) ∧ (let s : State := demoLow; let bank : Nat := 0; let pc := s.b.pc.toNat;
    let s1 := s.draw.enterHalf.modB fun b => { b with len := 0, fall := b.pc, taken := false, rep := 0 };
    let f := s1.fetch pc; let x := ⟨⟨false, 0, 0, false, false, 0, false, false, 0, 1⟩, [], 4⟩;
    let end_ := s.b.pc + .ofNat 56 x.len; let n := if (s1.trailer end_).isSome then x.len + 12 else x.len; s.b.key = bank ∧
    s.b.bound = true ∧ s.core.frozen = false ∧ s.core.fgB = s.b.slotB ∧ s.b.issuedCyc ≠ s.now + 1 ∧ s.b.open_ = false ∧
    s.b.halted = none ∧ s.b.kindA = [] ∧ s.b.preempt = false ∧ s.b.fars = [] ∧ s.b.owed = none ∧
    (∀ r ∈ s.pwrReqs, r.1 ≠ bank) ∧ (∀ x ∈ s.rivals, x.slotB = s.b.slotB) ∧ s.draw.b.asyncAbort = none ∧ f = .ok x ∧
    s1.fetchWaits pc n = false ∧ (x.hdr.low ≠ 0 ∨ groupsOk x.groups = false)) := by
  dsimp only
  refine ⟨⟨?_, ?_, ?_, ?_, ?_, ?_, ?_, ?_, ?_, ?_, ?_, ?_, ?_, ?_, (by decide +kernel), ?_⟩, ⟨?_, ?_, ?_, ?_, ?_, ?_, ?_, ?_, ?_, ?_, ?_, ?_, ?_, ?_, (by decide +kernel)⟩, ⟨?_, ?_, ?_, ?_, ?_, ?_, ?_, ?_, ?_, ?_, ?_, ?_, ?_, ?_, (by decide +kernel), ?_, ?_⟩⟩ <;> first | exact performs_of (by decide) | decide | decide +kernel

theorem test_w_IssueTraps_bundle :
  (let s : State := { demoM with mem := demoM.mem.take 10 ++ demoCells 0x10040 [1297089469240836160] ++ demoCells 0x10048 [49160] };
    let bank : Nat := 0; let pc := s.b.pc.toNat;
    let s1 := s.draw.enterHalf.modB fun b => { b with len := 0, fall := b.pc, taken := false, rep := 0 };
    let f := s1.fetch pc;
    let x := ⟨⟨false, 0, 0, false, false, 0, false, false, 1, 0⟩, [⟨0, true, 128, 0, [(0, 302039048)]⟩], 10⟩;
    let end_ := s.b.pc + .ofNat 56 x.len; let n := if (s1.trailer end_).isSome then x.len + 12 else x.len;
    let s3 := s1.fillLines pc n;
    let s4 := s3.modB fun b => { b with len := x.len, fall := s3.follow end_, owed := if s3.unread end_ then some (end_, false) else none };
    let form : Prop := s4.headerOk x.hdr = true ∧ (x.hdr.ncg = true ∨ x.groups ≠ []) ∧ s4.pastLimit x.len = false;
    s.b.key = bank ∧ s.b.bound = true ∧ s.core.frozen = false ∧ s.core.fgB = s.b.slotB ∧ s.b.issuedCyc ≠ s.now + 1 ∧
    s.b.open_ = false ∧ s.b.halted = none ∧ s.b.kindA = [] ∧ s.b.preempt = false ∧ s.b.fars = [] ∧ s.b.owed = none ∧
    (∀ r ∈ s.pwrReqs, r.1 ≠ bank) ∧ (∀ x ∈ s.rivals, x.slotB = s.b.slotB) ∧ s.draw.b.asyncAbort = none ∧ f = .ok x ∧
    s1.fetchWaits pc n = false ∧ x.hdr.low = 0 ∧ groupsOk x.groups = true ∧ ¬form) ∧
    (let s : State := { demoM with mem := demoM.mem.take 10 ++ demoCells 0x10040 [1585319845392547840] ++ demoCells 0x10048 [0] };
    let bank : Nat := 0; let pc := s.b.pc.toNat;
    let s1 := s.draw.enterHalf.modB fun b => { b with len := 0, fall := b.pc, taken := false, rep := 0 };
    let f := s1.fetch pc;
    let x := ⟨⟨false, 0, 0, false, false, 0, false, false, 0, 0⟩, [⟨0, true, 128, 0, [(0, 369098752)]⟩], 10⟩;
    let end_ := s.b.pc + .ofNat 56 x.len; let n := if (s1.trailer end_).isSome then x.len + 12 else x.len;
    let s3 := s1.fillLines pc n;
    let s4 := s3.modB fun b => { b with len := x.len, fall := s3.follow end_, owed := if s3.unread end_ then some (end_, false) else none };
    let form : Prop := s4.headerOk x.hdr = true ∧ (x.hdr.ncg = true ∨ x.groups ≠ []) ∧ s4.pastLimit x.len = false;
    let slots := x.slots; let bad := slots.find? (sylBad s.b.cols x.hdr); let e := (0, none); s.b.key = bank ∧
    s.b.bound = true ∧ s.core.frozen = false ∧ s.core.fgB = s.b.slotB ∧ s.b.issuedCyc ≠ s.now + 1 ∧ s.b.open_ = false ∧
    s.b.halted = none ∧ s.b.kindA = [] ∧ s.b.preempt = false ∧ s.b.fars = [] ∧ s.b.owed = none ∧
    (∀ r ∈ s.pwrReqs, r.1 ≠ bank) ∧ (∀ x ∈ s.rivals, x.slotB = s.b.slotB) ∧ s.draw.b.asyncAbort = none ∧ f = .ok x ∧
    s1.fetchWaits pc n = false ∧ x.hdr.low = 0 ∧ groupsOk x.groups = true ∧ form ∧ bad = some e) := by
  dsimp only
  refine ⟨⟨?_, ?_, ?_, ?_, ?_, ?_, ?_, ?_, ?_, ?_, ?_, ?_, ?_, ?_, (by decide +kernel), ?_, ?_, ?_, ?_⟩, ⟨?_, ?_, ?_, ?_, ?_, ?_, ?_, ?_, ?_, ?_, ?_, ?_, ?_, ?_, (by decide +kernel), ?_, ?_, ?_, ?_, ?_⟩⟩ <;> first | exact performs_of (by decide) | decide | decide +kernel

theorem test_w_IssueTraps_syllable :
  (let s : State := { ({ demoM with mem := demoM.mem.take 10 ++ demoCells 0x10040 [37383395344384] ++ demoCells 0x10048 [0] }) with b := { ({ demoM with mem := demoM.mem.take 10 ++ demoCells 0x10040 [37383395344384] ++ demoCells 0x10048 [0] }).b with vcw := [(0, 0x20 * 2 ^ 248)] } };
    let bank : Nat := 0; let pc := s.b.pc.toNat;
    let s1 := s.draw.enterHalf.modB fun b => { b with len := 0, fall := b.pc, taken := false, rep := 0 };
    let f := s1.fetch pc; let x := ⟨⟨false, 0, 0, false, false, 0, false, false, 0, 0⟩, [⟨0, true, 16, 0, [(3, 0)]⟩], 8⟩;
    let end_ := s.b.pc + .ofNat 56 x.len; let n := if (s1.trailer end_).isSome then x.len + 12 else x.len;
    let s3 := s1.fillLines pc n;
    let s4 := s3.modB fun b => { b with len := x.len, fall := s3.follow end_, owed := if s3.unread end_ then some (end_, false) else none };
    let form : Prop := s4.headerOk x.hdr = true ∧ (x.hdr.ncg = true ∨ x.groups ≠ []) ∧ s4.pastLimit x.len = false;
    let slots := x.slots; let bad := slots.find? (sylBad s.b.cols x.hdr);
    let ps := slots.filterMap fun e => e.2.map (e.1, ·);
    let b5 : Bank := { s4.b with iss := s4.b.iss + 1, safe := x.hdr.safe, yld := x.hdr.yld, live := x.hdr.live };
    let s5 : State := { s4 with b := b5, cur := ⟨0, 0, 0, 0, .alone, []⟩ };
    let issues := (s4.b.takeHolds ps true (x.hdr.safe || x.hdr.yld) x.hdr.wait).2;
    let found := issues.map fun e => (e.1, e.2.1.syl.bind fun y => s5.resolve s5.fresh e.1 e.2.1.j e.2.2 y);
    let used := (found.filterMap Prod.snd).flatMap s5.usedSlots;
    let works := found.filter fun r => ps.any (fun e => e.1 == r.1) || !used.contains r.1; let r := (3, none);
    s.b.key = bank ∧ s.b.bound = true ∧ s.core.frozen = false ∧ s.core.fgB = s.b.slotB ∧ s.b.issuedCyc ≠ s.now + 1 ∧
    s.b.open_ = false ∧ s.b.halted = none ∧ s.b.kindA = [] ∧ s.b.preempt = false ∧ s.b.fars = [] ∧ s.b.owed = none ∧
    (∀ r ∈ s.pwrReqs, r.1 ≠ bank) ∧ (∀ x ∈ s.rivals, x.slotB = s.b.slotB) ∧ s.draw.b.asyncAbort = none ∧ f = .ok x ∧
    s1.fetchWaits pc n = false ∧ x.hdr.low = 0 ∧ groupsOk x.groups = true ∧ form ∧ bad = none ∧
    works.find? (fun r => r.2.isNone) = some r) ∧
    (let s : State := { demoM with mem := demoM.mem.take 10 ++ demoCells 0x10040 [8070503308806062080] ++ demoCells 0x10048 [0] };
    let bank : Nat := 0; let pc := s.b.pc.toNat;
    let s1 := s.draw.enterHalf.modB fun b => { b with len := 0, fall := b.pc, taken := false, rep := 0 };
    let f := s1.fetch pc;
    let x := ⟨⟨false, 0, 0, false, false, 0, false, false, 0, 0⟩, [⟨0, true, 128, 0, [(0, 1879048192)]⟩], 10⟩;
    let end_ := s.b.pc + .ofNat 56 x.len; let n := if (s1.trailer end_).isSome then x.len + 12 else x.len;
    let s3 := s1.fillLines pc n;
    let s4 := s3.modB fun b => { b with len := x.len, fall := s3.follow end_, owed := if s3.unread end_ then some (end_, false) else none };
    let form : Prop := s4.headerOk x.hdr = true ∧ (x.hdr.ncg = true ∨ x.groups ≠ []) ∧ s4.pastLimit x.len = false;
    let slots := x.slots; let bad := slots.find? (sylBad s.b.cols x.hdr);
    let ps := slots.filterMap fun e => e.2.map (e.1, ·);
    let b5 : Bank := { s4.b with iss := s4.b.iss + 1, safe := x.hdr.safe, yld := x.hdr.yld, live := x.hdr.live };
    let s5 : State := { s4 with b := b5, cur := ⟨0, 0, 0, 0, .alone, []⟩ };
    let issues := (s4.b.takeHolds ps true (x.hdr.safe || x.hdr.yld) x.hdr.wait).2;
    let found := issues.map fun e => (e.1, e.2.1.syl.bind fun y => s5.resolve s5.fresh e.1 e.2.1.j e.2.2 y);
    let used := (found.filterMap Prod.snd).flatMap s5.usedSlots;
    let works := found.filter fun r => ps.any (fun e => e.1 == r.1) || !used.contains r.1; let k := 0; s.b.key = bank ∧
    s.b.bound = true ∧ s.core.frozen = false ∧ s.core.fgB = s.b.slotB ∧ s.b.issuedCyc ≠ s.now + 1 ∧ s.b.open_ = false ∧
    s.b.halted = none ∧ s.b.kindA = [] ∧ s.b.preempt = false ∧ s.b.fars = [] ∧ s.b.owed = none ∧
    (∀ r ∈ s.pwrReqs, r.1 ≠ bank) ∧ (∀ x ∈ s.rivals, x.slotB = s.b.slotB) ∧ s.draw.b.asyncAbort = none ∧ f = .ok x ∧
    s1.fetchWaits pc n = false ∧ x.hdr.low = 0 ∧ groupsOk x.groups = true ∧ form ∧ bad = none ∧
    (∀ r ∈ works, r.2.isSome = true) ∧ s5.issueIllegal (works.filterMap Prod.snd) = some k) := by
  dsimp only
  refine ⟨⟨?_, ?_, ?_, ?_, ?_, ?_, ?_, ?_, ?_, ?_, ?_, ?_, ?_, ?_, (by decide +kernel), ?_, ?_, ?_, ?_, ?_, ?_⟩, ⟨?_, ?_, ?_, ?_, ?_, ?_, ?_, ?_, ?_, ?_, ?_, ?_, ?_, ?_, (by decide +kernel), ?_, ?_, ?_, ?_, ?_, ?_, ?_⟩⟩ <;> first | exact performs_of (by decide) | decide | decide +kernel

theorem test_w_WaitAndFairness :
  (let s : State := { demo with b := { demo.b with open_ := true, waitSyl := [(0, .op (.movi never 3 8))] } };
    let bank : Nat := 0; let col : Nat := 0; let slot : Nat := 0; let i : Instr := .movi never 3 8; let c : Ctl := never;
    let k := 8 * col + slot; let y : Work := ⟨col, slot, 0, 0, false, i⟩;
    let s4 := s.draw.modB fun b => { b with iss := b.iss + 1 }; s.b.key = bank ∧ s.b.bound = true ∧ s.core.frozen = false ∧
    s.b.halted = none ∧ s.b.open_ = true ∧ s.b.region = none ∧ slot < 8 ∧ col < 4 ∧
    s.b.waitSyl.find? (fun e => e.1 == k) = some (k, .op i) ∧ Instr.ctl i = some c ∧
    (Instr.slots i).contains (slotOf slot) = true ∧ s.core.fgB = s.b.slotB ∧ (∀ x ∈ s.rivals, x.slotB = s.b.slotB) ∧
    s.b.issuedCyc ≠ s.now + 1 ∧ s4.works s4.fresh y = false) ∧
    (let s : State := { demo with b := { demo.b with open_ := true, waitSyl := [(31, .op (.qdrn always 0 9 false))] } };
    let bank : Nat := 0; let col : Nat := 3; let slot : Nat := 7; let i : Instr := .qdrn always 0 9 false;
    let c : Ctl := always; let k := 8 * col + slot; let y : Work := ⟨col, slot, 0, 0, false, i⟩;
    let s4 := s.draw.modB fun b => { b with iss := b.iss + 1 };
    let at_ (p : Phase) : State := { s4 with cur := ⟨col, slot, 0, 0, p, []⟩, fresh := s4.fresh + k };
    let u := nextOf (exec i (at_ .commit));
    let u1 : State := { u with fresh := s4.fresh + 64, cur := ⟨0, 0, 0, 0, .alone, []⟩ };
    let u2 := if s4.clearsTrow s4.fresh y && u1.b.region.isNone then u1.dropStreams else u1;
    let v := (u2.modB (·.overtake)).fixOperands; s.b.key = bank ∧ s.b.bound = true ∧ s.core.frozen = false ∧
    s.b.halted = none ∧ s.b.open_ = true ∧ s.b.region = none ∧ slot < 8 ∧ col < 4 ∧
    s.b.waitSyl.find? (fun e => e.1 == k) = some (k, .op i) ∧ Instr.ctl i = some c ∧
    (Instr.slots i).contains (slotOf slot) = true ∧ s.core.fgB = s.b.slotB ∧ (∀ x ∈ s.rivals, x.slotB = s.b.slotB) ∧
    s.b.issuedCyc ≠ s.now + 1 ∧ s4.ready s4.fresh = [y] ∧ s4.issueIllegal [y] = none ∧ s4.queuesFull s4.fresh [y] = false ∧
    Instr.opens i = false ∧ (∀ g, exec i (at_ .collect) = .next g → g.cur.found = []) ∧ exec i (at_ .commit) = .next u ∧
    v.landingFull = false ∧ v.acceptTaken = false ∧ v.b.region = none ∧ s.cur.found = []) ∧
    (let s : State := { demo with b := { demo.b with open_ := true, waitSyl := [(0, .op (.movi always 3 8))] } };
    let bank : Nat := 0; let col : Nat := 0; let slot : Nat := 0; let i : Instr := .movi always 3 8; let c : Ctl := always;
    let k := 8 * col + slot; let y : Work := ⟨col, slot, 0, 0, false, i⟩;
    let s4 := s.draw.modB fun b => { b with iss := b.iss + 1 };
    let at_ (p : Phase) : State := { s4 with cur := ⟨col, slot, 0, 0, p, []⟩, fresh := s4.fresh + k }; let rd := 3;
    let imm := 8; s.b.key = bank ∧ s.b.bound = true ∧ s.core.frozen = false ∧ s.b.halted = none ∧ s.b.open_ = true ∧
    s.b.region = none ∧ slot < 8 ∧ col < 4 ∧ s.b.waitSyl.find? (fun e => e.1 == k) = some (k, .op i) ∧ Instr.ctl i = some c ∧
    (Instr.slots i).contains (slotOf slot) = true ∧ s.core.fgB = s.b.slotB ∧ (∀ x ∈ s.rivals, x.slotB = s.b.slotB) ∧
    s.b.issuedCyc ≠ s.now + 1 ∧ i = .movi c rd imm ∧ slot = 0 ∧ rd ≠ 0 ∧ s.b.fars = [] ∧ s.b.contribs = [] ∧ s.rivals = [] ∧
    (∀ p ∈ s.b.pend, p.iss ≤ s.b.iss) ∧ s4.ready s4.fresh = [y] ∧ (at_ .collect).poisonCause i = []) ∧
    (let s : State := { demo with cores := [(0, { Core.reset with fgB := true, cyc := 10 })] }; let bank : Nat := 0;
    s.b.key = bank ∧ s.b.bound = true ∧ s.core.frozen = false ∧ s.core.fgB ≠ s.b.slotB ∧ s.b.issuedCyc ≠ s.now + 1 ∧
    (∀ x ∈ s.rivals, x.issuedCyc ≠ s.now + 1)) := by
  dsimp only
  refine ⟨⟨rfl, ?_, ?_, ?_, ?_, ?_, ?_, ?_, ?_, ?_, ?_, ?_, ?_, ?_, rfl⟩, ⟨rfl, ?_, ?_, ?_, ?_, ?_, ?_, ?_, ?_, ?_, ?_, ?_, ?_, ?_, ?_, ?_, ?_, ?_, next_has (by decide), next_of rfl, ?_, ?_, ?_, ?_⟩, ⟨rfl, ?_, ?_, ?_, ?_, ?_, ?_, ?_, ?_, ?_, ?_, ?_, ?_, ?_, ?_, ?_, ?_, ?_, ?_, ?_, ?_, ?_, ?_⟩, ⟨?_, ?_, ?_, ?_, ?_, ?_⟩⟩ <;> first | exact performs_of (by decide) | decide | decide +kernel

theorem test_w_LinesReadAhead :
  (let s : State := { demo with b := { demo.b with halted := some .gone } }; let bank : Nat := 0; s.b.key = bank ∧
    s.b.halted.isSome = true) ∧ (let s : State := demoM; let bank : Nat := 0;
    let lacks (xs : List (BitVec 56 × List Byte)) (a : Nat) : Bool := xs.all fun e => e.1.toNat != a;
    let here := s.segmentLines 512 s.b.pc.toNat s.b.pc.toNat; let one : Option Nat := here.1.find? (lacks s.b.lines);
    let a := 0x40; s.b.key = bank ∧ s.b.halted = none ∧ one = some a) ∧ (let s : State := demoHeld (some 0x2000);
    let bank : Nat := 0; let lacks (xs : List (BitVec 56 × List Byte)) (a : Nat) : Bool := xs.all fun e => e.1.toNat != a;
    let here := s.segmentLines 512 s.b.pc.toNat s.b.pc.toNat;
    let next := (s.b.hint.orElse fun _ => here.2).filter (· != s.b.seg);
    let ahead (n : BitVec 56) : Option Nat := (s.segmentLines 512 n.toNat n.toNat).1.find? (lacks (((s.b.other.filter (·.start == n)).map (·.lines)).getD []));
    let one : Option Nat := here.1.find? (lacks s.b.lines); let n := 0x2000; let a := 0x2000; s.b.key = bank ∧
    s.b.halted = none ∧ one = none ∧ next = some n ∧ ahead n = some a) ∧ (let s : State := demoHeld none;
    let bank : Nat := 0; let lacks (xs : List (BitVec 56 × List Byte)) (a : Nat) : Bool := xs.all fun e => e.1.toNat != a;
    let here := s.segmentLines 512 s.b.pc.toNat s.b.pc.toNat;
    let next := (s.b.hint.orElse fun _ => here.2).filter (· != s.b.seg);
    let ahead (n : BitVec 56) : Option Nat := (s.segmentLines 512 n.toNat n.toNat).1.find? (lacks (((s.b.other.filter (·.start == n)).map (·.lines)).getD []));
    let one : Option Nat := here.1.find? (lacks s.b.lines); s.b.key = bank ∧ s.b.halted = none ∧ one = none ∧
    (∀ n, next = some n → ahead n = none)) ∧ (let s : State := demoM; let bank : Nat := 0;
    let plain (l : Leaf) (a : Nat) : Prop := ∀ i, i < 64 → s.inPool (Leaf.pa l a + i) = false; let a := 0x40;
    let l := demoLeaf; s.b.key = bank ∧ s.b.held.all (fun e => e.1.toNat != a) = true ∧
    s.translate .fetch false s.b.ctx a = .ok l ∧ s.gPoison (Leaf.pa l a) = false ∧ plain l a) ∧
    (let s : State := { demoM with b := { demoM.b with lines := [(0x40, [])] } }; let bank : Nat := 0; let a := 0x40;
    let e := (0x40, []); s.b.key = bank ∧ s.b.held.find? (fun e => e.1.toNat == a) = some e) := by
  dsimp only
  refine ⟨⟨?_, ?_⟩, ⟨?_, ?_, ?_⟩, ⟨?_, ?_, (by rw [show (demoHeld (some 0x2000)).segmentLines 512 (demoHeld (some 0x2000)).b.pc.toNat (demoHeld (some 0x2000)).b.pc.toNat = ([0x40], none) from held_lines rfl (by decide +kernel) (by decide +kernel)]; rfl), (by rw [show (demoHeld (some 0x2000)).segmentLines 512 (demoHeld (some 0x2000)).b.pc.toNat (demoHeld (some 0x2000)).b.pc.toNat = ([0x40], none) from held_lines rfl (by decide +kernel) (by decide +kernel)]; rfl), (by decide +kernel)⟩, ⟨?_, ?_, (by rw [show (demoHeld none).segmentLines 512 (demoHeld none).b.pc.toNat (demoHeld none).b.pc.toNat = ([0x40], none) from held_lines rfl (by decide +kernel) (by decide +kernel)]; rfl), (by rw [show (demoHeld none).segmentLines 512 (demoHeld none).b.pc.toNat (demoHeld none).b.pc.toNat = ([0x40], none) from held_lines rfl (by decide +kernel) (by decide +kernel)]; intro n h; cases h)⟩, ⟨?_, ?_, ok_of (by decide +kernel), ?_, (by decide +kernel)⟩, ⟨?_, ?_⟩⟩ <;> first | exact performs_of (by decide) | decide | decide +kernel

theorem test_w_ReadsUnderTheBounds :
  (let s : State := { demo with b := { demo.b with pend := [⟨.s 1, 8, 8, 1, 1, 5, 11, false, false, false⟩] } };
    let l : Loc := .s 1; l.width ≠ 512 ∧ (∀ p ∈ s.b.pend, p.loc = l → s.b.iss ≤ p.iss) ∧ (∀ f ∈ s.b.fars, f.dest = l →
    s.b.iss ≤ f.iss ∨ f.lanes = 0)) ∧
    (let s : State := { demo with b := { demo.b with pend := [⟨.s 1, 8, 8, 1, 1, 4, 11, false, false, false⟩] } };
    let l : Loc := .s 1; let ps := []; let p := ⟨.s 1, 8, 8, 1, 1, 4, 11, false, false, false⟩; let qs := []; l.width ≠ 512 ∧
    s.b.pend = ps ++ [p] ++ qs ∧ p.loc = l ∧ p.iss < s.b.iss ∧ p.orIn = false ∧ p.lanes ≠ 0 ∧ (∀ q ∈ qs, q.loc = l →
    s.b.iss ≤ q.iss) ∧ (∀ f ∈ s.b.fars, f.dest = l → s.b.iss ≤ f.iss ∨ f.lanes = 0)) ∧
    (let s : State := { demo with b := { demo.b with fars := [⟨0, 0, .s 1, 8, false, some 1, 0, 4, 20, none, false, false, 1, 1, false⟩] } };
    let l : Loc := .s 1; let f := ⟨0, 0, .s 1, 8, false, some 1, 0, 4, 20, none, false, false, 1, 1, false⟩; l.width ≠ 512 ∧
    f ∈ s.b.fars ∧ f.dest = l ∧ f.iss < s.b.iss ∧ f.lanes ≠ 0) := by
  dsimp only
  and_intros <;> first | exact performs_of (by decide) | decide | decide +kernel

/-- The machine with an MCLD of the image at 0x400 that waits, and another packet's access on its way to a line. -/
def demoMc (va : Nat) : State :=
  let p : Pkt := { demoPkt (.gst 8) (.ofNat 64 va) 1 0 true false with
    sent := true, posted := [⟨demoLeaf, va, [1], none, false, false, 1, 0, 0⟩], iss := 4 }
  { demoM with b := { demoM.b with forms := [⟨.mcld, 0, 0, 3, [0x400], 0, 5, 9, 0⟩], queues := [(1, ⟨[p], false, false, 0⟩)] }, mem := demoM.mem ++ [(0x10400, 0x5A), (0x10401, 0x4D), (0x10402, 0x43), (0x10403, 0x31), (0x10405, 1), (0x10406, 0x80), (0x10408, 0x40)] }

theorem test_w_SystemForms :
  (let s : State := demo; let c : Ctl := always; let r : BitVec 6 := 1; let num : BitVec 14 := 0x31;
    s.Performs (.sysrd c r num) c ∧ s.sysCauses num.toNat false = [] ∧ s.sysComing num.toNat = []) ∧ (let s : State := demo;
    let c : Ctl := always; let r : BitVec 6 := 1; let num : BitVec 14 := 0x10; s.Performs (.syswr c r num) c ∧
    s.sysCauses num.toNat true = [] ∧ num ≠ 0x800 ∧ (∀ p ∈ s.b.pend, p.loc = .sys num.toNat → p.iss ≠ s.b.iss)) ∧
    (let s : State := demo; let c : Ctl := always; let r : BitVec 6 := 1; let num : BitVec 14 := 0x800;
    s.Performs (.syswr c r num) c ∧ num = 0x800 ∧ s.Performs (.tbase c r) c) := by
  dsimp only
  and_intros <;> first | exact performs_of (by decide) | decide | decide +kernel

theorem test_w_SystemRegisterAccess :
  (let s : State := demo; let n : Nat := 0x10; let bankRw := 0x10 ≤ n ∧ n ≤ 0x16 ∨ 0x800 ≤ n ∧ n ≤ 0x802 ∨ 0x400 ≤ n ∧
    n < 0x400 + 16 * s.b.cols ∨ 0x500 ≤ n ∧ n < 0x500 + 16 * s.b.cols; bankRw) ∧ (let s : State := demo; let n : Nat := 0x16;
    let bankRw := 0x10 ≤ n ∧ n ≤ 0x16 ∨ 0x800 ≤ n ∧ n ≤ 0x802 ∨ 0x400 ≤ n ∧ n < 0x400 + 16 * s.b.cols ∨ 0x500 ≤ n ∧
    n < 0x500 + 16 * s.b.cols; bankRw) ∧ (let s : State := demo; let n : Nat := 0x802; let bankRw := 0x10 ≤ n ∧
    n ≤ 0x16 ∨ 0x800 ≤ n ∧ n ≤ 0x802 ∨ 0x400 ≤ n ∧ n < 0x400 + 16 * s.b.cols ∨ 0x500 ≤ n ∧ n < 0x500 + 16 * s.b.cols;
    bankRw) ∧ (let s : State := demo; let n : Nat := 0x43F; let bankRw := 0x10 ≤ n ∧ n ≤ 0x16 ∨ 0x800 ≤ n ∧
    n ≤ 0x802 ∨ 0x400 ≤ n ∧ n < 0x400 + 16 * s.b.cols ∨ 0x500 ≤ n ∧ n < 0x500 + 16 * s.b.cols; bankRw) ∧
    (let s : State := demo; let n : Nat := 0x53F; let bankRw := 0x10 ≤ n ∧ n ≤ 0x16 ∨ 0x800 ≤ n ∧ n ≤ 0x802 ∨ 0x400 ≤ n ∧
    n < 0x400 + 16 * s.b.cols ∨ 0x500 ≤ n ∧ n < 0x500 + 16 * s.b.cols; bankRw) ∧ (let s : State := demo; let n : Nat := 0;
    let ro := n = 0 ∨ n = 0x22 ∨ n = 0x30 ∨ n = 0x31 ∨ 0x38 ≤ n ∧ n ≤ 0x3F ∨ 0x40 ≤ n ∧ n ≤ 0x49 ∨ n = 0x50 ∨ 0x100 ≤ n ∧
    n ≤ 0x17F ∨ 0x480 ≤ n ∧ n < 0x480 + 4 * s.b.cols ∨ (0x700 ≤ n ∧ n ≤ 0x703 ∧ s.b.core < 128) ∨ n = 0x803; ro) ∧
    (let s : State := demo; let n : Nat := 0x3F; let ro := n = 0 ∨ n = 0x22 ∨ n = 0x30 ∨ n = 0x31 ∨ 0x38 ≤ n ∧
    n ≤ 0x3F ∨ 0x40 ≤ n ∧ n ≤ 0x49 ∨ n = 0x50 ∨ 0x100 ≤ n ∧ n ≤ 0x17F ∨ 0x480 ≤ n ∧ n < 0x480 + 4 * s.b.cols ∨ (0x700 ≤ n ∧
    n ≤ 0x703 ∧ s.b.core < 128) ∨ n = 0x803; ro) ∧ (let s : State := demo; let n : Nat := 0x49;
    let ro := n = 0 ∨ n = 0x22 ∨ n = 0x30 ∨ n = 0x31 ∨ 0x38 ≤ n ∧ n ≤ 0x3F ∨ 0x40 ≤ n ∧ n ≤ 0x49 ∨ n = 0x50 ∨ 0x100 ≤ n ∧
    n ≤ 0x17F ∨ 0x480 ≤ n ∧ n < 0x480 + 4 * s.b.cols ∨ (0x700 ≤ n ∧ n ≤ 0x703 ∧ s.b.core < 128) ∨ n = 0x803; ro) ∧
    (let s : State := demo; let n : Nat := 0x17F; let ro := n = 0 ∨ n = 0x22 ∨ n = 0x30 ∨ n = 0x31 ∨ 0x38 ≤ n ∧
    n ≤ 0x3F ∨ 0x40 ≤ n ∧ n ≤ 0x49 ∨ n = 0x50 ∨ 0x100 ≤ n ∧ n ≤ 0x17F ∨ 0x480 ≤ n ∧ n < 0x480 + 4 * s.b.cols ∨ (0x700 ≤ n ∧
    n ≤ 0x703 ∧ s.b.core < 128) ∨ n = 0x803; ro) ∧ (let s : State := demo; let n : Nat := 0x480;
    let ro := n = 0 ∨ n = 0x22 ∨ n = 0x30 ∨ n = 0x31 ∨ 0x38 ≤ n ∧ n ≤ 0x3F ∨ 0x40 ≤ n ∧ n ≤ 0x49 ∨ n = 0x50 ∨ 0x100 ≤ n ∧
    n ≤ 0x17F ∨ 0x480 ≤ n ∧ n < 0x480 + 4 * s.b.cols ∨ (0x700 ≤ n ∧ n ≤ 0x703 ∧ s.b.core < 128) ∨ n = 0x803; ro) ∧
    (let s : State := demo; let n : Nat := 0x48F; let ro := n = 0 ∨ n = 0x22 ∨ n = 0x30 ∨ n = 0x31 ∨ 0x38 ≤ n ∧
    n ≤ 0x3F ∨ 0x40 ≤ n ∧ n ≤ 0x49 ∨ n = 0x50 ∨ 0x100 ≤ n ∧ n ≤ 0x17F ∨ 0x480 ≤ n ∧ n < 0x480 + 4 * s.b.cols ∨ (0x700 ≤ n ∧
    n ≤ 0x703 ∧ s.b.core < 128) ∨ n = 0x803; ro) ∧ (let s : State := demo; let n : Nat := 0x703;
    let ro := n = 0 ∨ n = 0x22 ∨ n = 0x30 ∨ n = 0x31 ∨ 0x38 ≤ n ∧ n ≤ 0x3F ∨ 0x40 ≤ n ∧ n ≤ 0x49 ∨ n = 0x50 ∨ 0x100 ≤ n ∧
    n ≤ 0x17F ∨ 0x480 ≤ n ∧ n < 0x480 + 4 * s.b.cols ∨ (0x700 ≤ n ∧ n ≤ 0x703 ∧ s.b.core < 128) ∨ n = 0x803; ro) ∧
    (let s : State := demo; let n : Nat := 0x803; let ro := n = 0 ∨ n = 0x22 ∨ n = 0x30 ∨ n = 0x31 ∨ 0x38 ≤ n ∧
    n ≤ 0x3F ∨ 0x40 ≤ n ∧ n ≤ 0x49 ∨ n = 0x50 ∨ 0x100 ≤ n ∧ n ≤ 0x17F ∨ 0x480 ≤ n ∧ n < 0x480 + 4 * s.b.cols ∨ (0x700 ≤ n ∧
    n ≤ 0x703 ∧ s.b.core < 128) ∨ n = 0x803; ro) ∧ (let n : Nat := 0x4A; let root := n = 0x20 ∨ n = 0x21 ∨ n = 0x4A; root) ∧
    (let s : State := demo; let n : Nat := 0x6FF; let tq := 0x600 ≤ n ∧ n ≤ 0x6FF ∨ 0x700 ≤ n ∧ n ≤ 0x73F ∧ 128 ≤ s.b.core;
    tq) ∧ (let s : State := { demo with b := { demo.b with core := 159 } }; let n : Nat := 0x700; let tq := 0x600 ≤ n ∧
    n ≤ 0x6FF ∨ 0x700 ≤ n ∧ n ≤ 0x73F ∧ 128 ≤ s.b.core; tq) ∧ (let s : State := demo; let n : Nat := 0xF;
    let bankRw := 0x10 ≤ n ∧ n ≤ 0x16 ∨ 0x800 ≤ n ∧ n ≤ 0x802 ∨ 0x400 ≤ n ∧ n < 0x400 + 16 * s.b.cols ∨ 0x500 ≤ n ∧
    n < 0x500 + 16 * s.b.cols; let ro := n = 0 ∨ n = 0x22 ∨ n = 0x30 ∨ n = 0x31 ∨ 0x38 ≤ n ∧ n ≤ 0x3F ∨ 0x40 ≤ n ∧
    n ≤ 0x49 ∨ n = 0x50 ∨ 0x100 ≤ n ∧ n ≤ 0x17F ∨ 0x480 ≤ n ∧ n < 0x480 + 4 * s.b.cols ∨ (0x700 ≤ n ∧ n ≤ 0x703 ∧
    s.b.core < 128) ∨ n = 0x803; let root := n = 0x20 ∨ n = 0x21 ∨ n = 0x4A; let tq := 0x600 ≤ n ∧ n ≤ 0x6FF ∨ 0x700 ≤ n ∧
    n ≤ 0x73F ∧ 128 ≤ s.b.core; ¬bankRw ∧ ¬ro ∧ ¬root ∧ ¬tq) ∧ (let s : State := demo; let n : Nat := 0x440;
    let bankRw := 0x10 ≤ n ∧ n ≤ 0x16 ∨ 0x800 ≤ n ∧ n ≤ 0x802 ∨ 0x400 ≤ n ∧ n < 0x400 + 16 * s.b.cols ∨ 0x500 ≤ n ∧
    n < 0x500 + 16 * s.b.cols; let ro := n = 0 ∨ n = 0x22 ∨ n = 0x30 ∨ n = 0x31 ∨ 0x38 ≤ n ∧ n ≤ 0x3F ∨ 0x40 ≤ n ∧
    n ≤ 0x49 ∨ n = 0x50 ∨ 0x100 ≤ n ∧ n ≤ 0x17F ∨ 0x480 ≤ n ∧ n < 0x480 + 4 * s.b.cols ∨ (0x700 ≤ n ∧ n ≤ 0x703 ∧
    s.b.core < 128) ∨ n = 0x803; let root := n = 0x20 ∨ n = 0x21 ∨ n = 0x4A; let tq := 0x600 ≤ n ∧ n ≤ 0x6FF ∨ 0x700 ≤ n ∧
    n ≤ 0x73F ∧ 128 ≤ s.b.core; ¬bankRw ∧ ¬ro ∧ ¬root ∧ ¬tq) ∧ (let s : State := demo; let n : Nat := 0x490;
    let bankRw := 0x10 ≤ n ∧ n ≤ 0x16 ∨ 0x800 ≤ n ∧ n ≤ 0x802 ∨ 0x400 ≤ n ∧ n < 0x400 + 16 * s.b.cols ∨ 0x500 ≤ n ∧
    n < 0x500 + 16 * s.b.cols; let ro := n = 0 ∨ n = 0x22 ∨ n = 0x30 ∨ n = 0x31 ∨ 0x38 ≤ n ∧ n ≤ 0x3F ∨ 0x40 ≤ n ∧
    n ≤ 0x49 ∨ n = 0x50 ∨ 0x100 ≤ n ∧ n ≤ 0x17F ∨ 0x480 ≤ n ∧ n < 0x480 + 4 * s.b.cols ∨ (0x700 ≤ n ∧ n ≤ 0x703 ∧
    s.b.core < 128) ∨ n = 0x803; let root := n = 0x20 ∨ n = 0x21 ∨ n = 0x4A; let tq := 0x600 ≤ n ∧ n ≤ 0x6FF ∨ 0x700 ≤ n ∧
    n ≤ 0x73F ∧ 128 ≤ s.b.core; ¬bankRw ∧ ¬ro ∧ ¬root ∧ ¬tq) ∧ (let s : State := demo; let n : Nat := 0x704;
    let bankRw := 0x10 ≤ n ∧ n ≤ 0x16 ∨ 0x800 ≤ n ∧ n ≤ 0x802 ∨ 0x400 ≤ n ∧ n < 0x400 + 16 * s.b.cols ∨ 0x500 ≤ n ∧
    n < 0x500 + 16 * s.b.cols; let ro := n = 0 ∨ n = 0x22 ∨ n = 0x30 ∨ n = 0x31 ∨ 0x38 ≤ n ∧ n ≤ 0x3F ∨ 0x40 ≤ n ∧
    n ≤ 0x49 ∨ n = 0x50 ∨ 0x100 ≤ n ∧ n ≤ 0x17F ∨ 0x480 ≤ n ∧ n < 0x480 + 4 * s.b.cols ∨ (0x700 ≤ n ∧ n ≤ 0x703 ∧
    s.b.core < 128) ∨ n = 0x803; let root := n = 0x20 ∨ n = 0x21 ∨ n = 0x4A; let tq := 0x600 ≤ n ∧ n ≤ 0x6FF ∨ 0x700 ≤ n ∧
    n ≤ 0x73F ∧ 128 ≤ s.b.core; ¬bankRw ∧ ¬ro ∧ ¬root ∧ ¬tq) ∧ (let s : State := demo; let n : Nat := 0x804;
    let bankRw := 0x10 ≤ n ∧ n ≤ 0x16 ∨ 0x800 ≤ n ∧ n ≤ 0x802 ∨ 0x400 ≤ n ∧ n < 0x400 + 16 * s.b.cols ∨ 0x500 ≤ n ∧
    n < 0x500 + 16 * s.b.cols; let ro := n = 0 ∨ n = 0x22 ∨ n = 0x30 ∨ n = 0x31 ∨ 0x38 ≤ n ∧ n ≤ 0x3F ∨ 0x40 ≤ n ∧
    n ≤ 0x49 ∨ n = 0x50 ∨ 0x100 ≤ n ∧ n ≤ 0x17F ∨ 0x480 ≤ n ∧ n < 0x480 + 4 * s.b.cols ∨ (0x700 ≤ n ∧ n ≤ 0x703 ∧
    s.b.core < 128) ∨ n = 0x803; let root := n = 0x20 ∨ n = 0x21 ∨ n = 0x4A; let tq := 0x600 ≤ n ∧ n ≤ 0x6FF ∨ 0x700 ≤ n ∧
    n ≤ 0x73F ∧ 128 ≤ s.b.core; ¬bankRw ∧ ¬ro ∧ ¬root ∧ ¬tq) := by
  dsimp only
  and_intros <;> first | exact performs_of (by decide) | decide | decide +kernel

theorem test_w_TrapRegistersReadBack :
  let s : State := demo; let bank : Nat := 0; s.b.key = bank := by
  dsimp only
  first | exact performs_of (by decide) | decide | decide +kernel

theorem test_w_Transfers :
  let s : State := { demo with b := { demo.b with sr := [(1, 0xFFFFFFFFFFFFFE)] } }; let c : Ctl := always;
    let bi : Bool := true; let bf : BitVec 4 := 1; let o15 : BitVec 15 := 4; let o20 : BitVec 20 := 4;
    let ra : BitVec 6 := 1; let disp : BitVec 14 := 0; let tgt := s.rs ra.toNat + .ofInt 64 (2 * disp.toInt);
    s.Performs (.br c bi bf o15) c ∧ s.Performs (.jmp c o20) c ∧ s.Performs (.call c o20) c ∧
    s.Performs (.jmpi c ra disp) c ∧ tgt.getLsbD 0 = false ∧ tgt.toNat < 2 ^ 56 ∧ s.Performs (.ret c ra) c ∧
    (s.rs ra.toNat).getLsbD 0 = false ∧ (s.rs ra.toNat).toNat < 2 ^ 56 ∧ s.Performs (.seghint c o20) c := by
  dsimp only
  and_intros <;> first | exact performs_of (by decide) | decide | decide +kernel

theorem test_w_LoopOpens :
  (let s : State := demo; let c : Ctl := always; let cnt : BitVec 8 := 4; let ra : BitVec 6 := 2; let fin : BitVec 11 := 8;
    let b := s.b; let e := b.pc + .ofNat 56 (2 * fin.toNat); let legal := b.depth < 6 ∧ b.len ≤ 2 * fin.toNat ∧
    (0 < b.depth → b.pc ≠ b.le.get 0 (b.depth - 1) ∧ e.toNat ≤ (b.le.get 0 (b.depth - 1)).toNat); let n := s.rs ra.toNat;
    let most := (b.loopEnt b.depth).most; s.Performs (.loopImm c cnt fin) c ∧ legal ∧ s.Performs (.loopReg c ra fin) c ∧
    (most = 0 ∨ n.toNat ≤ most)) ∧ (let s : State := demo; let c : Ctl := always; let cnt : BitVec 8 := 4;
    let ra : BitVec 6 := 2; let fin : BitVec 11 := 3; let b := s.b; let e := b.pc + .ofNat 56 (2 * fin.toNat);
    let legal := b.depth < 6 ∧ b.len ≤ 2 * fin.toNat ∧ (0 < b.depth → b.pc ≠ b.le.get 0 (b.depth - 1) ∧
    e.toNat ≤ (b.le.get 0 (b.depth - 1)).toNat); s.Performs (.loopImm c cnt fin) c ∧ s.cur.phase = .alone ∧ b.region = none ∧
    ¬legal ∧ s.Performs (.loopReg c ra fin) c) ∧ (let s : State := { demo with b := { demo.b with depth := 6 } };
    let c : Ctl := always; let cnt : BitVec 8 := 4; let fin : BitVec 11 := 8; let b := s.b;
    let e := b.pc + .ofNat 56 (2 * fin.toNat); let legal := b.depth < 6 ∧ b.len ≤ 2 * fin.toNat ∧ (0 < b.depth →
    b.pc ≠ b.le.get 0 (b.depth - 1) ∧ e.toNat ≤ (b.le.get 0 (b.depth - 1)).toNat); s.Performs (.loopImm c cnt fin) c ∧
    s.cur.phase = .alone ∧ b.region = none ∧ ¬legal) := by
  dsimp only
  and_intros <;> first | exact performs_of (by decide) | decide | decide +kernel

theorem test_w_LoopBreakCloses :
  (let s : State := { demo with b := { demo.b with depth := 2, lc := [(0, 4), (1, 3)], li := [(1, 2)], le := [(0, 0x60), (1, 0x40)], ls := [(0, 0x20), (1, 0x30)] } };
    let c : Ctl := always; let n : BitVec 3 := 1; s.Performs (.loopbrk c n) c ∧ n.toNat + 1 ≤ s.b.depth) ∧
    (let s : State := { demo with b := { demo.b with depth := 2, lc := [(0, 4), (1, 3)], li := [(1, 2)], le := [(0, 0x60), (1, 0x40)], ls := [(0, 0x20), (1, 0x30)] } };
    let c : Ctl := always; let n : BitVec 3 := 2; s.Performs (.loopbrk c n) c ∧ s.b.depth ≤ n.toNat ∧ s.cur.phase = .alone ∧
    s.b.region = none) := by
  dsimp only
  and_intros <;> first | exact performs_of (by decide) | decide | decide +kernel

theorem test_w_LoopTest :
  (let b : Bank := { demoBank with depth := 2, lc := [(0, 4), (1, 3)], li := [(1, 2)], le := [(0, 0x60), (1, 0x40)], ls := [(0, 0x20), (1, 0x30)] };
    b.depth ≤ 6) ∧
    (let b : Bank := { demoBank with depth := 2, lc := [(0, 4), (1, 3)], li := [(1, 2)], le := [(0, 0x60), (1, 0x40)], ls := [(0, 0x20), (1, 0x30)] };
    let r := b.loopTest 7; let d := 1; b.depth ≤ 6 ∧ r.depth ≤ d ∧ d < b.depth) ∧
    (let b : Bank := { demoBank with depth := 2, lc := [(0, 4), (1, 3)], li := [(1, 2)], le := [(0, 0x60), (1, 0x40)], ls := [(0, 0x20), (1, 0x30)] };
    b.depth ≤ 6) ∧
    (let b : Bank := { demoBank with depth := 2, lc := [(0, 4), (1, 3)], li := [(1, 2)], le := [(0, 0x60), (1, 0x40)], ls := [(0, 0x20), (1, 0x30)] };
    let r := b.loopTest 7; let d := 0; b.depth ≤ 6 ∧ d < r.depth) ∧
    (let b : Bank := { demoBank with depth := 2, lc := [(0, 4), (1, 3)], li := [(1, 1)], le := [(0, 0x60), (1, 0x40)], ls := [(0, 0x20), (1, 0x30)] };
    let r := b.loopTest 7; let d := 0; b.depth ≤ 6 ∧ d + 1 < r.depth) ∧
    (let b : Bank := { demoBank with depth := 2, lc := [(0, 4), (1, 3)], li := [(1, 2)], le := [(0, 0x40), (1, 0x40)], ls := [(0, 0x20), (1, 0x30)] };
    let r := b.loopTest 7; let ends (d : Nat) : Prop := b.le.get 0 d = b.pc; b.depth ≤ 6 ∧ 0 < r.depth ∧
    ends (r.depth - 1)) ∧
    (let b : Bank := { demoBank with depth := 2, lc := [(0, 4), (1, 3)], li := [(1, 2)], le := [(0, 0x60), (1, 0x40)], ls := [(0, 0x20), (1, 0x30)] };
    let r := b.loopTest 7; let ends (d : Nat) : Prop := b.le.get 0 d = b.pc; b.depth ≤ 6 ∧
    (r.depth = 0 ∨ ¬ends (r.depth - 1))) ∧ (let b : Bank := demoBank; let r := b.loopTest 7;
    let ends (d : Nat) : Prop := b.le.get 0 d = b.pc; b.depth ≤ 6 ∧ (r.depth = 0 ∨ ¬ends (r.depth - 1))) ∧
    (let b : Bank := { demoBank with depth := 2, lc := [(0, 4), (1, 3)], li := [(1, 2)], le := [(0, 0x60), (1, 0x40)], ls := [(0, 0x20), (1, 0x30)] };
    let r := b.loopTest 7; let ends (d : Nat) : Prop := b.le.get 0 d = b.pc; b.depth ≤ 6 ∧
    (r.depth = 0 ∨ ¬ends (r.depth - 1)) ∧ 0 < r.depth) := by
  dsimp only
  and_intros <;> first | exact performs_of (by decide) | decide | decide +kernel

theorem test_w_TrapAtOwnVector :
  let s : State := { demo with b := { demo.b with tbr := 0x8000000000000080 } };
    let c : Cause := ⟨63, 255, 7, 3, 0x40, 1, true, .before, false, none⟩; s.takesOwn c = true ∧ c.num < 64 ∧ c.sub < 256 ∧
    c.slt < 8 ∧ c.col < 4 := by
  dsimp only
  and_intros <;> first | exact performs_of (by decide) | decide | decide +kernel

theorem test_w_TrapReflected :
  (let s : State := demo; let c : Cause := ⟨63, 255, 7, 3, 0x40, 1, true, .before, false, none⟩; s.takesOwn c = false) ∧
    (let s : State := { demo with b := { demo.b with tbr := 0x8000000000000080 } };
    let c : Cause := ⟨14, 0, 0, 0, 0, 0, false, .after, false, none⟩; s.takesOwn c = false) := by
  dsimp only
  and_intros <;> first | exact performs_of (by decide) | decide | decide +kernel

theorem test_w_TrapForms :
  let s : State := demo; let c : Ctl := always; let n : BitVec 5 := 31; let code : BitVec 8 := 255;
    s.Performs (.trap c n) c ∧ s.Performs (.brk c code) c ∧ s.Performs (.halt c) c ∧ s.Performs (.eret c) c ∧
    s.cur.phase = .alone ∧ s.b.region = none ∧ s.b.esta.getLsbD 63 = false := by
  dsimp only
  and_intros <;> first | exact performs_of (by decide) | decide | decide +kernel

theorem test_w_ReturnFromTrap :
  let s : State := { demo with b := { demo.b with tbr := 0x8000000000000080, esta := 0xC000000000000000, epc := 0x40, enpc := 0x48, eact := 2 } };
    let c : Ctl := always; s.Performs (.eret c) c ∧ s.cur.phase = .alone ∧ s.b.forms = [] ∧ s.b.waitSyl = [] ∧
    s.b.esta.getLsbD 63 = true ∧ s.b.wait = none ∧ isFault s.b.handled.num = false := by
  dsimp only
  and_intros <;> first | exact performs_of (by decide) | decide | decide +kernel

theorem test_w_PowerAndMicrocodeForms :
  (let s : State := demo; let c : Ctl := always; let rd : BitVec 6 := 3; let ra : BitVec 6 := 1;
    s.Performs (.pwracq c ra) c ∧ (s.rs ra.toNat).toNat < 65536 ∧ s.rs ra.toNat ≠ 0 ∧
    (rfld (s.ctx s.b.ctx).power 15 4 = 0xFFF ∨ (s.rs ra.toNat).toNat ≤ rfld (s.ctx s.b.ctx).power 15 4) ∧
    s.Performs (.pwrrel c) c ∧ s.Performs (.mcld c rd ra) c ∧ s.b.ctx = 0) ∧
    (let s : State := { demo with banks := [(2, { Bank.fresh 2 with bound := true, pgr := 0x800000000000FFFF })], pwrReqs := [(0, 0xFFFF)] };
    let bank : Nat := 0; let lvl := 0xFFFF; let watts := s.wattage bank lvl.toNat; s.b.key = bank ∧
    s.pwrReqs.find? (fun r => r.1 / 128 == bank / 128) = some (bank, lvl) ∧
    (67200 < s.granted bank + lvl.toNat ∨ 57600000 < watts)) ∧ (let s : State := { demo with pwrReqs := [(0, 7)] };
    let bank : Nat := 0; let lvl := 7; let watts := s.wattage bank lvl.toNat; s.b.key = bank ∧
    s.pwrReqs.find? (fun r => r.1 / 128 == bank / 128) = some (bank, lvl) ∧ s.granted bank + lvl.toNat ≤ 67200 ∧
    watts ≤ 57600000) := by
  dsimp only
  and_intros <;> first | exact performs_of (by decide) | decide | decide +kernel

theorem test_w_MicrocodeLoads :
  (let s : State := { demo with b := { demo.b with forms := [⟨.mcld, 0, 0, 3, [0x400], 0, 5, 9, 1⟩] }, rewrites := [(0, (3, ⟨1, 0x80, 64, []⟩))] };
    let bank : Nat := 0; let f : Form := ⟨.mcld, 0, 0, 3, [0x400], 0, 5, 9, 1⟩; let va : DWord := 0x400; let e := 3;
    let m := ⟨1, 0x80, 64, []⟩; s.b.key = bank ∧ s.b.forms = [f] ∧ f.kind = .mcld ∧ f.ops = [va] ∧ f.phase = 1 ∧
    s.rewrites.find bank = some (e, m)) ∧
    (let s : State := { demo with b := { demo.b with forms := [⟨.mcld, 0, 0, 3, [0x400], 0, 5, 9, 0⟩], ctxRds := [(3, 20)] } };
    let bank : Nat := 0; let f : Form := ⟨.mcld, 0, 0, 3, [0x400], 0, 5, 9, 0⟩; let va : DWord := 0x400; s.b.key = bank ∧
    s.b.forms = [f] ∧ f.kind = .mcld ∧ f.ops = [va] ∧ f.phase = 0 ∧ s.b.heldBack s.now f.iss = true) ∧
    (let s : State := demoMc 0x400; let bank : Nat := 0; let f : Form := ⟨.mcld, 0, 0, 3, [0x400], 0, 5, 9, 0⟩;
    let va : DWord := 0x400; let w := s.draw; let q := 4 * f.col; let head := w.getAll q s.b.snapTs va.toNat 64;
    s.b.key = bank ∧ s.b.forms = [f] ∧ f.kind = .mcld ∧ f.ops = [va] ∧ f.phase = 0 ∧ s.b.heldBack s.now f.iss = false ∧
    head = .error none) ∧
    (let s : State := { demo with b := { demo.b with forms := [⟨.mcld, 0, 0, 3, [0x400], 0, 5, 9, 0⟩] } };
    let bank : Nat := 0; let f : Form := ⟨.mcld, 0, 0, 3, [0x400], 0, 5, 9, 0⟩; let va : DWord := 0x400; let w := s.draw;
    let q := 4 * f.col; let head := w.getAll q s.b.snapTs va.toNat 64; let x := 1; s.b.key = bank ∧ s.b.forms = [f] ∧
    f.kind = .mcld ∧ f.ops = [va] ∧ f.phase = 0 ∧ s.b.heldBack s.now f.iss = false ∧ head = .error (some x)) ∧
    (let s : State := demoMc 0x480; let bank : Nat := 0; let f : Form := ⟨.mcld, 0, 0, 3, [0x400], 0, 5, 9, 0⟩;
    let va : DWord := 0x400; let w := s.draw; let q := 4 * f.col; let head := w.getAll q s.b.snapTs va.toNat 64;
    let u := (okOf (demo, []) head).1; let h := (okOf (demo, []) head).2; let len := leNat ((h.drop 12).take 4);
    let body := u.getAll q s.b.snapTs (va.toNat + 64) (len + 512); s.b.key = bank ∧ s.b.forms = [f] ∧ f.kind = .mcld ∧
    f.ops = [va] ∧ f.phase = 0 ∧ s.b.heldBack s.now f.iss = false ∧ head = .ok (u, h) ∧ body = .error none) ∧
    (let s : State := { demoM with b := { demoM.b with forms := [⟨.mcld, 0, 0, 3, [0xFFC0], 0, 5, 9, 0⟩] }, mem := demoM.mem ++ [] };
    let bank : Nat := 0; let f : Form := ⟨.mcld, 0, 0, 3, [0xFFC0], 0, 5, 9, 0⟩; let va : DWord := 0xFFC0; let w := s.draw;
    let q := 4 * f.col; let head := w.getAll q s.b.snapTs va.toNat 64; let u := (okOf (demo, []) head).1;
    let h := (okOf (demo, []) head).2; let len := leNat ((h.drop 12).take 4);
    let body := u.getAll q s.b.snapTs (va.toNat + 64) (len + 512); let x := 1; s.b.key = bank ∧ s.b.forms = [f] ∧
    f.kind = .mcld ∧ f.ops = [va] ∧ f.phase = 0 ∧ s.b.heldBack s.now f.iss = false ∧ head = .ok (u, h) ∧
    body = .error (some x)) ∧
    (let s : State := { demoM with b := { demoM.b with forms := [⟨.mcld, 0, 0, 3, [0x400], 0, 5, 9, 0⟩] }, mem := demoM.mem ++ [] };
    let bank : Nat := 0; let f : Form := ⟨.mcld, 0, 0, 3, [0x400], 0, 5, 9, 0⟩; let va : DWord := 0x400; let w := s.draw;
    let q := 4 * f.col; let head := w.getAll q s.b.snapTs va.toNat 64; let u := (okOf (demo, []) head).1;
    let h := (okOf (demo, []) head).2; let len := leNat ((h.drop 12).take 4);
    let body := u.getAll q s.b.snapTs (va.toNat + 64) (len + 512); let good := va.toNat % 64 = 0 ∧ microOk h = true;
    let v := (okOf (demo, []) body).1; let r := (okOf (demo, []) body).2; s.b.key = bank ∧ s.b.forms = [f] ∧ f.kind = .mcld ∧
    f.ops = [va] ∧ f.phase = 0 ∧ s.b.heldBack s.now f.iss = false ∧ head = .ok (u, h) ∧ body = .ok (v, r) ∧ ¬good) ∧
    (let s : State := { demoM with b := { demoM.b with forms := [⟨.mcld, 0, 0, 3, [0x400], 0, 5, 9, 0⟩] }, mem := demoM.mem ++ [(0x10400, 0x5A), (0x10401, 0x4D), (0x10402, 0x43), (0x10403, 0x31), (0x10405, 1), (0x10406, 0x80), (0x10408, 0x40)] };
    let bank : Nat := 0; let f : Form := ⟨.mcld, 0, 0, 3, [0x400], 0, 5, 9, 0⟩; let va : DWord := 0x400; let w := s.draw;
    let q := 4 * f.col; let head := w.getAll q s.b.snapTs va.toNat 64; let u := (okOf (demo, []) head).1;
    let h := (okOf (demo, []) head).2; let len := leNat ((h.drop 12).take 4); let e := leNat ((h.drop 4).take 1);
    let body := u.getAll q s.b.snapTs (va.toNat + 64) (len + 512); let good := va.toNat % 64 = 0 ∧ microOk h = true;
    let v := (okOf (demo, []) body).1; let r := (okOf (demo, []) body).2; s.b.key = bank ∧ s.b.forms = [f] ∧ f.kind = .mcld ∧
    f.ops = [va] ∧ f.phase = 0 ∧ s.b.heldBack s.now f.iss = false ∧ head = .ok (u, h) ∧ body = .ok (v, r) ∧ good ∧
    v.pinned e = false) ∧
    (let s : State := { demoM with b := { demoM.b with forms := [⟨.mcld, 0, 0, 3, [0x400], 0, 5, 9, 0⟩], kern := some { demoKern with feat := 0x10000000000000000 } }, mem := demoM.mem ++ [(0x10400, 0x5A), (0x10401, 0x4D), (0x10402, 0x43), (0x10403, 0x31), (0x10405, 1), (0x10406, 0x80), (0x10408, 0x40)], micro := [(0, ⟨1, 0x80, 64, []⟩)] };
    let bank : Nat := 0; let f : Form := ⟨.mcld, 0, 0, 3, [0x400], 0, 5, 9, 0⟩; let va : DWord := 0x400; let w := s.draw;
    let q := 4 * f.col; let head := w.getAll q s.b.snapTs va.toNat 64; let u := (okOf (demo, []) head).1;
    let h := (okOf (demo, []) head).2; let len := leNat ((h.drop 12).take 4); let e := leNat ((h.drop 4).take 1);
    let body := u.getAll q s.b.snapTs (va.toNat + 64) (len + 512); let good := va.toNat % 64 = 0 ∧ microOk h = true;
    let v := (okOf (demo, []) body).1; let r := (okOf (demo, []) body).2; s.b.key = bank ∧ s.b.forms = [f] ∧ f.kind = .mcld ∧
    f.ops = [va] ∧ f.phase = 0 ∧ s.b.heldBack s.now f.iss = false ∧ head = .ok (u, h) ∧ body = .ok (v, r) ∧ good ∧
    v.pinned e = true) := by
  dsimp only
  refine ⟨⟨?_, ?_, ?_, ?_, ?_, ?_⟩, ⟨?_, ?_, ?_, ?_, ?_, ?_⟩, ⟨?_, ?_, ?_, ?_, ?_, ?_, err_as (by decide +kernel)⟩, ⟨?_, ?_, ?_, ?_, ?_, ?_, err_as (by decide +kernel)⟩, ⟨?_, ?_, ?_, ?_, ?_, ?_, ok_pair (by decide +kernel), err_as (by decide +kernel)⟩, ⟨?_, ?_, ?_, ?_, ?_, ?_, ok_pair (by decide +kernel), err_as (by decide +kernel)⟩, ⟨?_, ?_, ?_, ?_, ?_, ?_, ok_pair (by decide +kernel), ok_pair (by decide +kernel), (by decide +kernel)⟩, ⟨?_, ?_, ?_, ?_, ?_, ?_, ok_pair (by decide +kernel), ok_pair (by decide +kernel), (by decide +kernel), (by decide +kernel)⟩, ⟨?_, ?_, ?_, ?_, ?_, ?_, ok_pair (by decide +kernel), ok_pair (by decide +kernel), (by decide +kernel), (by decide +kernel)⟩⟩ <;> first | exact performs_of (by decide) | decide | decide +kernel

theorem test_w_LoadForms :
  let s : State := demo; let c : Ctl := always; let rs : BitVec 6 := 3; let ar : BitVec 5 := 1; let o5 : BitVec 5 := 1;
    let fmt : BitVec 3 := 6; let x3 : BitVec 3 := 7; let o8 : BitVec 8 := 0x91; let off : BitVec 11 := 5;
    let vr : BitVec 11 := 0; let ew : BitVec 2 := 2; let vc : Bool := true; let sg : Bool := true;
    let size : Nat := match fmt.toNat with | 0 => 1 | 1 => 1 | 2 => 2 | 3 => 2 | 4 => 4 | 5 => 4 | _ => 8;
    let disp : Int := if o8.getLsbD 7 then (o8.extractLsb' 4 3).toInt else (o8.extractLsb' 0 7).toInt;
    let disp5 : Int := if o5.getLsbD 4 then 0 else (o5.extractLsb' 0 4).toInt;
    let at_ (d : Int) : Nat := (BitVec.ofInt 32 (s.ra ar.toNat + d)).toNat;
    let legal (a n : Nat) : Prop := a + n ≤ s.shareSize ∧ a % n = 0; let cl := 2 * s.cur.col + vc.toNat;
    let a := at_ (disp * size); let av := at_ (disp5 * 64); let w : Nat := 2 ^ ew.toNat;
    let lane (l : Nat) : Nat := (s.ra ar.toNat + s.rv cl ((vr.toNat + 1) % s.vcount) / 2 ^ (32 * l) % 2 ^ 32 * w) % 2 ^ 32;
    let b4 := at_ (disp * 4); let b32 := at_ (disp * 32); s.Performs (.ld c rs ar fmt o8) c ∧ legal a size ∧
    s.Performs (.ldv c vc vr ar o5) c ∧ legal av 64 ∧ s.Performs (.gath c vc vr ar ew sg) c ∧
    s.b.poison.contains (.v cl ((vr.toNat + 1) % s.vcount)) = false ∧ (∀ l, l < 16 → legal (lane l) w) ∧ ew ≠ 3 ∧
    s.Performs (.spld c rs off) c ∧ s.Performs (.scld c x3 ar false o8) c ∧ legal b4 4 ∧
    s.Performs (.scld c x3 ar true o8) c ∧ legal b32 32 := by
  dsimp only
  and_intros <;> first | exact performs_of (by decide) | decide | decide +kernel

theorem test_w_AddressRegisterForms :
  let s : State := demo; let c : Ctl := always; let ar : BitVec 5 := 31; let rs : BitVec 6 := 1;
    let imm : BitVec 16 := 0xFFFF; s.Performs (.adrsetImm c ar imm) c ∧ s.Performs (.adrsetReg c ar rs) c ∧
    s.Performs (.adraddImm c ar imm) c ∧ s.Performs (.adraddReg c ar rs) c := by
  dsimp only
  and_intros <;> first | exact performs_of (by decide) | decide | decide +kernel

theorem test_w_StoreForms :
  let s : State := demo; let c : Ctl := always; let rs : BitVec 6 := 1; let ar : BitVec 5 := 1; let o5 : BitVec 5 := 1;
    let sz : BitVec 2 := 3; let ew : BitVec 2 := 2; let o8 : BitVec 8 := 1; let off : BitVec 11 := 5;
    let vr : BitVec 11 := 0; let vc : Bool := true; let u : Nat := 2 ^ sz.toNat;
    let disp : Int := if o8.getLsbD 7 then (o8.extractLsb' 4 3).toInt else (o8.extractLsb' 0 7).toInt;
    let disp5 : Int := if o5.getLsbD 4 then 0 else (o5.extractLsb' 0 4).toInt;
    let at_ (d : Int) : Nat := (BitVec.ofInt 32 (s.ra ar.toNat + d)).toNat;
    let legal (a n : Nat) : Prop := a + n ≤ s.shareSize ∧ a % n = 0; let cl := 2 * s.cur.col + vc.toNat;
    let n := vr.toNat % s.vcount; let a := at_ (disp * u); let av := at_ (disp5 * 64); let w : Nat := 2 ^ ew.toNat;
    let lane (l : Nat) : Nat := (s.ra ar.toNat + s.rv cl ((vr.toNat + 1) % s.vcount) / 2 ^ (32 * l) % 2 ^ 32 * w) % 2 ^ 32;
    s.b.region = none ∧ s.Performs (.st c rs ar sz o8) c ∧ legal a u ∧ s.Performs (.stv c vc vr ar o5) c ∧
    s.b.poison.contains (.v cl n) = false ∧ legal av 64 ∧ s.Performs (.scat c vc vr ar ew) c ∧
    s.b.poison.contains (.v cl ((vr.toNat + 1) % s.vcount)) = false ∧ (∀ l, l < 16 → legal (lane l) w) ∧
    s.Performs (.spst c rs off) c := by
  dsimp only
  and_intros <;> first | exact performs_of (by decide) | decide | decide +kernel

theorem test_w_ScratchpadTraps :
  (let s : State := { demo with b := { demo.b with ar := [(1, 0x3FFFFD)], sr := [(1, 0x3FFFF1)] } }; let n4 : BitVec 4 := 1;
    let n9 : BitVec 9 := 4; s.cur.phase = .alone ∧ s.b.region = none ∧ n9.toNat + n4.toNat ≤ 511) ∧ (let s : State := demo;
    s.cur.phase = .alone ∧ s.b.region = none) ∧ (let s : State := { demo with b := { demo.b with ar := [(1, 0x3FFFC1)] } };
    let vr : BitVec 11 := 0; let vc : Bool := false; let cl := 2 * s.cur.col + vc.toNat;
    let clean (n : Nat) : Prop := s.b.poison.contains (.v cl (n % s.vcount)) = false; s.cur.phase = .alone ∧
    s.b.region = none ∧ clean (vr.toNat + 1)) ∧ (let s : State := { demo with b := { demo.b with ar := [(1, 0x3FFFBF)] } };
    let vr : BitVec 11 := 0; let vc : Bool := false; let cl := 2 * s.cur.col + vc.toNat;
    let clean (n : Nat) : Prop := s.b.poison.contains (.v cl (n % s.vcount)) = false; s.cur.phase = .alone ∧
    s.b.region = none ∧ clean vr.toNat ∧ clean (vr.toNat + 1)) ∧
    (let s : State := { demo with b := { demo.b with cbc := [(1, .ofNat 64 (2 ^ 63 + 1 * 2 ^ 62 + 2 ^ 50 + 2 ^ 6))], cbs := [(1, .ofNat 64 (2 ^ 25 + 2 ^ 16 + 2 ^ 8))] } };
    let c : Ctl := always; let ew : BitVec 2 := 2; let vr : BitVec 11 := 0; let vc : Bool := false; let cb : BitVec 3 := 1;
    let o6 : BitVec 6 := 0; let w : Nat := 2 ^ ew.toNat; let i := 8 * s.cur.col + cb.toNat; let cfg := s.b.cbc.get 0 i;
    let enabled (out : Bool) : Prop := rfld cfg 63 63 = 1 ∧ rfld cfg 62 62 = out.toNat; s.cur.phase = .alone ∧
    s.b.region = none ∧ (∀ p ∈ s.b.pend, ∀ col buf w, p.loc = .cbrel col buf w → 8 * col + buf ≠ i) ∧
    s.Performs (.cbrdVector c vc vr cb o6) c ∧ ¬enabled false) ∧
    (let s : State := { demo with b := { demo.b with cbc := [(1, .ofNat 64 (2 ^ 63 + 0 * 2 ^ 62 + 2 ^ 50 + 2 ^ 6))], cbs := [(1, .ofNat 64 (2 ^ 25 + 2 ^ 16 + 2 ^ 8))] } };
    let c : Ctl := always; let ew : BitVec 2 := 2; let vr : BitVec 11 := 0; let vc : Bool := false; let cb : BitVec 3 := 1;
    let o6 : BitVec 6 := 1; let w : Nat := 2 ^ ew.toNat; let i := 8 * s.cur.col + cb.toNat; let cfg := s.b.cbc.get 0 i;
    let st := s.b.cbs.get 0 i; let image := (rfld cfg 49 38 + 1) * 64;
    let slot (k : Nat) : Nat := rfld cfg 24 6 * 64 + k * image;
    let enabled (out : Bool) : Prop := rfld cfg 63 63 = 1 ∧ rfld cfg 62 62 = out.toNat; s.cur.phase = .alone ∧
    s.b.region = none ∧ (∀ p ∈ s.b.pend, ∀ col buf w, p.loc = .cbrel col buf w → 8 * col + buf ≠ i) ∧
    s.Performs (.cbrdVector c vc vr cb o6) c ∧ enabled false ∧
    (image < 64 * o6.toNat + 64 ∨ s.shareSize < slot (rfld st 15 8) + image)) ∧
    (let s : State := { demo with b := { demo.b with cbc := [(1, .ofNat 64 (2 ^ 63 + 0 * 2 ^ 62 + 2 ^ 50 + 2 ^ 6))], cbs := [(1, .ofNat 64 (2 ^ 25 + 2 ^ 16 + 2 ^ 8))] } };
    let c : Ctl := always; let ar : BitVec 5 := 1; let ew : BitVec 2 := 2; let tl : Bool := true; let cb : BitVec 3 := 1;
    let w : Nat := 2 ^ ew.toNat; let i := 8 * s.cur.col + cb.toNat; let cfg := s.b.cbc.get 0 i;
    let enabled (out : Bool) : Prop := rfld cfg 63 63 = 1 ∧ rfld cfg 62 62 = out.toNat; s.cur.phase = .alone ∧
    s.b.region = none ∧ (∀ p ∈ s.b.pend, ∀ col buf w, p.loc = .cbrel col buf w → 8 * col + buf ≠ i) ∧
    s.Performs (.cbrdAddress c ar tl cb) c ∧ ¬enabled tl) ∧
    (let s : State := { demo with b := { demo.b with cbc := [(1, .ofNat 64 (2 ^ 63 + 0 * 2 ^ 62 + 2 ^ 50 + 2 ^ 24))], cbs := [(1, .ofNat 64 (2 ^ 25 + 2 ^ 16 + 2 ^ 8))] } };
    let c : Ctl := always; let ar : BitVec 5 := 1; let ew : BitVec 2 := 2; let tl : Bool := false; let cb : BitVec 3 := 1;
    let w : Nat := 2 ^ ew.toNat; let i := 8 * s.cur.col + cb.toNat; let cfg := s.b.cbc.get 0 i; let st := s.b.cbs.get 0 i;
    let image := (rfld cfg 49 38 + 1) * 64; let slot (k : Nat) : Nat := rfld cfg 24 6 * 64 + k * image;
    let enabled (out : Bool) : Prop := rfld cfg 63 63 = 1 ∧ rfld cfg 62 62 = out.toNat;
    let a := slot (if tl then rfld st 7 0 else rfld st 15 8); s.cur.phase = .alone ∧ s.b.region = none ∧
    (∀ p ∈ s.b.pend, ∀ col buf w, p.loc = .cbrel col buf w → 8 * col + buf ≠ i) ∧ s.Performs (.cbrdAddress c ar tl cb) c ∧
    enabled tl ∧ s.shareSize < a + image) ∧
    (let s : State := { demo with b := { demo.b with cbc := [(1, .ofNat 64 (2 ^ 63 + 1 * 2 ^ 62 + 2 ^ 50 + 2 ^ 6))], cbs := [(1, .ofNat 64 (2 ^ 25 + 2 ^ 16 + 2 ^ 8))] } };
    let c : Ctl := always; let ew : BitVec 2 := 2; let cb : BitVec 3 := 1; let w : Nat := 2 ^ ew.toNat;
    let i := 8 * s.cur.col + cb.toNat; let cfg := s.b.cbc.get 0 i;
    let enabled (out : Bool) : Prop := rfld cfg 63 63 = 1 ∧ rfld cfg 62 62 = out.toNat; s.cur.phase = .alone ∧
    s.b.region = none ∧ (∀ p ∈ s.b.pend, ∀ col buf w, p.loc = .cbrel col buf w → 8 * col + buf ≠ i) ∧
    s.Performs (.cbrel c cb) c ∧ ¬enabled (s.cur.slot == 2)) := by
  dsimp only
  refine ⟨⟨?_, ?_, ?_⟩, ⟨?_, ?_⟩, ⟨?_, ?_, ?_⟩, ⟨?_, ?_, ?_, ?_⟩, ⟨?_, ?_, (by intro p h; cases h), ?_, ?_⟩, ⟨?_, ?_, (by intro p h; cases h), ?_, ?_, ?_⟩, ⟨?_, ?_, (by intro p h; cases h), ?_, ?_⟩, ⟨?_, ?_, (by intro p h; cases h), ?_, ?_, ?_⟩, ⟨?_, ?_, (by intro p h; cases h), ?_, ?_⟩⟩ <;> first | exact performs_of (by decide) | decide | decide +kernel

theorem test_w_StoresLand :
  let s : State := demo; let bank : Nat := 0; s.b.key = bank := by
  dsimp only
  first | exact performs_of (by decide) | decide | decide +kernel

theorem test_w_ResultsLand :
  let s : State := demo; let bank : Nat := 0; s.b.key = bank := by
  dsimp only
  first | exact performs_of (by decide) | decide | decide +kernel

theorem test_w_FarForms :
  let s : State := { demo with b := { demo.b with ar := [(1, 0x2000040)] }, banks := [(8, { Bank.fresh 8 with bound := true, uid := 2056, mode := .whole })] };
    let c : Ctl := always; let rs : BitVec 6 := 3; let ar : BitVec 5 := 1; let arr5 : BitVec 5 := 31;
    let fmt : BitVec 3 := 6; let arr : BitVec 8 := 255; let vc : Bool := true; let vr : BitVec 11 := 5;
    let size : Nat := match fmt.toNat with | 0 => 1 | 1 => 1 | 2 => 2 | 3 => 2 | 4 => 4 | 5 => 4 | _ => 8;
    let a := s.ra ar.toNat; let core := 16 * (s.b.core / 16) + a / 2 ^ 25 % 16;
    let legal (n : Nat) : Prop := a % 2 ^ 25 + n ≤ s.shareSize ∧ a % n = 0 ∧ a / 2 ^ 29 % 8 = 0 ∧ ∃ x ∈ s.bound, x.lnch = s.b.lnch ∧ x.core = core;
    s.Performs (.fld c rs ar fmt arr) c ∧ legal size ∧ s.Performs (.fldv c vc vr ar arr5) c ∧ legal 64 ∧ s.b.region = none := by
  dsimp only
  and_intros <;> first | exact performs_of (by decide) | decide | decide +kernel

theorem test_w_FarMoves :
  (let s : State := { demo with b := { demo.b with fars := [⟨3, 0, .s 9, 8, false, some 1, 0x40, 4, 20, none, false, false, 1, 1, false⟩] }, banks := [(8, { Bank.fresh 8 with bound := true, uid := 2056, mode := .whole })] };
    let bank : Nat := 0; let far : Nat := 3; let k : Nat := 1;
    let f : Far := ⟨3, 0, .s 9, 8, false, some 1, 0x40, 4, 20, none, false, false, 1, 1, false⟩;
    let m : Bank := { Bank.fresh 8 with bound := true, uid := 2056, mode := .whole }; s.b.key = bank ∧
    s.b.fars.find? (fun x => x.id == far && x.data.isNone) = some f ∧ f.core = some k ∧ s.mate k = some m) ∧
    (let s : State := { demo with b := { demo.b with fars := [⟨3, 0, .s 9, 8, false, some 1, 0x40, 4, 20, none, false, false, 1, 1, false⟩] } };
    let bank : Nat := 0; let far : Nat := 3; let k : Nat := 1;
    let f : Far := ⟨3, 0, .s 9, 8, false, some 1, 0x40, 4, 20, none, false, false, 1, 1, false⟩; s.b.key = bank ∧
    s.b.fars.find? (fun x => x.id == far && x.data.isNone) = some f ∧ f.core = some k ∧ s.mate k = none) ∧
    (let s : State := { demo with b := { demo.b with fars := [⟨3, 0, .s 9, 8, false, some 1, 0x40, 4, 10, some 5, false, false, 1, 1, false⟩] } };
    let bank : Nat := 0; s.b.key = bank) ∧
    (let s : State := { demo with b := { demo.b with fars := [⟨3, 0, .s 9, 8, false, some 1, 0x40, 4, 10, none, false, false, 1, 1, false⟩] } };
    let bank : Nat := 0; s.b.key = bank ∧ s.b.starved s.now = true) ∧
    (let s : State := { demo with b := { demo.b with fars := [⟨3, 0, .s 9, 8, false, some 1, 0x40, 4, 10, some 7, true, false, 1, 1, false⟩] } };
    let bank : Nat := 0; let f : Far := ⟨3, 0, .s 9, 8, false, some 1, 0x40, 4, 10, some 7, true, false, 1, 1, false⟩;
    let n := 9; let d := 7; s.b.key = bank ∧ s.b.starved s.now = false ∧
    s.b.fars.filter (fun x => decide (x.due ≤ s.now) && x.here) = [f] ∧ f.dest = .s n ∧ f.lanes ≠ 0 ∧ f.data = some d ∧
    f.signed = false ∧ f.size ≤ 8 ∧ d < 2 ^ 64) := by
  dsimp only
  and_intros <;> first | exact performs_of (by decide) | decide | decide +kernel

theorem test_w_BufferForms :
  (let s : State := { demo with b := { demo.b with cbc := [(1, .ofNat 64 (2 ^ 63 + 0 * 2 ^ 62 + 2 ^ 50 + 2 ^ 6))], cbs := [(1, .ofNat 64 (2 ^ 25 + 2 ^ 16 + 2 ^ 8))] } };
    let c : Ctl := always; let vc : Bool := true; let vr : BitVec 11 := 5; let cb : BitVec 3 := 1; let off : BitVec 6 := 0;
    let i := 8 * s.cur.col + cb.toNat; let cfg := s.b.cbc.get 0 i; let st := s.b.cbs.get 0 i;
    let size := (rfld cfg 49 38 + 1) * 64; let slot (k : Nat) : Nat := rfld cfg 24 6 * 64 + k * size;
    let enabled (out : Bool) : Prop := rfld cfg 63 63 = 1 ∧ rfld cfg 62 62 = out.toNat;
    (∀ p ∈ s.b.pend, ∀ col buf w, p.loc = .cbrel col buf w → 8 * col + buf ≠ i) ∧ s.Performs (.cbrdVector c vc vr cb off) c ∧
    enabled false ∧ 0 < rfld st 33 25 ∧ 64 * off.toNat + 64 ≤ size ∧ slot (rfld st 15 8) + size ≤ s.shareSize) ∧
    (let s : State := { demo with b := { demo.b with cbc := [(1, .ofNat 64 (2 ^ 63 + 0 * 2 ^ 62 + 2 ^ 50 + 2 ^ 6))], cbs := [(1, .ofNat 64 (2 ^ 25 + 2 ^ 16 + 2 ^ 8))] } };
    let c : Ctl := always; let tl : Bool := false; let cb : BitVec 3 := 1; let ar : BitVec 5 := 1;
    let i := 8 * s.cur.col + cb.toNat; let cfg := s.b.cbc.get 0 i; let st := s.b.cbs.get 0 i;
    let size := (rfld cfg 49 38 + 1) * 64; let slot (k : Nat) : Nat := rfld cfg 24 6 * 64 + k * size;
    let enabled (out : Bool) : Prop := rfld cfg 63 63 = 1 ∧ rfld cfg 62 62 = out.toNat;
    let a := slot (if tl then rfld st 7 0 else rfld st 15 8); (∀ p ∈ s.b.pend, ∀ col buf w, p.loc = .cbrel col buf w →
    8 * col + buf ≠ i) ∧ s.Performs (.cbrdAddress c ar tl cb) c ∧ enabled tl ∧
    (if tl then 0 < rfld st 24 16 else 0 < rfld st 33 25) ∧ a + size ≤ s.shareSize) ∧
    (let s : State := { demo with b := { demo.b with cbc := [(1, .ofNat 64 (2 ^ 63 + 1 * 2 ^ 62 + 2 ^ 50 + 2 ^ 6))], cbs := [(1, .ofNat 64 (2 ^ 25 + 2 ^ 16 + 2 ^ 8))] } };
    let c : Ctl := always; let tl : Bool := true; let cb : BitVec 3 := 1; let ar : BitVec 5 := 1;
    let i := 8 * s.cur.col + cb.toNat; let cfg := s.b.cbc.get 0 i; let st := s.b.cbs.get 0 i;
    let size := (rfld cfg 49 38 + 1) * 64; let slot (k : Nat) : Nat := rfld cfg 24 6 * 64 + k * size;
    let enabled (out : Bool) : Prop := rfld cfg 63 63 = 1 ∧ rfld cfg 62 62 = out.toNat;
    let a := slot (if tl then rfld st 7 0 else rfld st 15 8); (∀ p ∈ s.b.pend, ∀ col buf w, p.loc = .cbrel col buf w →
    8 * col + buf ≠ i) ∧ s.Performs (.cbrdAddress c ar tl cb) c ∧ enabled tl ∧
    (if tl then 0 < rfld st 24 16 else 0 < rfld st 33 25) ∧ a + size ≤ s.shareSize) ∧
    (let s : State := { demo with b := { demo.b with cbc := [(1, .ofNat 64 (2 ^ 63 + 0 * 2 ^ 62 + 2 ^ 50 + 2 ^ 6))], cbs := [(1, .ofNat 64 (2 ^ 25 + 2 ^ 16 + 2 ^ 8))] } };
    let c : Ctl := always; let cb : BitVec 3 := 1; let i := 8 * s.cur.col + cb.toNat; let cfg := s.b.cbc.get 0 i;
    let st := s.b.cbs.get 0 i; let enabled (out : Bool) : Prop := rfld cfg 63 63 = 1 ∧ rfld cfg 62 62 = out.toNat;
    (∀ p ∈ s.b.pend, ∀ col buf w, p.loc = .cbrel col buf w → 8 * col + buf ≠ i) ∧ s.Performs (.cbrel c cb) c ∧
    enabled (s.cur.slot == 2) ∧ (if s.cur.slot = 2 then 0 < rfld st 24 16 else 0 < rfld st 33 25)) ∧
    (let s : State := { demo with cur := ⟨0, 2, 0, 0, .alone, []⟩, b := { demo.b with cbc := [(1, .ofNat 64 (2 ^ 63 + 1 * 2 ^ 62 + 2 ^ 50 + 2 ^ 6))], cbs := [(1, .ofNat 64 (2 ^ 25 + 2 ^ 16 + 2 ^ 8))] } };
    let c : Ctl := always; let cb : BitVec 3 := 1; let i := 8 * s.cur.col + cb.toNat; let cfg := s.b.cbc.get 0 i;
    let st := s.b.cbs.get 0 i; let enabled (out : Bool) : Prop := rfld cfg 63 63 = 1 ∧ rfld cfg 62 62 = out.toNat;
    (∀ p ∈ s.b.pend, ∀ col buf w, p.loc = .cbrel col buf w → 8 * col + buf ≠ i) ∧ s.Performs (.cbrel c cb) c ∧
    enabled (s.cur.slot == 2) ∧ (if s.cur.slot = 2 then 0 < rfld st 24 16 else 0 < rfld st 33 25)) := by
  dsimp only
  refine ⟨⟨(by intro p h; cases h), ?_, ?_, ?_, ?_, ?_⟩, ⟨(by intro p h; cases h), ?_, ?_, ?_, ?_⟩, ⟨(by intro p h; cases h), ?_, ?_, ?_, ?_⟩, ⟨(by intro p h; cases h), ?_, ?_, ?_⟩, ⟨(by intro p h; cases h), ?_, ?_, ?_⟩⟩ <;> first | exact performs_of (by decide) | decide | decide +kernel

theorem test_w_BufferCounters :
  (let b : Bank := { demoBank with cbc := [(1, .ofNat 64 (2 ^ 63 + 2 ^ 50 + 2 ^ 6))], cbs := [(1, .ofNat 64 (1 * 2 ^ 25 + 510 * 2 ^ 16 + 2 ^ 8))] };
    let i : Nat := 1; let cfg := b.cbc.get 0 i; let st := b.cbs.get 0 i; 0 < rfld st 33 25 ∧ rfld st 24 16 < 511 ∧
    rfld cfg 63 63 = 1) ∧
    (let b : Bank := { demoBank with cbc := [(1, .ofNat 64 (2 ^ 63 + 2 ^ 50 + 2 ^ 6))], cbs := [(1, .ofNat 64 (510 * 2 ^ 25 + 1 * 2 ^ 16 + 2 ^ 8))] };
    let i : Nat := 1; let st := b.cbs.get 0 i; 0 < rfld st 24 16 ∧ rfld st 33 25 < 511) ∧ (let b : Bank := demoBank;
    let i : Nat := 1; let cfg := b.cbc.get 0 i; rfld cfg 63 63 = 0) ∧ (let i : Nat := 1; let j := 2; j ≠ i) := by
  dsimp only
  and_intros <;> first | exact performs_of (by decide) | decide | decide +kernel

theorem test_w_ElementwiseEffect :
  let e : Vcw := ⟨2, 0, 1, 2, 3, 4, 0, 0, 0, 0, 0, false, false, 0, false, true, false, false, 1, 0⟩;
    let w := fmtWidth e.fmt.toNat; w ∈ [8, 16, 32] := by
  dsimp only
  first | exact performs_of (by decide) | decide | decide +kernel

theorem test_w_VectorIntegerForms :
  let s : State := demoV; let e : Vcw := ⟨6, 0, 1, 2, 3, 4, 0, 0, 0, 0, 0, false, false, 0, false, true, false, false, 1, 5⟩;
    isFlt e.fmt.toNat = false ∧ e.fmt.toNat < 8 ∧ e.fmt.toNat % 4 ≠ 3 ∧ s.vecCauses e true true true = [] ∧
    s.Performs (.vadd e) (vctl e) ∧ s.Performs (.vsub e) (vctl e) ∧ s.Performs (.vmul e) (vctl e) ∧
    s.Performs (.vfma e) (vctl e) ∧ s.Performs (.vfms e) (vctl e) ∧ s.Performs (.vmin e) (vctl e) ∧
    s.Performs (.vmax e) (vctl e) ∧ s.Performs (.vabs e) (vctl e) ∧ s.Performs (.vneg e) (vctl e) ∧
    s.Performs (.vcmp e) (vctl e) ∧ e.imm.toNat < 6 := by
  dsimp only
  and_intros <;> first | exact performs_of (by decide) | decide | decide +kernel

theorem test_w_VectorBitForms :
  let s : State := demoV; let e : Vcw := ⟨0, 0, 1, 2, 3, 4, 0, 0, 0, 0, 0, false, false, 0, false, true, false, false, 1, 0⟩;
    let w := fmtWidth e.fmt.toNat; s.vecCauses e true true true = [] ∧ w ∈ [8, 16, 32] ∧ s.Performs (.vand e) (vctl e) ∧
    s.Performs (.vor e) (vctl e) ∧ s.Performs (.vxor e) (vctl e) ∧ s.Performs (.vshl e) (vctl e) ∧
    s.Performs (.vshr e) (vctl e) ∧ s.Performs (.vsra e) (vctl e) ∧ s.Performs (.vsel e) (vctl e) := by
  dsimp only
  and_intros <;> first | exact performs_of (by decide) | decide | decide +kernel

theorem test_w_VectorFloatForms :
  let s : State := demoV; let e : Vcw := ⟨8, 0, 1, 2, 3, 4, 0, 0, 0, 0, 0, false, false, 0, false, true, false, false, 1, 7⟩;
    isFlt e.fmt.toNat = true ∧ s.vecCauses e true true true = [] ∧ s.Performs (.vadd e) (vctl e) ∧
    s.Performs (.vsub e) (vctl e) ∧ s.Performs (.vmul e) (vctl e) ∧ s.Performs (.vfma e) (vctl e) ∧
    s.Performs (.vfms e) (vctl e) ∧ s.Performs (.vmin e) (vctl e) ∧ s.Performs (.vmax e) (vctl e) ∧
    s.Performs (.vabs e) (vctl e) ∧ s.Performs (.vneg e) (vctl e) ∧ s.Performs (.vcmp e) (vctl e) ∧ e.imm.toNat < 8 := by
  dsimp only
  and_intros <;> first | exact performs_of (by decide) | decide | decide +kernel

theorem test_w_PatternsDeliverThemselves :
  (let f : Nat := 8; let n : Nat := 0xFFFFFFFF; isFlt f = true ∧ n < 2 ^ fmtWidth f) ∧ (let f : Nat := 11;
    let n : Nat := 0xFF; isFlt f = true ∧ n < 2 ^ fmtWidth f) := by
  dsimp only
  and_intros <;> first | exact performs_of (by decide) | decide | decide +kernel

theorem test_w_RoundingBrackets :
  (let f : Nat := 8; let rm : Nat := 2; let sat : Bool := false; let neg : Bool := true; let m : Nat := 3; let e : Int := -1;
    let z := roundTo f 1 sat neg m e false; let r := roundTo f rm sat neg m e false; isFlt f = true ∧ m ≠ 0 ∧ z.2 &&& 4 = 0 ∧
    r.2 &&& 4 = 0 ∧ z.2 &&& 1 = 0) ∧ (let f : Nat := 9; let rm : Nat := 1; let sat : Bool := true; let neg : Bool := false;
    let m : Nat := 2049; let e : Int := 4; let z := roundTo f 1 sat neg m e false; let r := roundTo f rm sat neg m e false;
    isFlt f = true ∧ m ≠ 0 ∧ z.2 &&& 4 = 0 ∧ r.2 &&& 4 = 0) ∧ (let f : Nat := 8; let rm : Nat := 2; let sat : Bool := false;
    let neg : Bool := true; let m : Nat := 3; let e : Int := -1; let z := roundTo f 1 sat neg m e false;
    let r := roundTo f rm sat neg m e false; let mag (n : Nat) : Nat := n % 2 ^ (fmtWidth f - 1); let b := false;
    let k := 0xC00000; let x := -23; let h := min x e; let v := m * 2 ^ (e - h).toNat; let low := k * 2 ^ (x - h).toNat;
    isFlt f = true ∧ m ≠ 0 ∧ z.2 &&& 4 = 0 ∧ r.2 &&& 4 = 0 ∧ fval f (mag z.1) = .fin b k x ∧ v = low) ∧ (let f : Nat := 8;
    let rm : Nat := 0; let sat : Bool := false; let neg : Bool := false; let m : Nat := 0x1000001; let e : Int := 0;
    let z := roundTo f 1 sat neg m e false; let r := roundTo f rm sat neg m e false;
    let mag (n : Nat) : Nat := n % 2 ^ (fmtWidth f - 1); let b := false; let k := 0x800000; let x := 1; let h := min x e;
    let v := m * 2 ^ (e - h).toNat; let low := k * 2 ^ (x - h).toNat; isFlt f = true ∧ m ≠ 0 ∧ z.2 &&& 4 = 0 ∧
    r.2 &&& 4 = 0 ∧ fval f (mag z.1) = .fin b k x ∧ v ≠ low ∧ rm < 4) := by
  dsimp only
  and_intros <;> first | exact performs_of (by decide) | decide | decide +kernel

theorem test_w_VectorConversions :
  (let s : State := demoV;
    let e : Vcw := ⟨8, 9, 1, 2, 3, 4, 0, 0, 0, 0, 0, false, false, 0, false, true, false, false, 1, 1⟩;
    let ws := fmtWidth e.fmt.toNat; let wd := fmtWidth e.fmt2.toNat; let ns := 32 / ws; let nd := 32 / wd;
    let p := e.imm.toNat; let cl := s.clV; let rd := s.eff e.rd e.std; s.Performs (.vcvt e) (vctl e) ∧
    s.vecCauses e true false false = [] ∧ ws ∈ [8, 16, 32] ∧ wd ∈ [8, 16, 32] ∧ p < max (nd / ns) (ns / nd) ∧
    s.b.poison.contains (.v cl rd) = false) ∧ (let s : State := demoV;
    let e : Vcw := ⟨0, 2, 1, 2, 3, 4, 0, 0, 0, 0, 0, false, false, 0, false, true, false, false, 1, 3⟩;
    let ws := fmtWidth e.fmt.toNat; let wd := fmtWidth e.fmt2.toNat; let ns := 32 / ws; let nd := 32 / wd;
    let p := e.imm.toNat; let cl := s.clV; let rd := s.eff e.rd e.std; s.Performs (.vcvt e) (vctl e) ∧
    s.vecCauses e true false false = [] ∧ ws ∈ [8, 16, 32] ∧ wd ∈ [8, 16, 32] ∧ p < max (nd / ns) (ns / nd) ∧
    s.b.poison.contains (.v cl rd) = false) := by
  dsimp only
  and_intros <;> first | exact performs_of (by decide) | decide | decide +kernel

theorem test_w_BlockFloatingForms :
  let s : State := demoV;
    let e : Vcw := ⟨8, 20, 1, 2, 3, 4, 0, 0, 0, 0, 0, false, false, 0, false, true, false, false, 1, 3⟩;
    let m := bfpWidth e.fmt2.toNat; let p := e.imm.toNat; let cl := s.clV; s.vecCauses e true true true = [] ∧ 2 ≤ m ∧
    p < 32 / m ∧ s.b.poison.contains (.v cl (s.eff e.rd e.std)) = false ∧ s.Performs (.vqbfp e) (vctl e) ∧
    s.Performs (.vxbfp e) (vctl e) := by
  dsimp only
  and_intros <;> first | exact performs_of (by decide) | decide | decide +kernel

theorem test_w_SpecialFunctions :
  (let s : State := demoV;
    let e : Vcw := ⟨8, 0, 1, 2, 3, 4, 0, 0, 0, 0, 0, false, false, 0, false, true, false, false, 1, 0⟩;
    s.vecCauses e true false false = [] ∧ s.Performs (.vrcp e) (vctl e) ∧ s.Performs (.vrsq e) (vctl e) ∧
    s.Performs (.vexp2 e) (vctl e) ∧ s.Performs (.vlog2 e) (vctl e) ∧ s.Performs (.vtanh e) (vctl e)) ∧ (let f : Nat := 9;
    (f = 8 ∨ f = 9 ∨ f = 10)) ∧ (let f : Nat := 9; let top := 2 ^ (fmtWidth f - 1); let n := 0xFC00;
    (f = 8 ∨ f = 9 ∨ f = 10) ∧ n < 2 * top ∧ n ≠ top ∧ (fval f n).isNan = false ∧ (fval f n).isNeg = true) ∧
    (let f : Nat := 10; let fn := 4; let n := 0x7F81; (f = 8 ∨ f = 9 ∨ f = 10) ∧ fn < 5 ∧ (fval f n).isNan = true) := by
  dsimp only
  and_intros <;> first | exact performs_of (by decide) | decide | decide +kernel

theorem test_w_VectorMoves :
  (let s : State := demoV;
    let e : Vcw := ⟨2, 0, 1, 2, 3, 4, 0, 0, 0, 0, 0, false, false, 0, false, true, false, false, 1, 15⟩;
    let w := fmtWidth e.fmt.toNat; let k := e.imm.toNat; s.vecCauses e true true true = [] ∧ w ∈ [8, 16, 32] ∧
    s.Performs (.vperm e) (vctl e) ∧ s.Performs (.vbc e) (vctl e) ∧ k < 512 / w ∧ s.Performs (.vext e) (vctl e) ∧
    s.Performs (.viota e) (vctl e)) ∧ (let s : State := demoV;
    let e : Vcw := ⟨2, 0, 1, 2, 3, 4, 0, 0, 0, 0, 0, false, false, 0, false, true, false, false, 1, 7⟩;
    let w := fmtWidth e.fmt.toNat; let k := e.imm.toNat; s.vecCauses e true true true = [] ∧ w ∈ [8, 16, 32] ∧
    s.Performs (.vxc e) (vctl e) ∧ k < 2 * s.b.cols ∧ k < 8) := by
  dsimp only
  and_intros <;> first | exact performs_of (by decide) | decide | decide +kernel

theorem test_w_ScanForm :
  let s : State := demoV; let e : Vcw := ⟨2, 0, 1, 2, 3, 4, 0, 0, 0, 0, 0, false, false, 0, false, true, false, false, 1, 2⟩;
    s.Performs (.vscan e) (vctl e) ∧ s.vecCauses e true false false = [] ∧ e.imm.toNat < 3 ∧
    fmtWidth e.fmt.toNat ∈ [8, 16, 32] := by
  dsimp only
  and_intros <;> first | exact performs_of (by decide) | decide | decide +kernel

theorem test_w_StickyFlagForms :
  (let s : State := demoV;
    let e : Vcw := ⟨2, 0, 1, 2, 3, 4, 0, 0, 0, 0, 0, false, false, 0, false, true, false, false, 1, 0⟩; let cl := s.clV;
    s.Performs (.vflg e) (vctl e) ∧ s.vecCauses e true false false = [] ∧ e.imm = 0 ∧ (∀ p ∈ s.b.pend, p.loc ≠ .vfl cl)) ∧
    (let s : State := demoV;
    let e : Vcw := ⟨2, 0, 1, 2, 3, 4, 0, 0, 0, 0, 0, false, false, 0, false, true, false, false, 1, 0x7E⟩;
    s.Performs (.vflg e) (vctl e) ∧ s.vecCauses e true false false = [] ∧ e.imm.toNat % 4 ≠ 0 ∧ e.imm.toNat % 4 ≠ 3 ∧
    s.laneMask e ≠ 0) := by
  dsimp only
  refine ⟨⟨?_, ?_, ?_, (by intro p h; cases h)⟩, ⟨?_, ?_, ?_, ?_, ?_⟩⟩ <;> first | exact performs_of (by decide) | decide | decide +kernel

theorem test_w_TableLoad :
  (let s : State := demo; let c : Ctl := always; let idx : BitVec 9 := 496; let ra : BitVec 6 := 5; let cnt : BitVec 4 := 15;
    let a := (s.rs ra.toNat).toNat % 2 ^ 32; let n := cnt.toNat + 1; s.Performs (.vcwld c idx ra cnt) c ∧
    idx.toNat + cnt.toNat ≤ 511 ∧ a + 32 * n ≤ s.shareSize ∧ a % 32 = 0) ∧ (let s : State := demo; let c : Ctl := always;
    let idx : BitVec 9 := 497; let ra : BitVec 6 := 5; let cnt : BitVec 4 := 15; s.Performs (.vcwld c idx ra cnt) c ∧
    511 < idx.toNat + cnt.toNat ∧ s.cur.phase = .alone ∧ s.b.region = none) := by
  dsimp only
  and_intros <;> first | exact performs_of (by decide) | decide | decide +kernel

theorem test_w_ReductionForms :
  let s : State := demo; let c : Ctl := always; let ql : BitVec 2 := 3; let cls : BitVec 2 := 2; let iv : BitVec 2 := 1;
    let lm : Bool := true; let cl : Bool := true; let rd : BitVec 6 := 9; s.Performs (.qadd c ql cls lm) c ∧
    s.Performs (.qmax c ql cls lm) c ∧ s.Performs (.qmin c ql cls lm) c ∧ s.Performs (.qdrn c ql rd cl) c ∧
    s.Performs (.qclr c ql iv lm) c := by
  dsimp only
  and_intros <;> first | exact performs_of (by decide) | decide | decide +kernel

theorem test_w_LatchUpdates :
  (let s : State := { demo with b := { demo.b with contribs := [⟨0, 0, some 1, true, 0, [(2, 5)], 4, 4, 5, false, false, false⟩] } };
    let bank : Nat := 0; s.b.key = bank ∧ s.b.region = none ∧
    (s.b.contribs.filter fun k => k.ql.isSome && decide (k.acc + 6 ≤ s.now)) = []) ∧
    (let s : State := { demo with b := { demo.b with contribs := [⟨0, 0, some 1, true, 0, [(2, 5)], 4, 4, 4, false, false, false⟩] } };
    let bank : Nat := 0; let k : Contrib := ⟨0, 0, some 1, true, 0, [(2, 5)], 4, 4, 4, false, false, false⟩;
    let l : Nat := 1; s.b.key = bank ∧ s.b.region = none ∧
    (s.b.contribs.filter fun k => k.ql.isSome && decide (k.acc + 6 ≤ s.now)) = [k] ∧ k.ql = some l) ∧
    (let k : Contrib := ⟨0, 0, some 1, true, 0, [(2, 5)], 4, 4, 4, false, false, false⟩; k.i64 = true ∧
    (∀ x ∈ k.elems, isFlt x.1 = false)) := by
  dsimp only
  and_intros <;> first | exact performs_of (by decide) | decide | decide +kernel

theorem test_w_TileLegality :
  (let i : Instr := .tzero always 5 false; Instr.quad i = false) ∧ (let i : Instr := .mma always 4 true 0 1 0 0 0 false true;
    Instr.quad i = true) ∧ (let i : Instr := .tzero always 5 false; let d := Instr.destTiles i;
    let named : List Nat := match i with | .tst _ t .. => [t.toNat] | _ => d; let t := 5; Instr.quad i = false ∧ t ∈ named) ∧
    (let i : Instr := .tmov always 5 false 6; let r := Instr.srcTiles i; let t := 6; Instr.quad i = false ∧ t ∈ r) ∧
    (let i : Instr := .tzero always 0 false; Instr.quad i = false) ∧ (let i : Instr := .tzero always 124 true;
    Instr.quad i = true) := by
  dsimp only
  and_intros <;> first | exact performs_of (by decide) | decide | decide +kernel

theorem test_w_MatrixForms :
  (let s : State := demo; let c : Ctl := always; let t : BitVec 11 := 0; let qd : Bool := false; let cl : Bool := true;
    let aa : BitVec 5 := 1; let ab : BitVec 5 := 2; let ar : BitVec 5 := 1; let fmt : BitVec 5 := 8; let fa : BitVec 3 := 2;
    let fb : BitVec 3 := 2; let xs : BitVec 3 := 1; let ncm : BitVec 7 := 1; let src : BitVec 14 := 16;
    let rd : BitVec 6 := 9; let a (r : BitVec 5) : Nat := s.ra r.toNat; let n := ncm.toNat + 1;
    let width (f : BitVec 3) : Nat := if f = 7 then 16 else f.toNat + 2; let cols := if qd then 128 else 32;
    let image (f : BitVec 5) : Nat := if isBfp f.toNat then cols / 16 * 128 * (2 * bfpWidth f.toNat + 1) else fmtWidth f.toNat / 8 * 128 * cols;
    let pa := n * 128 * (2 * width fa + 1); let pb := (cols * n + 63) / 64 * 64 + cols * n * 2 * width fb;
    let fits (b k : Nat) : Prop := b + k ≤ s.shareSize ∧ b % 64 = 0; s.b.region = none ∧ t.toNat + 4 * s.cur.j < 2048 ∧
    fits (a aa) pa ∧ fits (a ab) pb ∧ fits (a ar) (image fmt) ∧ (∀ k, k < 4 → s.b.poison.contains (.xs k xs.toNat) = false) ∧
    s.b.poison.contains (.xs s.cur.col xs.toNat) = false ∧ src.getLsbD 13 = false ∧ s.Performs (.trow c rd cl) c) ∧
    (let s : State := demo; let t : BitVec 11 := 124; let qd : Bool := true; let src : BitVec 14 := 0x2180;
    let a (r : BitVec 5) : Nat := s.ra r.toNat; let cols := if qd then 128 else 32;
    let fits (b k : Nat) : Prop := b + k ≤ s.shareSize ∧ b % 64 = 0; s.b.region = none ∧ t.toNat + 4 * s.cur.j < 2048 ∧
    src.getLsbD 13 = true ∧ s.b.poison.contains (.a (src.toNat / 256 % 32)) = false ∧
    fits (a (src.extractLsb' 8 5)) (4 * 128 * cols)) := by
  dsimp only
  and_intros <;> first | exact performs_of (by decide) | decide | decide +kernel

theorem test_w_StreamStarts :
  let s : State := demo; let c : Ctl := always; let t : BitVec 11 := 0; let qd : Bool := false; let z : Bool := true;
    let sp : BitVec 5 := 1; let ab : BitVec 5 := 2; let fa : BitVec 3 := 0; let fb : BitVec 3 := 0; let ncm : BitVec 7 := 0;
    let u : BitVec 11 := .ofNat 11 (t.toNat + 4 * s.cur.j); let i : Instr := .mmas c t qd sp ab fa fb ncm z;
    let j : Instr := .mmas c u qd sp ab fa fb ncm z; let n := ncm.toNat + 1;
    let width (f : BitVec 3) : Nat := if f = 7 then 16 else f.toNat + 2; let cols := if qd then 128 else 32;
    let k := 4 * s.cur.col + 3; s.b.region = none ∧ t.toNat + 4 * s.cur.j < 2048 ∧ s.Performs i c ∧ s.xIllegal j = false ∧
    s.xBusy j = false ∧ (s.b.queues.get .empty k).pkts.length < 16 ∧ s.ra ab.toNat % 64 = 0 ∧
    s.ra ab.toNat + ((cols * n + 63) / 64 * 64 + cols * n * 2 * width fb) ≤ s.shareSize := by
  dsimp only
  and_intros <;> first | exact performs_of (by decide) | decide | decide +kernel

theorem test_w_OperationStarts :
  let s : State := { demo with cores := [(0, { Core.reset with a := { SlotMem.zero with partw := 0x0408 }, xops := [⟨0, 0, false, 0, .tzero always 0 false, 0, 0, [], none, none, 4, 9, false, false, []⟩], cyc := 10 })] };
    let core : Nat := 0; let op : Nat := 0;
    let o : XOp := ⟨0, 0, false, 0, .tzero always 0 false, 0, 0, [], none, none, 4, 9, false, false, []⟩;
    let k := s.cores.get .reset core; k.xops.find? (fun x => x.id == op && x.start.isNone) = some o ∧
    (∀ x ∈ k.xops, x.id = op ∨ Instr.onArray x.ins ≠ Instr.onArray o.ins ∨ x.quarters.any (fun q => o.quarters.contains q) = false ∨ match x.start with | none => op < x.id | some t => ∃ n r, Instr.xTime x.ins = some (n,
    r) ∧ t + n ≤ k.cyc) ∧
    (Instr.ranges o.ins o.aa o.ab).any (fun r => k.lockedBy (fun x => decide (x.id < op) || x.start.isSome) o.slotB r.2.1 r.2.2 r.1) = false ∧
    (∀ b, s.bank? o.bank = some b → ∀ e ∈ b.streams, e.2.xop = o.id → e.2.susp = false) ∧ o.cyc ≤ k.cyc := by
  dsimp only
  refine ⟨?_, (by intro x h; cases h with | head => exact .inl rfl | tail _ h => cases h), ?_, (by intro b h; cases h; decide), ?_⟩ <;> first | exact performs_of (by decide) | decide | decide +kernel

theorem test_w_StreamRows :
  (let s : State := { demoM with b := { demoM.b with streams := [(0, ⟨0, 0, false, 0x200, 2, 2, 1, true, 0x100, 0x100, 126, false, 0, none, false, false⟩)], queues := [(3, ⟨[], false, false, 0⟩)] }, cores := [(0, { Core.reset with a := { SlotMem.zero with partw := 0x0408 }, xops := [⟨0, 0, false, 0, .mmas always 0 false 0 2 0 0 0 true, 0, 0x200, [], some 4, none, 4, 4, false, false, []⟩], cyc := 10 })] };
    let bank : Nat := 0; let col : Nat := 0; let id : Nat := 0;
    let st : Stream := ⟨0, 0, false, 0x200, 2, 2, 1, true, 0x100, 0x100, 126, false, 0, none, false, false⟩;
    let o : XOp := ⟨0, 0, false, 0, .mmas always 0 false 0 2 0 0 0 true, 0, 0x200, [], some 4, none, 4, 4, false, false, []⟩;
    let q := s.b.queues.get .empty (4 * col + 3); let w := s.draw; let va := (st.va.toNat + st.row * st.str.toNat) % 2 ^ 64;
    let n := st.nc * (2 * st.fa + 1); let bs := List.replicate 5 0; let bad := false; let ls := [(demoLeaf, 0x7F00)];
    s.b.key = bank ∧ s.b.region = none ∧ st.reg = false ∧ s.b.streams.find? (fun e => e.2.col == col) = some (id, st) ∧
    st.susp = false ∧ id = st.xop ∧ st.row < 128 ∧ q.susp = false ∧
    (q.pkts.takeWhile fun p => match p.kind with | .mmas _ => false | _ => true).all (·.done) = true ∧
    s.core.xops.find? (fun o => o.id == st.xop) = some o ∧ o.start.isSome = true ∧ o.due = none ∧
    w.readGlobal .mmas false st.snap (n / 128 + 2) va n = .ok (bs, bad, ls) ∧ w.readWaits (4 * col + 3) ls st.snap = false) ∧
    (let s : State := { demoM with b := { demoM.b with streams := [(0, ⟨0, 0, false, 0x200, 2, 2, 1, true, 0x100, 0x100, 127, false, 0, none, false, false⟩)], queues := [(3, ⟨[], false, false, 0⟩)] }, cores := [(0, { Core.reset with a := { SlotMem.zero with partw := 0x0408 }, xops := [⟨0, 0, false, 0, .mmas always 0 false 0 2 0 0 0 true, 0, 0x200, [], some 4, none, 4, 4, false, false, []⟩], cyc := 10 })] };
    let bank : Nat := 0; let col : Nat := 0; let id : Nat := 0;
    let st : Stream := ⟨0, 0, false, 0x200, 2, 2, 1, true, 0x100, 0x100, 127, false, 0, none, false, false⟩;
    let o : XOp := ⟨0, 0, false, 0, .mmas always 0 false 0 2 0 0 0 true, 0, 0x200, [], some 4, none, 4, 4, false, false, []⟩;
    let q := s.b.queues.get .empty (4 * col + 3); let w := s.draw; let va := (st.va.toNat + st.row * st.str.toNat) % 2 ^ 64;
    let n := st.nc * (2 * st.fa + 1); let bs := List.replicate 5 0; let bad := false; let ls := [(demoLeaf, 0x8000)];
    s.b.key = bank ∧ s.b.region = none ∧ st.reg = false ∧ s.b.streams.find? (fun e => e.2.col == col) = some (id, st) ∧
    st.susp = false ∧ id = st.xop ∧ st.row < 128 ∧ q.susp = false ∧
    (q.pkts.takeWhile fun p => match p.kind with | .mmas _ => false | _ => true).all (·.done) = true ∧
    s.core.xops.find? (fun o => o.id == st.xop) = some o ∧ o.start.isSome = true ∧ o.due = none ∧
    w.readGlobal .mmas false st.snap (n / 128 + 2) va n = .ok (bs, bad, ls) ∧ w.readWaits (4 * col + 3) ls st.snap = false) ∧
    (let s : State := { demoM with b := { demoM.b with streams := [(0, ⟨0, 0, false, 0x200, 2, 2, 1, true, 0x10000, 0x100, 127, false, 0, none, false, false⟩)], queues := [(3, ⟨[], false, false, 0⟩)] }, cores := [(0, { Core.reset with a := { SlotMem.zero with partw := 0x0408 }, xops := [⟨0, 0, false, 0, .mmas always 0 false 0 2 0 0 0 true, 0, 0x200, [], some 4, none, 4, 4, false, false, []⟩], cyc := 10 })] };
    let bank : Nat := 0; let col : Nat := 0; let id : Nat := 0;
    let st : Stream := ⟨0, 0, false, 0x200, 2, 2, 1, true, 0x10000, 0x100, 127, false, 0, none, false, false⟩;
    let o : XOp := ⟨0, 0, false, 0, .mmas always 0 false 0 2 0 0 0 true, 0, 0x200, [], some 4, none, 4, 4, false, false, []⟩;
    let q := s.b.queues.get .empty (4 * col + 3); let w := s.draw; let va := (st.va.toNat + st.row * st.str.toNat) % 2 ^ 64;
    let n := st.nc * (2 * st.fa + 1); let f := ⟨1, 0⟩; let a := 0x17F00; s.b.key = bank ∧ s.b.region = none ∧
    st.reg = false ∧ s.b.streams.find? (fun e => e.2.col == col) = some (id, st) ∧ st.susp = false ∧ id = st.xop ∧
    st.row < 128 ∧ q.susp = false ∧
    (q.pkts.takeWhile fun p => match p.kind with | .mmas _ => false | _ => true).all (·.done) = true ∧
    s.core.xops.find? (fun o => o.id == st.xop) = some o ∧ o.start.isSome = true ∧ o.due = none ∧
    w.readGlobal .mmas false st.snap (n / 128 + 2) va n = .error (some (f, a)) ∧ col < 4) := by
  dsimp only
  refine ⟨⟨?_, ?_, ?_, ?_, ?_, ?_, ?_, ?_, ?_, ?_, ?_, ?_, ok_of (by decide +kernel), ?_⟩, ⟨?_, ?_, ?_, ?_, ?_, ?_, ?_, ?_, ?_, ?_, ?_, ?_, ok_of (by decide +kernel), ?_⟩, ⟨?_, ?_, ?_, ?_, ?_, ?_, ?_, ?_, ?_, ?_, ?_, ?_, rfl, ?_⟩⟩ <;> first | exact performs_of (by decide) | decide | decide +kernel

theorem test_w_TileResults :
  let s : State := { demo with cores := [(0, { Core.reset with a := { SlotMem.zero with partw := 0x0408 }, xops := [⟨0, 0, false, 0, .tzero always 0 false, 0, 0, [], some 5, some 9, 4, 9, false, false, []⟩], cyc := 10 })] };
    let core : Nat := 0; let op : Nat := 0;
    let o : XOp := ⟨0, 0, false, 0, .tzero always 0 false, 0, 0, [], some 5, some 9, 4, 9, false, false, []⟩;
    let d : Nat := 9;
    (s.cores.get .reset core).xops.find? (fun x => x.id == op && (match x.due with | some d => decide (d ≤ (s.cores.get .reset core).cyc) | none => false)) = some o ∧
    o.due = some d ∧ s.b.key = o.bank ∧ s.b.core = core ∧ s.b.slotB = o.slotB ∧ s.b.region = none ∧ o.reg = false := by
  dsimp only
  and_intros <;> first | exact performs_of (by decide) | decide | decide +kernel

theorem test_w_MatrixForms_issue :
  let s : State := demo;
    s.Performs (.mma always 0 false 1 2 2 2 1 true true) always ∧ s.xIllegal (.mma always 0 false 1 2 2 2 1 true true) = false ∧ s.xBusy (.mma always 0 false 1 2 2 2 1 true true) = false ∧
    s.Performs (.tzero always 0 false) always ∧ s.xIllegal (.tzero always 0 false) = false ∧ s.xBusy (.tzero always 0 false) = false ∧
    s.Performs (.tld always 0 false 1 8 true) always ∧ s.xIllegal (.tld always 0 false 1 8 true) = false ∧ s.xBusy (.tld always 0 false 1 8 true) = false ∧
    s.Performs (.tst always 0 false 1 8 1 true true) always ∧ s.xIllegal (.tst always 0 false 1 8 1 true true) = false ∧ s.xBusy (.tst always 0 false 1 8 1 true true) = false ∧
    s.Performs (.tadd always 0 false 4 16) always ∧ s.xIllegal (.tadd always 0 false 4 16) = false ∧ s.xBusy (.tadd always 0 false 4 16) = false ∧
    s.Performs (.tmov always 0 false 4) always ∧ s.xIllegal (.tmov always 0 false 4) = false ∧ s.xBusy (.tmov always 0 false 4) = false := by
  dsimp only
  and_intros <;> first | exact performs_of (by decide) | decide

theorem test_w_BlockCopyForms :
  (let s : State := demoC; let sp : BitVec 4 := 2; let fmt : BitVec 4 := 8;
    let g (n : Nat) : DWord := s.rs (4 * sp.toNat + n); let len := rfld (g 2) 31 0; let rows := rfld (g 2) 47 32 + 1;
    let stride (hi lo : Nat) : Int := (BitVec.ofNat 32 (rfld (g 3) hi lo)).toInt;
    let global (v : DWord) (hi lo : Nat) : Prop := rfld v 63 56 = 0 ∧ v.toNat % 32 = 0 ∧ (rows ≠ 1 → rfld (g 3) hi lo % 32 = 0);
    let within (base size : Nat) : Prop := (rows ≠ 1 → rfld (g 3) 31 0 % 32 = 0) ∧ (len ≠ 0 → ∀ i, i < rows → 0 ≤ (base : Int) + i * stride 31 0 ∧ (base : Int) + i * stride 31 0 + len ≤ size);
    let scratch := rfld (g 1) 63 32 = 0 ∧ rfld (g 1) 31 0 % 32 = 0 ∧ within (rfld (g 1) 31 0) s.shareSize;
    s.b.region = none ∧ global (g 0) 63 32 ∧ scratch ∧ global (g 1) 31 0 ∧ len % (fmtWidth fmt.toNat / 8) = 0) ∧
    (let s : State := { demoC with b := { demoC.b with sr := [(8, 0x10000), (10, 64)], cbc := [(1, .ofNat 64 (2 ^ 63 + 2 ^ 50 + 2 ^ 6))] } };
    let sp : BitVec 4 := 2; let cb : BitVec 3 := 1; let g (n : Nat) : DWord := s.rs (4 * sp.toNat + n);
    let len := rfld (g 2) 31 0; let rows := rfld (g 2) 47 32 + 1;
    let stride (hi lo : Nat) : Int := (BitVec.ofNat 32 (rfld (g 3) hi lo)).toInt;
    let global (v : DWord) (hi lo : Nat) : Prop := rfld v 63 56 = 0 ∧ v.toNat % 32 = 0 ∧ (rows ≠ 1 → rfld (g 3) hi lo % 32 = 0);
    let within (base size : Nat) : Prop := (rows ≠ 1 → rfld (g 3) 31 0 % 32 = 0) ∧ (len ≠ 0 → ∀ i, i < rows → 0 ≤ (base : Int) + i * stride 31 0 ∧ (base : Int) + i * stride 31 0 + len ≤ size);
    let buf := s.b.cb (8 * s.cur.col + cb.toNat); s.b.region = none ∧ global (g 0) 63 32 ∧ g 1 = 0 ∧ buf.en = true ∧
    within 0 buf.size ∧ buf.base + buf.nsl * buf.size ≤ s.shareSize) := by
  dsimp only
  and_intros <;> first | exact performs_of (by decide) | decide | decide +kernel

theorem test_w_GlobalAccessForms :
  let s : State := { demoC with b := { demoC.b with sr := [(1, 0xFFFFFFFFFFFFF8), (8, 0x10000)] } }; let sz : BitVec 2 := 3;
    let ra : BitVec 6 := 1; let addr (v : DWord) (n : Nat) : Prop := rfld v 63 56 = 0 ∧ v.toNat % n = 0;
    let n := 2 ^ sz.toNat; s.b.region = none ∧ addr (s.rs ra.toNat) n ∧ addr (s.rs ra.toNat) 8 := by
  dsimp only
  and_intros <;> first | exact performs_of (by decide) | decide | decide +kernel

theorem test_w_PacketsInOrder :
  (let s : State := demoQ demo [demoPkt .cpyIn 0x10000 0x40 0x40 true true, demoPkt .cpyIn 0x10000 0x40 0x40 false false];
    let bank : Nat := 0; let col : Nat := 0; let queue : Nat := 0; let k := 4 * col + queue;
    let q := s.b.queues.get .empty k; let pre := [demoPkt .cpyIn 0x10000 0x40 0x40 true true];
    let p := demoPkt .cpyIn 0x10000 0x40 0x40 false false; let post := []; s.b.key = bank ∧ q.pkts = pre ++ p :: post ∧
    (∀ x ∈ pre, x.started = true ∧ x.done = true) ∧ p.started = false ∧ q.susp = false ∧
    (∀ e ∈ s.b.queues, ∀ x ∈ e.2.pkts, x.acq = true → x.iss < p.iss → x.done = true) ∧
    (∀ f ∈ s.b.waiting, f.kind.holdsBack = true → p.iss ≤ f.iss) ∧ (∀ e ∈ s.b.ctxRds, e.1 < p.iss → e.2 ≤ s.now) ∧
    (p.rel = true → s.settledBefore p.iss = true) ∧ p.kind ≠ .cpyb) ∧
    (let s : State := demoQ demo [demoPkt .cpyIn 0x10000 0x40 0x40 true false, demoPkt .cpyIn 0x10000 0x40 0x40 false false];
    let bank : Nat := 0; let col : Nat := 0; let queue : Nat := 0; let k := 4 * col + queue;
    let q := s.b.queues.get .empty k; let pre := [demoPkt .cpyIn 0x10000 0x40 0x40 true false];
    let p := demoPkt .cpyIn 0x10000 0x40 0x40 false false; let post := []; s.b.key = bank ∧ q.pkts = pre ++ p :: post ∧
    (∀ x ∈ pre, x.started = true) ∧ (∃ x ∈ pre, x.done = false) ∧ p.started = false) ∧
    (let s : State := demoQ demo [demoPkt .cpyIn 0x10000 0x40 0x40 true true, demoPkt .cpyIn 0x10000 0x40 0x40 false false];
    let bank : Nat := 0; let col : Nat := 0; let queue : Nat := 0; let k := 4 * col + queue;
    let q := s.b.queues.get .empty k; let p := demoPkt .cpyIn 0x10000 0x40 0x40 true true;
    let ps := [demoPkt .cpyIn 0x10000 0x40 0x40 false false]; s.b.key = bank ∧ q.pkts = p :: ps ∧ p.done = true ∧
    p.kind ≠ .cpyb) ∧
    (let s : State := demoQ demo [demoPkt .cpyIn 0x10000 0x40 0x40 true false, demoPkt .cpyIn 0x10000 0x40 0x40 false false];
    let bank : Nat := 0; let col : Nat := 0; let queue : Nat := 0; let k := 4 * col + queue;
    let q := s.b.queues.get .empty k; let p := demoPkt .cpyIn 0x10000 0x40 0x40 true false;
    let ps := [demoPkt .cpyIn 0x10000 0x40 0x40 false false]; s.b.key = bank ∧ q.pkts = p :: ps ∧ p.done = false) := by
  dsimp only
  and_intros <;> first | exact performs_of (by decide) | decide | decide +kernel

theorem test_w_BufferedCopyClaims :
  (let s : State := { demo with b := { demo.b with queues := [(0, ⟨[demoPkt .cpyb 0x10000 0x40 0x40 false false], false, false, 0⟩)], cbc := [(0, .ofNat 64 (2 ^ 63 + 2 ^ 50 + 2 ^ 6))], cbs := [(0, .ofNat 64 (0 * 2 ^ 16))] } };
    let bank : Nat := 0; let col : Nat := 0; let queue : Nat := 0;
    let p : Pkt := demoPkt .cpyb 0x10000 0x40 0x40 false false; let k := 4 * col + queue; let i := 8 * col + p.buf;
    let r := s.b.cbs.get 0 i; s.b.key = bank ∧
    s.b.queues = [(k, { (s.b.queues.get .empty k) with pkts := [p], susp := false })] ∧ p.kind = .cpyb ∧ p.orphan = false ∧
    p.rel = false ∧ p.acq = false ∧ s.b.filled = [] ∧ s.b.forms = [] ∧ s.b.wait = none ∧ s.b.ctxRds = [] ∧ queue < 4 ∧
    p.buf < 8 ∧ 0 < p.len ∧ (s.b.cb i).en = true ∧ p.started = false ∧ p.slot = none ∧ (s.b.cb i).out = false ∧
    rfld r 24 16 = 0) ∧
    (let s : State := { demo with b := { demo.b with queues := [(0, ⟨[demoPkt .cpyb 0x10000 0x40 0x40 false false], false, false, 0⟩)], cbc := [(0, .ofNat 64 (2 ^ 63 + 2 ^ 50 + 2 ^ 6))], cbs := [(0, .ofNat 64 (1 * 2 ^ 16))] } };
    let bank : Nat := 0; let col : Nat := 0; let queue : Nat := 0;
    let p : Pkt := demoPkt .cpyb 0x10000 0x40 0x40 false false; let k := 4 * col + queue; let i := 8 * col + p.buf;
    let r := s.b.cbs.get 0 i; s.b.key = bank ∧
    s.b.queues = [(k, { (s.b.queues.get .empty k) with pkts := [p], susp := false })] ∧ p.kind = .cpyb ∧ p.orphan = false ∧
    p.rel = false ∧ p.acq = false ∧ s.b.filled = [] ∧ s.b.forms = [] ∧ s.b.wait = none ∧ s.b.ctxRds = [] ∧ queue < 4 ∧
    p.buf < 8 ∧ 0 < p.len ∧ (s.b.cb i).en = true ∧ p.started = false ∧ p.slot = none ∧ (s.b.cb i).out = false ∧
    0 < rfld r 24 16) ∧
    (let s : State := { demo with b := { demo.b with queues := [(0, ⟨[demoPkt .cpyb 0x10000 0x40 0x40 false false], false, false, 0⟩)], cbc := [(0, .ofNat 64 (2 ^ 63 + 2 ^ 62 + 2 ^ 50 + 2 ^ 6))], cbs := [(0, .ofNat 64 (2 ^ 16))] } };
    let bank : Nat := 0; let col : Nat := 0; let queue : Nat := 0;
    let p : Pkt := demoPkt .cpyb 0x10000 0x40 0x40 false false; let k := 4 * col + queue; let i := 8 * col + p.buf;
    let r := s.b.cbs.get 0 i; s.b.key = bank ∧
    s.b.queues = [(k, { (s.b.queues.get .empty k) with pkts := [p], susp := false })] ∧ p.kind = .cpyb ∧ p.orphan = false ∧
    p.rel = false ∧ p.acq = false ∧ s.b.filled = [] ∧ s.b.forms = [] ∧ s.b.wait = none ∧ s.b.ctxRds = [] ∧ queue < 4 ∧
    p.buf < 8 ∧ 0 < p.len ∧ (s.b.cb i).en = true ∧ p.started = false ∧ p.slot = none ∧ (s.b.cb i).out = true ∧
    rfld r 33 25 = 0) ∧
    (let s : State := { demo with b := { demo.b with queues := [(0, ⟨[demoPkt .cpyb 0x10000 0x40 0x40 false false], false, false, 0⟩)], cbc := [(0, .ofNat 64 (2 ^ 63 + 2 ^ 62 + 2 ^ 50 + 2 ^ 6))], cbs := [(0, .ofNat 64 (2 ^ 25))] } };
    let bank : Nat := 0; let col : Nat := 0; let queue : Nat := 0;
    let p : Pkt := demoPkt .cpyb 0x10000 0x40 0x40 false false; let k := 4 * col + queue; let i := 8 * col + p.buf;
    let r := s.b.cbs.get 0 i; s.b.key = bank ∧
    s.b.queues = [(k, { (s.b.queues.get .empty k) with pkts := [p], susp := false })] ∧ p.kind = .cpyb ∧ p.orphan = false ∧
    p.rel = false ∧ p.acq = false ∧ s.b.filled = [] ∧ s.b.forms = [] ∧ s.b.wait = none ∧ s.b.ctxRds = [] ∧ queue < 4 ∧
    p.buf < 8 ∧ 0 < p.len ∧ (s.b.cb i).en = true ∧ p.started = false ∧ p.slot = none ∧ (s.b.cb i).out = true ∧
    0 < rfld r 33 25) ∧
    (let s : State := { demo with b := { demo.b with queues := [(0, ⟨[{ demoPkt .cpyb 0x10000 0x40 0x40 true true with slot := some 0 }], false, false, 0⟩)], cbc := [(0, .ofNat 64 (2 ^ 63 + 2 ^ 50 + 2 ^ 6))], cbs := [(0, .ofNat 64 (1 * 2 ^ 16))] } };
    let bank : Nat := 0; let col : Nat := 0; let queue : Nat := 0;
    let p : Pkt := { demoPkt .cpyb 0x10000 0x40 0x40 true true with slot := some 0 }; let k := 4 * col + queue;
    let i := 8 * col + p.buf; let r := s.b.cbs.get 0 i; s.b.key = bank ∧
    s.b.queues = [(k, { (s.b.queues.get .empty k) with pkts := [p], susp := false })] ∧ p.kind = .cpyb ∧ p.orphan = false ∧
    p.rel = false ∧ p.acq = false ∧ s.b.filled = [] ∧ s.b.forms = [] ∧ s.b.wait = none ∧ s.b.ctxRds = [] ∧ queue < 4 ∧
    p.buf < 8 ∧ 0 < p.len ∧ (s.b.cb i).en = true ∧ p.done = true ∧ p.slot = some (rfld r 7 0) ∧ (s.b.cb i).out = false ∧
    rfld r 33 25 < 511) := by
  dsimp only
  and_intros <;> first | exact performs_of (by decide) | decide | decide +kernel

theorem test_w_PlainAccessesPerform :
  (let s : State := demoQ demoM [demoPkt (.gld 8) 0x60 0x40 0x40 true false]; let bank : Nat := 0; let col : Nat := 0;
    let queue : Nat := 0; let n : Nat := 8; let pre : List Pkt := []; let post : List Pkt := [];
    let p : Pkt := demoPkt (.gld 8) 0x60 0x40 0x40 true false; let l : Leaf := demoLeaf; let k := 4 * col + queue;
    let q := s.b.queues.get .empty k; let va := p.p0.toNat; let pa := Leaf.pa l va; s.b.key = bank ∧
    q.pkts = pre ++ p :: post ∧ (∀ x ∈ pre, x.done = true) ∧ p.started = true ∧ p.done = false ∧ q.susp = false ∧
    p.underway = false ∧ p.reg = false ∧ n ∈ [1, 2, 4, 8] ∧ va % n = 0 ∧ s.unlinked l va = false ∧
    s.portWaits k l va = false ∧ Tlb.ver l = false ∧ p.kind = .gld n ∧ (∀ i, i < n → s.inPool (pa + i) = false) ∧
    s.draw.translate (.k (k % 4)) false s.b.ctx va = .ok l) ∧
    (let s : State := demoQ demoM [demoPkt (.gst 8) 0x60 0x40 0x40 true false]; let bank : Nat := 0; let col : Nat := 0;
    let queue : Nat := 0; let n : Nat := 8; let pre : List Pkt := []; let post : List Pkt := [];
    let p : Pkt := demoPkt (.gst 8) 0x60 0x40 0x40 true false; let l : Leaf := demoLeaf; let k := 4 * col + queue;
    let q := s.b.queues.get .empty k; let va := p.p0.toNat; s.b.key = bank ∧ q.pkts = pre ++ p :: post ∧
    (∀ x ∈ pre, x.done = true) ∧ p.started = true ∧ p.done = false ∧ q.susp = false ∧ p.underway = false ∧ p.reg = false ∧
    n ∈ [1, 2, 4, 8] ∧ va % n = 0 ∧ s.unlinked l va = false ∧ s.portWaits k l va = false ∧ Tlb.ver l = false ∧
    p.kind = .gst n ∧ s.draw.translate (.k (k % 4)) true s.b.ctx va = .ok l) := by
  dsimp only
  refine ⟨⟨?_, ?_, ?_, ?_, ?_, ?_, ?_, ?_, ?_, ?_, ?_, ?_, ?_, ?_, ?_, ok_of (by decide +kernel)⟩, ⟨?_, ?_, ?_, ?_, ?_, ?_, ?_, ?_, ?_, ?_, ?_, ?_, ?_, ?_, ok_of (by decide +kernel)⟩⟩ <;> first | exact performs_of (by decide) | decide | decide +kernel

theorem test_w_PacketsOnTheirWay :
  (let s : State := demoQ demoM [{ demoPkt (.gst 8) 0x60 7 0x40 true false with lag := 3 }]; let bank : Nat := 0;
    let col : Nat := 0; let queue : Nat := 0; let n : Nat := 8; let pre : List Pkt := []; let post : List Pkt := [];
    let p : Pkt := { demoPkt (.gst 8) 0x60 7 0x40 true false with lag := 3 }; let k := 4 * col + queue;
    let q := s.b.queues.get .empty k; let va := p.p0.toNat; let l := demoLeaf; s.b.key = bank ∧ q.pkts = pre ++ p :: post ∧
    (∀ x ∈ pre, x.done = true) ∧ p.started = true ∧ p.done = false ∧ q.susp = false ∧ p.underway = true ∧ p.kind = .gst n ∧
    n ∈ [1, 2, 4, 8] ∧ va % n = 0 ∧ p.reg = false ∧ p.sent = false ∧ p.posted = [] ∧
    s.draw.translate (.k (k % 4)) true s.b.ctx va = .ok l ∧ s.unlinked l va = false ∧ s.portWaits k l va = false) ∧
    (let s : State := { demoM with b := { demoM.b with queues := [(0, ⟨[{ demoPkt (.gst 8) 0x60 7 0x40 true false with lag := 2, sent := true, posted := [⟨demoLeaf, 0x60, [7, 0, 0, 0, 0, 0, 0, 0], none, false, false, 1, 0, 0⟩] }], false, false, 0⟩), (1, ⟨[{ demoPkt (.gst 8) 0x60 7 0x40 true false with lag := 2, sent := true, posted := [⟨demoLeaf, 0x60, [7, 0, 0, 0, 0, 0, 0, 0], none, false, false, 1, 0, 0⟩] }], false, false, 0⟩)] } };
    let bank : Nat := 0; let col : Nat := 0; let queue : Nat := 0; let n : Nat := 8; let pre : List Pkt := [];
    let post : List Pkt := [];
    let p : Pkt := { demoPkt (.gst 8) 0x60 7 0x40 true false with lag := 2, sent := true, posted := [⟨demoLeaf, 0x60, [7, 0, 0, 0, 0, 0, 0, 0], none, false, false, 1, 0, 0⟩] };
    let k := 4 * col + queue; let q := s.b.queues.get .empty k; let va := p.p0.toNat;
    let behind (w : Posted) : Bool := s.behind k (s.lineOf w.leaf w.va); s.b.key = bank ∧ q.pkts = pre ++ p :: post ∧
    (∀ x ∈ pre, x.done = true) ∧ p.started = true ∧ p.done = false ∧ q.susp = false ∧ p.underway = true ∧ p.kind = .gst n ∧
    n ∈ [1, 2, 4, 8] ∧ va % n = 0 ∧ p.reg = false ∧ p.sent = true ∧ p.posted ≠ [] ∧ p.posted.all behind = true) ∧
    (let s : State := demoQ demoM [{ demoPkt (.gst 8) 0x60 7 0x40 true false with lag := 2, sent := true, posted := [⟨demoLeaf, 0x60, [7, 0, 0, 0, 0, 0, 0, 0], none, false, false, 1, 0, 0⟩] }];
    let bank : Nat := 0; let col : Nat := 0; let queue : Nat := 0; let n : Nat := 8; let pre : List Pkt := [];
    let post : List Pkt := [];
    let p : Pkt := { demoPkt (.gst 8) 0x60 7 0x40 true false with lag := 2, sent := true, posted := [⟨demoLeaf, 0x60, [7, 0, 0, 0, 0, 0, 0, 0], none, false, false, 1, 0, 0⟩] };
    let k := 4 * col + queue; let q := s.b.queues.get .empty k; let va := p.p0.toNat;
    let behind (w : Posted) : Bool := s.behind k (s.lineOf w.leaf w.va); s.b.key = bank ∧ q.pkts = pre ++ p :: post ∧
    (∀ x ∈ pre, x.done = true) ∧ p.started = true ∧ p.done = false ∧ q.susp = false ∧ p.underway = true ∧ p.kind = .gst n ∧
    n ∈ [1, 2, 4, 8] ∧ va % n = 0 ∧ p.reg = false ∧ p.sent = true ∧ p.posted.all behind = false ∧ 0 < p.lag) ∧
    (let s : State := demoQ demoM [{ demoPkt (.gst 8) 0x60 7 0x40 true false with lag := 0, sent := true, posted := [⟨demoLeaf, 0x60, [7, 0, 0, 0, 0, 0, 0, 0], none, false, false, 2, 0, 0⟩] }];
    let bank : Nat := 0; let col : Nat := 0; let queue : Nat := 0; let n : Nat := 8; let pre : List Pkt := [];
    let post : List Pkt := [];
    let p : Pkt := { demoPkt (.gst 8) 0x60 7 0x40 true false with lag := 0, sent := true, posted := [⟨demoLeaf, 0x60, [7, 0, 0, 0, 0, 0, 0, 0], none, false, false, 2, 0, 0⟩] };
    let k := 4 * col + queue; let q := s.b.queues.get .empty k; let va := p.p0.toNat;
    let behind (w : Posted) : Bool := s.behind k (s.lineOf w.leaf w.va);
    let w := ⟨demoLeaf, 0x60, [7, 0, 0, 0, 0, 0, 0, 0], none, false, false, 2, 0, 0⟩; s.b.key = bank ∧
    q.pkts = pre ++ p :: post ∧ (∀ x ∈ pre, x.done = true) ∧ p.started = true ∧ p.done = false ∧ q.susp = false ∧
    p.underway = true ∧ p.kind = .gst n ∧ n ∈ [1, 2, 4, 8] ∧ va % n = 0 ∧ p.reg = false ∧ p.sent = true ∧ p.posted = [w] ∧
    p.lag = 0 ∧ s.portWaits k w.leaf w.va = false ∧ behind w = false ∧ Tlb.ver w.leaf = false ∧ w.cred = none ∧
    s.unlinked w.leaf w.va = false ∧ w.bytes.length ≤ 32 ∧ w.va % 32 = 0) ∧
    (let s : State := demoQ demoM [{ demoPkt (.gst 8) 0x60 7 0x40 true false with lag := 0, sent := true, posted := [⟨{ demoLeaf with frame := 0x808000001 }, 0x60, [7, 0, 0, 0, 0, 0, 0, 0], none, false, false, 2, 0, 0⟩] }];
    let bank : Nat := 0; let col : Nat := 0; let queue : Nat := 0; let n : Nat := 8; let pre : List Pkt := [];
    let post : List Pkt := [];
    let p : Pkt := { demoPkt (.gst 8) 0x60 7 0x40 true false with lag := 0, sent := true, posted := [⟨{ demoLeaf with frame := 0x808000001 }, 0x60, [7, 0, 0, 0, 0, 0, 0, 0], none, false, false, 2, 0, 0⟩] };
    let k := 4 * col + queue; let q := s.b.queues.get .empty k; let va := p.p0.toNat;
    let behind (w : Posted) : Bool := s.behind k (s.lineOf w.leaf w.va);
    let w := ⟨{ demoLeaf with frame := 0x808000001 }, 0x60, [7, 0, 0, 0, 0, 0, 0, 0], none, false, false, 2, 0, 0⟩;
    s.b.key = bank ∧ q.pkts = pre ++ p :: post ∧ (∀ x ∈ pre, x.done = true) ∧ p.started = true ∧ p.done = false ∧
    q.susp = false ∧ p.underway = true ∧ p.kind = .gst n ∧ n ∈ [1, 2, 4, 8] ∧ va % n = 0 ∧ p.reg = false ∧ p.sent = true ∧
    p.posted = [w] ∧ p.lag = 0 ∧ s.portWaits k w.leaf w.va = false ∧ behind w = false ∧ Tlb.ver w.leaf = false ∧
    w.cred = none ∧ s.unlinked w.leaf w.va = true) := by
  dsimp only
  refine ⟨⟨?_, ?_, ?_, ?_, ?_, ?_, ?_, ?_, ?_, ?_, ?_, ?_, ?_, ok_of (by decide +kernel), ?_, ?_⟩, ⟨?_, ?_, ?_, ?_, ?_, ?_, ?_, ?_, ?_, ?_, ?_, ?_, ?_, ?_⟩, ⟨?_, ?_, ?_, ?_, ?_, ?_, ?_, ?_, ?_, ?_, ?_, ?_, ?_, ?_⟩, ⟨?_, ?_, ?_, ?_, ?_, ?_, ?_, ?_, ?_, ?_, ?_, ?_, ?_, ?_, ?_, ?_, ?_, ?_, ?_, ?_, ?_⟩, ⟨?_, ?_, ?_, ?_, ?_, ?_, ?_, ?_, ?_, ?_, ?_, ?_, ?_, ?_, ?_, ?_, ?_, ?_, ?_⟩⟩ <;> first | exact performs_of (by decide) | decide | decide +kernel

theorem test_w_CopyInGranule :
  let s : State := demoQ demoM [demoPkt .cpyIn 0x60 0x40 0x40 true false]; let bank : Nat := 0; let col : Nat := 0;
    let queue : Nat := 0; let pre : List Pkt := []; let post : List Pkt := [];
    let p : Pkt := demoPkt .cpyIn 0x60 0x40 0x40 true false; let l : Leaf := demoLeaf; let k := 4 * col + queue;
    let q := s.b.queues.get .empty k; let w := s.draw;
    let va := ((BitVec.ofInt 64 (p.p0.toNat + p.row * (BitVec.ofNat 32 (rfld p.p3 63 32)).toInt)).toNat + p.pos) % 2 ^ 64;
    let n := min 32 (rfld p.p2 31 0 - p.pos);
    let at_ := ((rfld p.p1 31 0 : Int) + p.row * (BitVec.ofNat 32 (rfld p.p3 31 0)).toInt).toNat + p.pos; s.b.key = bank ∧
    q.pkts = pre ++ p :: post ∧ (∀ x ∈ pre, x.done = true) ∧ p.started = true ∧ p.done = false ∧ q.susp = false ∧
    p.underway = false ∧ p.kind = .cpyIn ∧ p.reg = false ∧ s.core.locked s.b.slotB at_ n true = false ∧
    w.translate (.k (k % 4)) false s.b.ctx va = .ok l ∧ s.unlinked l va = false ∧ s.portWaits k l va = false ∧
    Tlb.ver l = false ∧ (∀ i, i < n → s.inPool (Leaf.pa l va + i) = false) := by
  dsimp only
  refine ⟨?_, ?_, ?_, ?_, ?_, ?_, ?_, ?_, ?_, ?_, ok_of (by decide +kernel), ?_, ?_, ?_, ?_⟩ <;> first | exact performs_of (by decide) | decide | decide +kernel

theorem test_w_CopyOutGranule :
  (let s : State := demoQ demoM [demoPkt .fill 0x60 0x40 0x40 true false]; let bank : Nat := 0; let col : Nat := 0;
    let queue : Nat := 0; let pre : List Pkt := []; let post : List Pkt := [];
    let p : Pkt := demoPkt .fill 0x60 0x40 0x40 true false; let k := 4 * col + queue; let q := s.b.queues.get .empty k;
    let w := s.draw;
    let va := ((BitVec.ofInt 64 (p.p0.toNat + p.row * (BitVec.ofNat 32 (rfld p.p3 63 32)).toInt)).toNat + p.pos) % 2 ^ 64;
    let n := min 32 (rfld p.p2 31 0 - p.pos);
    let at_ := ((rfld p.p1 31 0 : Int) + p.row * (BitVec.ofNat 32 (rfld p.p3 31 0)).toInt).toNat + p.pos; let l := demoLeaf;
    s.b.key = bank ∧ q.pkts = pre ++ p :: post ∧ (∀ x ∈ pre, x.done = true) ∧ p.started = true ∧ p.done = false ∧
    q.susp = false ∧ p.underway = false ∧ (p.kind = .cpyOut ∨ p.kind = .fill) ∧ p.reg = false ∧ s.b.stores = [] ∧
    va % 32 = 0 ∧ s.core.locked s.b.slotB at_ n false = false ∧ w.translate (.k (k % 4)) true s.b.ctx va = .ok l ∧
    s.unlinked l va = false ∧ s.portWaits k l va = false ∧ Tlb.ver l = false) ∧
    (let s : State := demoQ demoM [demoPkt .cpyOut 0x10000 0x40 0x40 true false]; let bank : Nat := 0; let col : Nat := 0;
    let queue : Nat := 0; let pre : List Pkt := []; let post : List Pkt := [];
    let p : Pkt := demoPkt .cpyOut 0x10000 0x40 0x40 true false; let k := 4 * col + queue; let q := s.b.queues.get .empty k;
    let w := s.draw;
    let va := ((BitVec.ofInt 64 (p.p0.toNat + p.row * (BitVec.ofNat 32 (rfld p.p3 63 32)).toInt)).toNat + p.pos) % 2 ^ 64;
    let n := min 32 (rfld p.p2 31 0 - p.pos);
    let at_ := ((rfld p.p1 31 0 : Int) + p.row * (BitVec.ofNat 32 (rfld p.p3 31 0)).toInt).toNat + p.pos; let f := ⟨1, 0⟩;
    s.b.key = bank ∧ q.pkts = pre ++ p :: post ∧ (∀ x ∈ pre, x.done = true) ∧ p.started = true ∧ p.done = false ∧
    q.susp = false ∧ p.underway = false ∧ (p.kind = .cpyOut ∨ p.kind = .fill) ∧ p.reg = false ∧ s.b.stores = [] ∧
    va % 32 = 0 ∧ s.core.locked s.b.slotB at_ n false = false ∧ w.translate (.k (k % 4)) true s.b.ctx va = .error f ∧
    f.cause ≠ 6 ∧ queue < 4 ∧ va < 2 ^ 56 ∧ f.cause < 16) := by
  dsimp only
  refine ⟨⟨?_, ?_, ?_, ?_, ?_, ?_, ?_, ?_, ?_, ?_, ?_, ?_, ok_of (by decide +kernel), ?_, ?_, ?_⟩, ⟨?_, ?_, ?_, ?_, ?_, ?_, ?_, ?_, ?_, ?_, ?_, ?_, rfl, ?_, ?_, ?_, ?_⟩⟩ <;> first | exact performs_of (by decide) | decide | decide +kernel

theorem test_w_AtomicsPerform :
  let s : State := demoQ demoM [demoPkt (.atomic 0 8 false) 0x60 0x40 0x40 true false]; let bank : Nat := 0;
    let col : Nat := 0; let queue : Nat := 0; let op : Nat := 0; let n : Nat := 8; let sg : Bool := false;
    let pre : List Pkt := []; let post : List Pkt := [];
    let p : Pkt := demoPkt (.atomic 0 8 false) 0x60 0x40 0x40 true false; let l : Leaf := demoLeaf; let k := 4 * col + queue;
    let q := s.b.queues.get .empty k; let w := s.draw; let va := p.p0.toNat; let pa := Leaf.pa l va; let m := 256 ^ n;
    let x := p.p1.toNat % m; s.b.key = bank ∧ q.pkts = pre ++ p :: post ∧ (∀ x ∈ pre, x.done = true) ∧ p.started = true ∧
    p.done = false ∧ q.susp = false ∧ p.underway = false ∧ p.kind = .atomic op n sg ∧ (n = 4 ∨ n = 8) ∧ va % n = 0 ∧
    w.translate (.k (k % 4)) true s.b.ctx va true = .ok l ∧ s.unlinked l va = false ∧ s.portWaits k l va = false ∧
    Tlb.ver l = false ∧ s.gPoison pa = false ∧ (∀ i, i < n → s.inPool (pa + i) = false) := by
  dsimp only
  refine ⟨?_, ?_, ?_, ?_, ?_, ?_, ?_, ?_, ?_, ?_, ok_of (by decide +kernel), ?_, ?_, ?_, ?_, ?_⟩ <;> first | exact performs_of (by decide) | decide | decide +kernel

theorem test_w_GlobalReadAfterWrite :
  (let pa : Nat := 0x7E; let bs : List Byte := [1, 2]; pa % 128 + bs.length ≤ 128) ∧ (let s : State := demo;
    let pa : Nat := 0x7E; let bs : List Byte := [1, 2]; let a := 0x80; pa % 128 + bs.length ≤ 128 ∧ (∀ i, i < bs.length →
    s.canon a ≠ s.canon (pa + i))) ∧ (let pa : Nat := 0x7E; let bs : List Byte := [1, 2]; let a := 0x7FFFFFFFFFF;
    pa % 128 + bs.length ≤ 128 ∧ a < 2 ^ 43) := by
  dsimp only
  and_intros <;> first | exact performs_of (by decide) | decide | decide +kernel

theorem test_w_RootTranslation :
  (let s : State := demo; let va : Nat := 0xFFFF;
    let entry (table lo bits : Nat) : Nat := s.gNat (table + 8 * (va / 2 ^ lo % 2 ^ bits)) 8;
    let e0 := entry (rfld (s.ctx 0).s1r 51 20 * 2 ^ 20) 39 17; va < 2 ^ 56 ∧ (s.ctx 0).s1rOld = none ∧
    e0.testBit 63 = false) ∧ (let s : State := { demo with mem := demoM.mem.take 2 ++ [] }; let va : Nat := 0xFFFF;
    let entry (table lo bits : Nat) : Nat := s.gNat (table + 8 * (va / 2 ^ lo % 2 ^ bits)) 8;
    let pointer (e level : Nat) : Prop := e.testBit 63 = true ∧ e / 2 ^ 52 % 2 ^ 11 = 0 ∧ e / 2 ^ 6 % 4 = 0 ∧ e % 64 = 0 ∧ (level = 2 ∨ e / 2 ^ 8 % 16 = 0);
    let next (e : Nat) : Nat := e / 2 ^ 8 % 2 ^ 44 * 256; let e0 := entry (rfld (s.ctx 0).s1r 51 20 * 2 ^ 20) 39 17;
    let e1 := entry (next e0) 30 9; va < 2 ^ 56 ∧ (s.ctx 0).s1rOld = none ∧ pointer e0 0 ∧ e1.testBit 63 = false) ∧
    (let s : State := { demo with mem := demoM.mem.take 4 ++ [] }; let va : Nat := 0xFFFF;
    let entry (table lo bits : Nat) : Nat := s.gNat (table + 8 * (va / 2 ^ lo % 2 ^ bits)) 8;
    let pointer (e level : Nat) : Prop := e.testBit 63 = true ∧ e / 2 ^ 52 % 2 ^ 11 = 0 ∧ e / 2 ^ 6 % 4 = 0 ∧ e % 64 = 0 ∧ (level = 2 ∨ e / 2 ^ 8 % 16 = 0);
    let next (e : Nat) : Nat := e / 2 ^ 8 % 2 ^ 44 * 256; let e0 := entry (rfld (s.ctx 0).s1r 51 20 * 2 ^ 20) 39 17;
    let e1 := entry (next e0) 30 9; let e2 := entry (next e1) 21 9; va < 2 ^ 56 ∧ (s.ctx 0).s1rOld = none ∧ pointer e0 0 ∧
    pointer e1 1 ∧ e2.testBit 63 = false) ∧ (let s : State := { demo with mem := demoM.mem.take 6 ++ [] };
    let va : Nat := 0xFFFF; let entry (table lo bits : Nat) : Nat := s.gNat (table + 8 * (va / 2 ^ lo % 2 ^ bits)) 8;
    let pointer (e level : Nat) : Prop := e.testBit 63 = true ∧ e / 2 ^ 52 % 2 ^ 11 = 0 ∧ e / 2 ^ 6 % 4 = 0 ∧ e % 64 = 0 ∧ (level = 2 ∨ e / 2 ^ 8 % 16 = 0);
    let next (e : Nat) : Nat := e / 2 ^ 8 % 2 ^ 44 * 256; let e0 := entry (rfld (s.ctx 0).s1r 51 20 * 2 ^ 20) 39 17;
    let e1 := entry (next e0) 30 9; let e2 := entry (next e1) 21 9; let e3 := entry (next e2) 16 5; va < 2 ^ 56 ∧
    (s.ctx 0).s1rOld = none ∧ pointer e0 0 ∧ pointer e1 1 ∧ pointer e2 2 ∧ e3.testBit 63 = false) ∧
    (let s : State := { demo with mem := demoM.mem.take 6 ++ [(0x3007, 0xFF)] }; let va : Nat := 0xFFFF;
    let entry (table lo bits : Nat) : Nat := s.gNat (table + 8 * (va / 2 ^ lo % 2 ^ bits)) 8;
    let pointer (e level : Nat) : Prop := e.testBit 63 = true ∧ e / 2 ^ 52 % 2 ^ 11 = 0 ∧ e / 2 ^ 6 % 4 = 0 ∧ e % 64 = 0 ∧ (level = 2 ∨ e / 2 ^ 8 % 16 = 0);
    let next (e : Nat) : Nat := e / 2 ^ 8 % 2 ^ 44 * 256; let e0 := entry (rfld (s.ctx 0).s1r 51 20 * 2 ^ 20) 39 17;
    let e1 := entry (next e0) 30 9; let e2 := entry (next e1) 21 9; let e3 := entry (next e2) 16 5;
    let leaf := e3.testBit 5 = true ∧ e3.testBit 52 = false ∧ e3 % 32 = 0 ∧ e3 / 2 ^ 6 % 4 = 0; va < 2 ^ 56 ∧
    (s.ctx 0).s1rOld = none ∧ pointer e0 0 ∧ pointer e1 1 ∧ pointer e2 2 ∧ e3.testBit 63 = true ∧ ¬leaf) ∧
    (let s : State := { demo with mem := demoM.mem.take 6 ++ [(0x3000, 0x20), (0x3007, 0xE0)] }; let eng : Eng := .fetch;
    let va : Nat := 0xFFFF; let entry (table lo bits : Nat) : Nat := s.gNat (table + 8 * (va / 2 ^ lo % 2 ^ bits)) 8;
    let pointer (e level : Nat) : Prop := e.testBit 63 = true ∧ e / 2 ^ 52 % 2 ^ 11 = 0 ∧ e / 2 ^ 6 % 4 = 0 ∧ e % 64 = 0 ∧ (level = 2 ∨ e / 2 ^ 8 % 16 = 0);
    let next (e : Nat) : Nat := e / 2 ^ 8 % 2 ^ 44 * 256; let e0 := entry (rfld (s.ctx 0).s1r 51 20 * 2 ^ 20) 39 17;
    let e1 := entry (next e0) 30 9; let e2 := entry (next e1) 21 9; let e3 := entry (next e2) 16 5;
    let leaf := e3.testBit 5 = true ∧ e3.testBit 52 = false ∧ e3 % 32 = 0 ∧ e3 / 2 ^ 6 % 4 = 0;
    let engine := e3.testBit (55 + eng.bit) = true; va < 2 ^ 56 ∧ (s.ctx 0).s1rOld = none ∧ pointer e0 0 ∧ pointer e1 1 ∧
    pointer e2 2 ∧ e3.testBit 63 = true ∧ leaf ∧ ¬engine) ∧
    (let s : State := { demo with mem := demoM.mem.take 6 ++ [(0x3000, 0x20), (0x3006, 0x80), (0x3007, 0x9F)] };
    let eng : Eng := .fetch; let wr : Bool := true; let va : Nat := 0xFFFF;
    let entry (table lo bits : Nat) : Nat := s.gNat (table + 8 * (va / 2 ^ lo % 2 ^ bits)) 8;
    let pointer (e level : Nat) : Prop := e.testBit 63 = true ∧ e / 2 ^ 52 % 2 ^ 11 = 0 ∧ e / 2 ^ 6 % 4 = 0 ∧ e % 64 = 0 ∧ (level = 2 ∨ e / 2 ^ 8 % 16 = 0);
    let next (e : Nat) : Nat := e / 2 ^ 8 % 2 ^ 44 * 256; let e0 := entry (rfld (s.ctx 0).s1r 51 20 * 2 ^ 20) 39 17;
    let e1 := entry (next e0) 30 9; let e2 := entry (next e1) 21 9; let e3 := entry (next e2) 16 5;
    let leaf := e3.testBit 5 = true ∧ e3.testBit 52 = false ∧ e3 % 32 = 0 ∧ e3 / 2 ^ 6 % 4 = 0;
    let engine := e3.testBit (55 + eng.bit) = true; let perm := if wr then e3.testBit 61 = true else e3.testBit 62 = true;
    va < 2 ^ 56 ∧ (s.ctx 0).s1rOld = none ∧ pointer e0 0 ∧ pointer e1 1 ∧ pointer e2 2 ∧ e3.testBit 63 = true ∧ leaf ∧
    engine ∧ ¬perm) ∧ (let s : State := demoM; let eng : Eng := .fetch; let wr : Bool := true; let va : Nat := 0xFFFF;
    let entry (table lo bits : Nat) : Nat := s.gNat (table + 8 * (va / 2 ^ lo % 2 ^ bits)) 8;
    let pointer (e level : Nat) : Prop := e.testBit 63 = true ∧ e / 2 ^ 52 % 2 ^ 11 = 0 ∧ e / 2 ^ 6 % 4 = 0 ∧ e % 64 = 0 ∧ (level = 2 ∨ e / 2 ^ 8 % 16 = 0);
    let next (e : Nat) : Nat := e / 2 ^ 8 % 2 ^ 44 * 256; let e0 := entry (rfld (s.ctx 0).s1r 51 20 * 2 ^ 20) 39 17;
    let e1 := entry (next e0) 30 9; let e2 := entry (next e1) 21 9; let e3 := entry (next e2) 16 5;
    let leaf := e3.testBit 5 = true ∧ e3.testBit 52 = false ∧ e3 % 32 = 0 ∧ e3 / 2 ^ 6 % 4 = 0;
    let engine := e3.testBit (55 + eng.bit) = true; let perm := if wr then e3.testBit 61 = true else e3.testBit 62 = true;
    va < 2 ^ 56 ∧ (s.ctx 0).s1rOld = none ∧ pointer e0 0 ∧ pointer e1 1 ∧ pointer e2 2 ∧ e3.testBit 63 = true ∧ leaf ∧
    engine ∧ perm) ∧ (let s : State := demoM; let eng : Eng := .fetch; let wr : Bool := false; let va : Nat := 0xFFFF;
    let entry (table lo bits : Nat) : Nat := s.gNat (table + 8 * (va / 2 ^ lo % 2 ^ bits)) 8;
    let pointer (e level : Nat) : Prop := e.testBit 63 = true ∧ e / 2 ^ 52 % 2 ^ 11 = 0 ∧ e / 2 ^ 6 % 4 = 0 ∧ e % 64 = 0 ∧ (level = 2 ∨ e / 2 ^ 8 % 16 = 0);
    let next (e : Nat) : Nat := e / 2 ^ 8 % 2 ^ 44 * 256; let e0 := entry (rfld (s.ctx 0).s1r 51 20 * 2 ^ 20) 39 17;
    let e1 := entry (next e0) 30 9; let e2 := entry (next e1) 21 9; let e3 := entry (next e2) 16 5;
    let leaf := e3.testBit 5 = true ∧ e3.testBit 52 = false ∧ e3 % 32 = 0 ∧ e3 / 2 ^ 6 % 4 = 0;
    let engine := e3.testBit (55 + eng.bit) = true; let perm := if wr then e3.testBit 61 = true else e3.testBit 62 = true;
    va < 2 ^ 56 ∧ (s.ctx 0).s1rOld = none ∧ pointer e0 0 ∧ pointer e1 1 ∧ pointer e2 2 ∧ e3.testBit 63 = true ∧ leaf ∧
    engine ∧ perm) := by
  dsimp only
  and_intros <;> first | exact performs_of (by decide) | decide | decide +kernel

theorem test_w_TwoStageTranslation :
  (let s : State := demoT; let eng : Eng := .fetch; let wr : Bool := true; let ctx : Nat := 1; let va : Nat := 0x40;
    let e : Nat := 0xFF80000000010020; let cp : Nat := 0x10040; ctx ≠ 0 ∧ s.walk1 ctx va 4 0 (s.s1root ctx) = .ok (e, cp) ∧
    e.testBit (55 + eng.bit) = true ∧ (if wr then e.testBit 61 = true else e.testBit 62 = true)) ∧
    (let s : State := { demoT with ctxs := [(0, Ctx.root), (1, { Ctx.new 0 1 0 with st := .run, s2 := [(0, ⟨0, true, true, false, 0x3F, false, false, 0, 0⟩)] })] };
    let eng : Eng := .fetch; let wr : Bool := false; let ctx : Nat := 1; let va : Nat := 0x40;
    let e : Nat := 0xFF80000000010020; let cp : Nat := 0x10040; ctx ≠ 0 ∧ s.walk1 ctx va 4 0 (s.s1root ctx) = .ok (e, cp) ∧
    e.testBit (55 + eng.bit) = true ∧ (if wr then e.testBit 61 = true else e.testBit 62 = true)) := by
  dsimp only
  refine ⟨⟨?_, ok_of (by decide +kernel), ?_, ?_⟩, ⟨?_, ok_of (by decide +kernel), ?_, ?_⟩⟩ <;> first | exact performs_of (by decide) | decide | decide +kernel

theorem test_w_CopyForms_issue :
  let s : State := demoC;
    s.Performs (.cpyIn always 0 2 true 3) always ∧
    s.Performs (.cpyOut always 0 2 true 3) always ∧
    s.Performs (.cpyg always 0 2 true 3) always ∧
    s.Performs (.cpyb always 0 2 true 3 1) always ∧
    s.Performs (.fill always 0 2 true 3) always ∧
    s.Performs (.cred always 0 2 true 3 0 8) always ∧
    s.Performs (.gld always 3 9 1 3 true 15) always ∧
    s.Performs (.gst always 3 9 1 3 true) always ∧
    s.Performs (.aadd always 3 2 9 true 3 15) always ∧
    s.Performs (.amin always 3 2 9 true true 3 15) always ∧
    s.Performs (.acas always 3 2 9 true 3 15) always ∧
    s.Performs (.csigCounter always 3 15 1) always ∧
    s.Performs (.csigAddress always 3 1) always ∧
    (s.b.queues.get .empty 0).pkts.length < 16 ∧ (s.b.queues.get .empty 3).pkts.length < 16 ∧ rfld (s.rs 10) 63 48 = 0 ∧
    s.b.poison.contains (.s 11) = false ∧ rfld (s.rs 8) 63 56 = 0 ∧ (s.rs 8).toNat % 8 = 0 := by
  dsimp only
  and_intros <;> first | exact performs_of (by decide) | decide

theorem test_w_SyncForms :
  let s : State := demo; let c : Ctl := always; let gn : BitVec 4 := 15; let cls : BitVec 4 := 15; let ra : BitVec 6 := 1;
    s.Performs (.gmset c gn ra) c ∧ s.Performs (.fence c cls) c := by
  dsimp only
  and_intros <;> first | exact performs_of (by decide) | decide | decide +kernel

theorem test_w_WorkForms :
  (let s : State := demo; let c : Ctl := always; let sp : BitVec 4 := 2; let pri : BitVec 3 := 1;
    let g (n : Nat) : DWord := s.rs (4 * sp.toNat + n); let img (h : Nat) : Bool := (s.image s.b.ctx h true).isSome;
    let h := rfld (g 1) 47 32; s.Performs (.post c sp pri) c ∧ img h = false) ∧ (let s : State := demoW;
    let c : Ctl := always; let sp : BitVec 4 := 2; let pri : BitVec 3 := 3;
    let g (n : Nat) : DWord := s.rs (4 * sp.toNat + n); let alloc := s.b.pri < pri.toNat;
    let img (h : Nat) : Bool := (s.image s.b.ctx h true).isSome; let h := rfld (g 1) 47 32; s.Performs (.post c sp pri) c ∧
    img h = true ∧ alloc) ∧ (let s : State := { demoW with b := { demoW.b with sr := [(8, 0x40), (9, 0x200000001)] } };
    let c : Ctl := always; let sp : BitVec 4 := 2; let pri : BitVec 3 := 1;
    let g (n : Nat) : DWord := s.rs (4 * sp.toNat + n); let alloc := s.b.pri < pri.toNat;
    let img (h : Nat) : Bool := (s.image s.b.ctx h true).isSome; let h := rfld (g 1) 47 32;
    let pfld := rfld (g 0) 63 56 = 0 ∧ rfld (g 1) 63 48 = 0 ∧ rfld (g 1) 31 0 = 0; s.Performs (.post c sp pri) c ∧
    img h = true ∧ ¬alloc ∧ ¬pfld) ∧
    (let s : State := { demoW with mem := demoM.mem.take 6 ++ [(0x3000, 0x20), (0x3007, 0xE0)] }; let c : Ctl := always;
    let sp : BitVec 4 := 2; let pri : BitVec 3 := 1; let g (n : Nat) : DWord := s.rs (4 * sp.toNat + n);
    let alloc := s.b.pri < pri.toNat; let img (h : Nat) : Bool := (s.image s.b.ctx h true).isSome; let h := rfld (g 1) 47 32;
    let pfld := rfld (g 0) 63 56 = 0 ∧ rfld (g 1) 63 48 = 0 ∧ rfld (g 1) 31 0 = 0;
    let at_ := s.translate (.k 0) false s.b.ctx (g 0).toNat; let f := ⟨3, 0⟩; s.Performs (.post c sp pri) c ∧ img h = true ∧
    ¬alloc ∧ pfld ∧ at_ = .error f ∧ (f.cause = 2 ∨ f.cause = 3)) ∧ (let s : State := { demoW with mem := [] };
    let c : Ctl := always; let sp : BitVec 4 := 2; let pri : BitVec 3 := 1;
    let g (n : Nat) : DWord := s.rs (4 * sp.toNat + n); let alloc := s.b.pri < pri.toNat;
    let img (h : Nat) : Bool := (s.image s.b.ctx h true).isSome; let h := rfld (g 1) 47 32;
    let pfld := rfld (g 0) 63 56 = 0 ∧ rfld (g 1) 63 48 = 0 ∧ rfld (g 1) 31 0 = 0;
    let at_ := s.translate (.k 0) false s.b.ctx (g 0).toNat; let f := ⟨1, 0⟩; s.Performs (.post c sp pri) c ∧ img h = true ∧
    ¬alloc ∧ pfld ∧ at_ = .error f ∧ f.cause ≠ 2 ∧ f.cause ≠ 3) ∧
    (let s : State := { demoW with mem := demoM.mem.take 6 ++ [(0x3000, 0x20), (0x3005, 8), (0x3006, 0x88), (0x3007, 0xFF)] };
    let c : Ctl := always; let sp : BitVec 4 := 2; let pri : BitVec 3 := 1;
    let g (n : Nat) : DWord := s.rs (4 * sp.toNat + n); let alloc := s.b.pri < pri.toNat;
    let img (h : Nat) : Bool := (s.image s.b.ctx h true).isSome; let h := rfld (g 1) 47 32;
    let pfld := rfld (g 0) 63 56 = 0 ∧ rfld (g 1) 63 48 = 0 ∧ rfld (g 1) 31 0 = 0;
    let at_ := s.translate (.k 0) false s.b.ctx (g 0).toNat;
    let l := ⟨0, 0, 34493956096, 34493956096, true, true, 0x3F, false, false, 0, 0xFF88080000000020⟩;
    let pa := s.canon (Leaf.pa l (g 0).toNat); s.Performs (.post c sp pri) c ∧ img h = true ∧ ¬alloc ∧ pfld ∧ at_ = .ok l ∧
    pa.testBit 51 = true) ∧ (let s : State := demoW; let c : Ctl := always; let sp : BitVec 4 := 2; let pri : BitVec 3 := 1;
    let g (n : Nat) : DWord := s.rs (4 * sp.toNat + n); let alloc := s.b.pri < pri.toNat;
    let img (h : Nat) : Bool := (s.image s.b.ctx h true).isSome; let h := rfld (g 1) 47 32;
    let pfld := rfld (g 0) 63 56 = 0 ∧ rfld (g 1) 63 48 = 0 ∧ rfld (g 1) 31 0 = 0;
    let at_ := s.translate (.k 0) false s.b.ctx (g 0).toNat; let l := demoLeaf; let pa := s.canon (Leaf.pa l (g 0).toNat);
    s.Performs (.post c sp pri) c ∧ img h = true ∧ ¬alloc ∧ pfld ∧ at_ = .ok l ∧ pa.testBit 51 = false) ∧
    (let s : State := demo; let c : Ctl := always; let sp : BitVec 4 := 3; let pri : BitVec 3 := 1;
    let g (n : Nat) : DWord := s.rs (4 * sp.toNat + n); let img (h : Nat) : Bool := (s.image s.b.ctx h true).isSome;
    let graph (h : Nat) : Bool := (s.graphs.find (65536 * s.b.ctx + h)).isSome; let j := rfld (g 0) 47 32;
    s.Performs (.launch c sp pri) c ∧ img j = false ∧ graph j = false) ∧ (let s : State := demoW; let c : Ctl := always;
    let sp : BitVec 4 := 3; let pri : BitVec 3 := 3; let g (n : Nat) : DWord := s.rs (4 * sp.toNat + n);
    let alloc := s.b.pri < pri.toNat; let img (h : Nat) : Bool := (s.image s.b.ctx h true).isSome;
    let graph (h : Nat) : Bool := (s.graphs.find (65536 * s.b.ctx + h)).isSome; let j := rfld (g 0) 47 32;
    s.Performs (.launch c sp pri) c ∧ (img j = true ∨ graph j = true) ∧ alloc) ∧
    (let s : State := { demoW with b := { demoW.b with sr := [(12, 0x200000000), (13, 0x44)] } }; let c : Ctl := always;
    let sp : BitVec 4 := 3; let pri : BitVec 3 := 1; let g (n : Nat) : DWord := s.rs (4 * sp.toNat + n);
    let alloc := s.b.pri < pri.toNat; let img (h : Nat) : Bool := (s.image s.b.ctx h true).isSome;
    let graph (h : Nat) : Bool := (s.graphs.find (65536 * s.b.ctx + h)).isSome; let j := rfld (g 0) 47 32;
    let lfld := rfld (g 0) 63 48 = 0 ∧ rfld (g 0) 31 0 = 0 ∧ rfld (g 1) 63 56 = 0 ∧ (g 1).toNat % 8 = 0;
    s.Performs (.launch c sp pri) c ∧ (img j = true ∨ graph j = true) ∧ ¬alloc ∧ ¬lfld) ∧ (let s : State := demoW;
    let c : Ctl := always; let sp : BitVec 4 := 3; let pri : BitVec 3 := 1;
    let g (n : Nat) : DWord := s.rs (4 * sp.toNat + n); let alloc := s.b.pri < pri.toNat;
    let img (h : Nat) : Bool := (s.image s.b.ctx h true).isSome;
    let graph (h : Nat) : Bool := (s.graphs.find (65536 * s.b.ctx + h)).isSome; let j := rfld (g 0) 47 32;
    let lfld := rfld (g 0) 63 48 = 0 ∧ rfld (g 0) 31 0 = 0 ∧ rfld (g 1) 63 56 = 0 ∧ (g 1).toNat % 8 = 0;
    s.Performs (.launch c sp pri) c ∧ (img j = true ∨ graph j = true) ∧ ¬alloc ∧ lfld ∧ s.Performs (.tend c) c) := by
  dsimp only
  refine ⟨⟨?_, ?_⟩, ⟨?_, ?_, ?_⟩, ⟨?_, ?_, ?_, ?_⟩, ⟨?_, ?_, ?_, ?_, rfl, ?_⟩, ⟨?_, ?_, ?_, ?_, rfl, ?_, ?_⟩, ⟨?_, ?_, ?_, ?_, ok_of (by decide +kernel), ?_⟩, ⟨?_, ?_, ?_, ?_, ok_of (by decide +kernel), ?_⟩, ⟨?_, ?_, ?_⟩, ⟨?_, ?_, ?_⟩, ⟨?_, ?_, ?_, ?_⟩, ⟨?_, ?_, ?_, ?_, ?_⟩⟩ <;> first | exact performs_of (by decide) | decide | decide +kernel

theorem test_w_WaitForms :
  (let s : State := { demo with b := { demo.b with forms := [demoForm (.cwait 15 true) [4]], cn := [(15, 4)] } };
    let co : BitVec 4 := 15; let sb : Bool := true; let bank : Nat := 0; let f : Form := demoForm (.cwait 15 true) [4];
    let t : DWord := 4; let cn := s.b.cn.get 0 (16 * f.col + co.toNat); s.b.key = bank ∧ f.kind = .cwait co.toNat sb ∧
    f.ops = [t] ∧ s.b.forms = [f] ∧ (cn.setWidth 32 - t.setWidth 32 : BitVec 32).toNat < 2 ^ 31) ∧
    (let s : State := { demo with b := { demo.b with forms := [demoForm (.cwait 15 true) [5]], cn := [(15, 4)] } };
    let co : BitVec 4 := 15; let sb : Bool := true; let bank : Nat := 0; let f : Form := demoForm (.cwait 15 true) [5];
    let t : DWord := 5; let cn := s.b.cn.get 0 (16 * f.col + co.toNat); s.b.key = bank ∧ f.kind = .cwait co.toNat sb ∧
    f.ops = [t] ∧ s.b.forms = [f] ∧ 2 ^ 31 ≤ (cn.setWidth 32 - t.setWidth 32 : BitVec 32).toNat) ∧
    (let s : State := demoF demo [demoForm (.drain 7) []]; let sc : BitVec 3 := 7; let bank : Nat := 0;
    let f : Form := demoForm (.drain 7) [];
    let past (p : Pkt) : Prop := p.done = true ∨ (p.sent = true ∧ ∀ w ∈ p.posted, (sc.toNat ≤ 1 ∧ 1 ≤ w.point) ∨ (2 ≤ sc.toNat ∧ sc.toNat ≤ 3 ∧ sc.toNat ≤ w.point ∧ sc.toNat ≤ s.pointsTo w.leaf w.va));
    s.b.key = bank ∧ f.kind = .drain sc.toNat ∧ s.b.forms = [f] ∧ (∀ st ∈ s.b.stores, f.iss ≤ st.iss) ∧
    (∀ e ∈ s.b.queues, ∀ p ∈ e.2.pkts, f.iss ≤ p.iss ∨ past p) ∧
    (∀ x ∈ s.b.fars, f.iss ≤ x.iss ∨ x.data.isSome = true ∨ x.core = none) ∧
    (∀ o ∈ s.core.xops, o.bank ≠ s.b.key ∨ f.iss ≤ o.iss)) ∧
    (let s : State := demoF (demoQ demo [demoPkt .cpyIn 0 0 0x40 true false]) [demoForm (.drain 7) []];
    let sc : BitVec 3 := 7; let bank : Nat := 0; let f : Form := demoForm (.drain 7) [];
    let past (p : Pkt) : Prop := p.done = true ∨ (p.sent = true ∧ ∀ w ∈ p.posted, (sc.toNat ≤ 1 ∧ 1 ≤ w.point) ∨ (2 ≤ sc.toNat ∧ sc.toNat ≤ 3 ∧ sc.toNat ≤ w.point ∧ sc.toNat ≤ s.pointsTo w.leaf w.va));
    s.b.key = bank ∧ f.kind = .drain sc.toNat ∧ s.b.forms = [f] ∧ (∃ e ∈ s.b.queues, ∃ p ∈ e.2.pkts, p.iss < f.iss ∧
    ¬past p)) := by
  dsimp only
  and_intros <;> first | exact performs_of (by decide) | decide | decide +kernel

theorem test_w_BarrierMoves :
  (let s : State := { demo with b := { demo.b with barr := some ⟨3, 2, none⟩ } }; let bank : Nat := 0; let line : Nat := 3;
    let mask : DWord := 2; let stored := (∀ st ∈ s.b.stores, s.b.iss ≤ st.iss) ∧ ∀ o ∈ s.core.xops, o.bank = bank →
    o.iss < s.b.iss → ∀ c t qd ar fmt xs sat ps, o.ins ≠ .tst c t qd ar fmt xs sat ps; s.b.key = bank ∧
    s.b.barr = some ⟨line, mask, none⟩ ∧ stored) ∧
    (let s : State := { demo with b := { demo.b with barr := some ⟨3, 2, none⟩, stores := [⟨64, [1], 4, 12, false, 0, []⟩] } };
    let bank : Nat := 0; let line : Nat := 3; let mask : DWord := 2; let stored := (∀ st ∈ s.b.stores, s.b.iss ≤ st.iss) ∧
    ∀ o ∈ s.core.xops, o.bank = bank → o.iss < s.b.iss → ∀ c t qd ar fmt xs sat ps, o.ins ≠ .tst c t qd ar fmt xs sat ps;
    s.b.key = bank ∧ s.b.barr = some ⟨line, mask, none⟩ ∧ ¬stored) ∧
    (let s : State := { demo with b := { demo.b with barr := some ⟨3, 2, some 1⟩, bcn := [(3, 1)] }, banks := [(2, { Bank.fresh 2 with bound := true, uid := 2050, bcn := [(3, 1)] })] };
    let bank : Nat := 0; let line : Nat := 3; let mask : DWord := 2; let g : BitVec 32 := 1;
    let reached (x : Bank) : Prop := (x.bcn.get 0 line - g).toNat < 2 ^ 31;
    let joins (x : Bank) : Prop := x ∈ s.bound ∧ x.key ≠ bank ∧ x.key / 128 = bank / 128 ∧ x.lnch = s.b.lnch ∧ mask.getLsbD (x.key / 2 % 64) = true;
    s.b.key = bank ∧ s.b.barr = some ⟨line, mask, some g⟩ ∧ reached s.b ∧ (∀ x, joins x → reached x)) ∧
    (let s : State := { demo with b := { demo.b with barr := some ⟨3, 2, some 1⟩, bcn := [(3, 1)] }, banks := [(2, { Bank.fresh 2 with bound := true, uid := 2050, bcn := [] })] };
    let bank : Nat := 0; let line : Nat := 3; let mask : DWord := 2; let g : BitVec 32 := 1;
    let reached (x : Bank) : Prop := (x.bcn.get 0 line - g).toNat < 2 ^ 31;
    let joins (x : Bank) : Prop := x ∈ s.bound ∧ x.key ≠ bank ∧ x.key / 128 = bank / 128 ∧ x.lnch = s.b.lnch ∧ mask.getLsbD (x.key / 2 % 64) = true;
    s.b.key = bank ∧ s.b.barr = some ⟨line, mask, some g⟩ ∧ (∃ x, joins x ∧ ¬reached x)) := by
  dsimp only
  refine ⟨⟨?_, ?_, ⟨by decide, by intro o h; cases h⟩⟩, ⟨?_, ?_, fun h => absurd h.1 (by decide)⟩, ⟨?_, ?_, ?_, (by rintro x ⟨h, h2, -⟩; simp [State.bound, demo, demoBank, Bank.fresh] at h; rcases h with rfl | rfl; exact absurd rfl h2; decide)⟩, ⟨?_, ?_, ⟨{ Bank.fresh 2 with bound := true, uid := 2050, bcn := [] }, by decide, by decide⟩⟩⟩ <;> first | exact performs_of (by decide) | decide | decide +kernel

theorem test_w_TicketMoves :
  (let s : State := { demo with tickQ := [⟨0, 5, false, 4, 4⟩] }; let bank : Nat := 0; let u : Tick := ⟨0, 5, false, 4, 4⟩;
    let us : List Tick := []; s.b.key = bank ∧ s.tickQ = u :: us ∧ u.bank = bank ∧ s.settledAt 2 u.iss = true ∧
    s.b.heldBack s.now u.iss = false) ∧
    (let s : State := { demo with b := { demo.b with stores := [⟨64, [1], 3, 12, false, 0, []⟩] }, tickQ := [⟨0, 5, false, 4, 4⟩] };
    let bank : Nat := 0; let u : Tick := ⟨0, 5, false, 4, 4⟩; s.b.key = bank ∧ s.tickQ = [u] ∧ u.bank = bank ∧
    s.b.bound = true ∧ (s.settledAt 2 u.iss = false ∨ s.b.heldBack s.now u.iss = true)) ∧
    (let s : State := demoF demo [demoForm (.tkwait 1023) [4]]; let bank : Nat := 0; let cell : Nat := 1023;
    let f : Form := demoForm (.tkwait 1023) [4]; let t : DWord := 4; s.b.key = bank ∧ s.b.forms = [f] ∧
    f.kind = .tkwait cell ∧ f.ops = [t]) := by
  dsimp only
  and_intros <;> first | exact performs_of (by decide) | decide | decide +kernel

theorem test_w_FenceRetires :
  (let s : State := demoF demo [demoForm (.fence 15) []]; let bank : Nat := 0; let cls : Nat := 15;
    let f : Form := demoForm (.fence 15) []; let st := ∀ x ∈ s.b.stores, f.iss ≤ x.iss;
    let x := ∀ o ∈ s.core.xops, o.bank = bank → f.iss ≤ o.iss ∨ ∃ e ∈ s.b.streams, e.2.xop = o.id ∧ e.2.susp = true;
    let far := ∀ y ∈ s.b.fars, f.iss ≤ y.iss; let res := (∀ p ∈ s.b.pend, f.iss ≤ p.iss) ∧
    ∀ k ∈ s.b.contribs, f.iss ≤ k.iss ∨ k.ql = none; s.b.key = bank ∧ s.b.forms = [f] ∧ f.kind = .fence cls ∧
    ((cls.testBit 0 = true → st) ∧ (cls.testBit 1 = true → x) ∧ (cls.testBit 2 = true → far) ∧ (cls.testBit 3 = true →
    res))) ∧
    (let s : State := { demo with b := { demo.b with forms := [demoForm (.fence 1) []], stores := [⟨64, [1], 4, 12, false, 0, []⟩] } };
    let bank : Nat := 0; let cls : Nat := 1; let f : Form := demoForm (.fence 1) [];
    let st := ∀ x ∈ s.b.stores, f.iss ≤ x.iss; let x := ∀ o ∈ s.core.xops, o.bank = bank →
    f.iss ≤ o.iss ∨ ∃ e ∈ s.b.streams, e.2.xop = o.id ∧ e.2.susp = true; let far := ∀ y ∈ s.b.fars, f.iss ≤ y.iss;
    let res := (∀ p ∈ s.b.pend, f.iss ≤ p.iss) ∧ ∀ k ∈ s.b.contribs, f.iss ≤ k.iss ∨ k.ql = none; s.b.key = bank ∧
    s.b.forms = [f] ∧ f.kind = .fence cls ∧ ((cls.testBit 0 = true ∧ ¬st) ∨ (cls.testBit 1 = true ∧
    ¬x) ∨ (cls.testBit 2 = true ∧ ¬far) ∨ (cls.testBit 3 = true ∧ ¬res))) := by
  dsimp only
  refine ⟨⟨?_, ?_, ?_, (by decide)⟩, ⟨?_, ?_, ?_, ?_⟩⟩ <;> first | exact performs_of (by decide) | decide | decide +kernel

theorem test_w_TokenMoves :
  (let s : State := { demoF demo [demoForm (.tqput 319) [7]] with tokqs := [(319, ⟨true, 3, [], 0⟩)] }; let bank : Nat := 0;
    let n : Nat := 319; let f : Form := demoForm (.tqput 319) [7]; let v : DWord := 7;
    let q := s.tokqs.get ⟨false, 0, [], 0⟩ n;
    let waiter (g : Form) : Prop := g.kind = f.kind ∧ g.phase < 8 ∧ ∃ x : Bank, (x.bound = true ∧ (∃ e ∈ s.banks, e.2 = x) ∨ ∃ e ∈ s.saved, e.1 = x) ∧ (g ∈ x.forms ∨ ∃ w, x.wait = some w ∧ g ∈ w.forms);
    let turn := (∀ g, waiter g → f.since ≤ g.since) ∧ s.b.heldBack s.now f.iss = false; s.b.key = bank ∧ s.b.forms = [f] ∧
    s.b.wait = none ∧ f.phase < 8 ∧ f.kind = .tqput n ∧ f.ops = [v] ∧ q.en = true ∧ q.toks.length + q.out < q.depth + 1 ∧
    s.settledAt 3 f.iss = true ∧ turn) ∧
    (let s : State := { demoF demo [demoForm (.tqput 319) [7]] with tokqs := [(319, ⟨true, 3, [1, 2, 3, 4], 0⟩)] };
    let bank : Nat := 0; let n : Nat := 319; let f : Form := demoForm (.tqput 319) [7];
    let q := s.tokqs.get ⟨false, 0, [], 0⟩ n;
    let waiter (g : Form) : Prop := g.kind = f.kind ∧ g.phase < 8 ∧ ∃ x : Bank, (x.bound = true ∧ (∃ e ∈ s.banks, e.2 = x) ∨ ∃ e ∈ s.saved, e.1 = x) ∧ (g ∈ x.forms ∨ ∃ w, x.wait = some w ∧ g ∈ w.forms);
    let turn := (∀ g, waiter g → f.since ≤ g.since) ∧ s.b.heldBack s.now f.iss = false; s.b.key = bank ∧ s.b.forms = [f] ∧
    s.b.wait = none ∧ f.phase < 8 ∧ f.kind = .tqput n ∧ q.en = true ∧
    (q.depth + 1 ≤ q.toks.length + q.out ∨ s.settledAt 3 f.iss = false ∨ ¬turn)) ∧
    (let s : State := { demoF demo [demoForm (.tqget 319) []] with tokqs := [(319, ⟨true, 3, [], 0⟩)] }; let bank : Nat := 0;
    let n : Nat := 319; let f : Form := demoForm (.tqget 319) []; let q := s.tokqs.get ⟨false, 0, [], 0⟩ n;
    let waiter (g : Form) : Prop := g.kind = f.kind ∧ g.phase < 8 ∧ ∃ x : Bank, (x.bound = true ∧ (∃ e ∈ s.banks, e.2 = x) ∨ ∃ e ∈ s.saved, e.1 = x) ∧ (g ∈ x.forms ∨ ∃ w, x.wait = some w ∧ g ∈ w.forms);
    let turn := (∀ g, waiter g → f.since ≤ g.since) ∧ s.b.heldBack s.now f.iss = false; s.b.key = bank ∧ s.b.forms = [f] ∧
    s.b.wait = none ∧ f.phase < 8 ∧ f.kind = .tqget n ∧ q.en = true ∧ (q.toks = [] ∨ ¬turn)) ∧
    (let s : State := { demoF demo [demoForm (.tqget 319) []] with tokqs := [(319, ⟨true, 3, [7], 0⟩)] };
    let bank : Nat := 0; let n : Nat := 319; let f : Form := demoForm (.tqget 319) []; let v : DWord := 7;
    let q := s.tokqs.get ⟨false, 0, [], 0⟩ n;
    let waiter (g : Form) : Prop := g.kind = f.kind ∧ g.phase < 8 ∧ ∃ x : Bank, (x.bound = true ∧ (∃ e ∈ s.banks, e.2 = x) ∨ ∃ e ∈ s.saved, e.1 = x) ∧ (g ∈ x.forms ∨ ∃ w, x.wait = some w ∧ g ∈ w.forms);
    let turn := (∀ g, waiter g → f.since ≤ g.since) ∧ s.b.heldBack s.now f.iss = false; let vs := []; s.b.key = bank ∧
    s.b.forms = [f] ∧ s.b.wait = none ∧ f.phase < 8 ∧ f.kind = .tqget n ∧ q.en = true ∧ q.toks = v :: vs ∧ turn) ∧
    (let s : State := { demo with b := { demo.b with forms := [demoForm (.tqrel 319) []], stores := [⟨64, [1], 4, 12, false, 0, []⟩] }, tokqs := [(319, ⟨true, 3, [], 1⟩)] };
    let bank : Nat := 0; let n : Nat := 319; let f : Form := demoForm (.tqrel 319) [];
    let q := s.tokqs.get ⟨false, 0, [], 0⟩ n; s.b.key = bank ∧ s.b.forms = [f] ∧ s.b.wait = none ∧ f.phase < 8 ∧
    f.kind = .tqrel n ∧ q.en = true ∧ (s.settledAt 3 f.iss = false ∨ s.b.heldBack s.now f.iss = true)) ∧
    (let s : State := { demoF demo [demoForm (.tqrel 319) []] with tokqs := [(319, ⟨true, 3, [], 1⟩)] }; let bank : Nat := 0;
    let n : Nat := 319; let f : Form := demoForm (.tqrel 319) []; let q := s.tokqs.get ⟨false, 0, [], 0⟩ n; s.b.key = bank ∧
    s.b.forms = [f] ∧ s.b.wait = none ∧ f.phase < 8 ∧ f.kind = .tqrel n ∧ q.en = true ∧ s.settledAt 3 f.iss = true ∧
    s.b.heldBack s.now f.iss = false ∧ 0 < q.out) ∧
    (let s : State := { demoF demo [demoForm (.tqrel 319) []] with tokqs := [(319, ⟨true, 3, [], 0⟩)] }; let bank : Nat := 0;
    let n : Nat := 319; let f : Form := demoForm (.tqrel 319) []; let q := s.tokqs.get ⟨false, 0, [], 0⟩ n; s.b.key = bank ∧
    s.b.forms = [f] ∧ s.b.wait = none ∧ f.phase < 8 ∧ f.kind = .tqrel n ∧ q.en = true ∧ s.settledAt 3 f.iss = true ∧
    s.b.heldBack s.now f.iss = false ∧ q.out = 0 ∧ s.b.wx = 0) := by
  dsimp only
  refine ⟨⟨?_, ?_, ?_, ?_, ?_, ?_, ?_, ?_, ?_, ⟨by rintro g ⟨_, _, x, (⟨_, e, h, _⟩ | ⟨e, h, _⟩), _⟩ <;> exact absurd h (List.not_mem_nil), by decide⟩⟩, ⟨?_, ?_, ?_, ?_, ?_, ?_, .inl (by decide)⟩, ⟨?_, ?_, ?_, ?_, ?_, ?_, .inl (by decide)⟩, ⟨?_, ?_, ?_, ?_, ?_, ?_, ?_, ⟨by rintro g ⟨_, _, x, (⟨_, e, h, _⟩ | ⟨e, h, _⟩), _⟩ <;> exact absurd h (List.not_mem_nil), by decide⟩⟩, ⟨?_, ?_, ?_, ?_, ?_, ?_, ?_⟩, ⟨?_, ?_, ?_, ?_, ?_, ?_, ?_, ?_, ?_⟩, ⟨?_, ?_, ?_, ?_, ?_, ?_, ?_, ?_, ?_, ?_⟩⟩ <;> first | exact performs_of (by decide) | decide | decide +kernel

theorem test_w_TokenQueueRegister :
  (let s : State := demo; let n : Nat := 319; let q := s.tokqs.get ⟨false, 0, [], 0⟩ n; n < 320 ∧ s.b.pend = [] ∧
    (∀ x ∈ s.banks, x.2.bound = true → x.2.pend = [] ∧ x.2.forms = []) ∧ s.b.wait = none ∧ (∀ x ∈ s.banks, x.2.wait = none) ∧
    s.saved = [] ∧ q.en = false ∧ q.depth < 256 ∧ q.toks.length < 512 ∧ q.out < 512) ∧
    (let s : State := { demoF demo [] with tokqs := [(319, ⟨true, 3, [], 0⟩)] }; let n : Nat := 319;
    let v : DWord := 0x8000000000000000; let q := s.tokqs.get ⟨false, 0, [], 0⟩ n; n < 320 ∧ s.b.pend = [] ∧
    (∀ x ∈ s.banks, x.2.bound = true → x.2.pend = [] ∧ x.2.forms = []) ∧ s.b.wait = none ∧ (∀ x ∈ s.banks, x.2.wait = none) ∧
    s.saved = [] ∧ q.en = true ∧ v.getLsbD 63 = true) ∧
    (let s : State := { demoF demo [] with tokqs := [(319, ⟨true, 3, [], 0⟩)] }; let n : Nat := 319; let v : DWord := 0;
    let q := s.tokqs.get ⟨false, 0, [], 0⟩ n; n < 320 ∧ s.b.pend = [] ∧ (∀ x ∈ s.banks, x.2.bound = true → x.2.pend = [] ∧
    x.2.forms = []) ∧ s.b.wait = none ∧ (∀ x ∈ s.banks, x.2.wait = none) ∧ s.saved = [] ∧ q.en = true ∧
    v.getLsbD 63 = false ∧ s.b.forms = []) ∧
    (let s : State := { demoF demo [demoForm (.tqget 319) []] with tokqs := [(319, ⟨true, 3, [], 0⟩)] }; let n : Nat := 319;
    let v : DWord := 0; let q := s.tokqs.get ⟨false, 0, [], 0⟩ n; let f := demoForm (.tqget 319) []; n < 320 ∧
    s.b.pend = [] ∧ (∀ x ∈ s.banks, x.2.bound = true → x.2.pend = [] ∧ x.2.forms = []) ∧ s.b.wait = none ∧
    (∀ x ∈ s.banks, x.2.wait = none) ∧ s.saved = [] ∧ q.en = true ∧ v.getLsbD 63 = false ∧ s.b.bound = true ∧
    s.b.forms = [f] ∧ (f.kind = .tqget n ∨ f.kind = .tqput n ∨ f.kind = .tqrel n) ∧ s.b.wx = 0) := by
  dsimp only
  and_intros <;> first | exact performs_of (by decide) | decide | decide +kernel

theorem test_w_WorkQueues :
  (let s : State := demoF demo [demoForm (.post 1) [1, 2, 3, 4, 0]]; let bank : Nat := 0; let pri : Nat := 1;
    let f : Form := demoForm (.post 1) [1, 2, 3, 4, 0]; let p0 : DWord := 1; let p1 : DWord := 2; let p2 : DWord := 3;
    let p3 : DWord := 4; let d : DWord := 0; let k := 8 * d.toNat + pri; let q := s.taskqs.get [] k; s.b.key = bank ∧
    s.b.forms = [f] ∧ f.kind = .post pri ∧ f.ops = [p0, p1, p2, p3, d] ∧ q.length < 512) ∧
    (let s : State := { demoF demo [demoForm (.post 1) [1, 2, 3, 4, 0]] with taskqs := [(1, List.replicate 512 ⟨0, 2, 1, [], 0⟩)] };
    let bank : Nat := 0; let pri : Nat := 1; let f : Form := demoForm (.post 1) [1, 2, 3, 4, 0]; let p0 : DWord := 1;
    let p1 : DWord := 2; let p2 : DWord := 3; let p3 : DWord := 4; let d : DWord := 0; let k := 8 * d.toNat + pri;
    let q := s.taskqs.get [] k; s.b.key = bank ∧ s.b.forms = [f] ∧ f.kind = .post pri ∧ f.ops = [p0, p1, p2, p3, d] ∧
    512 ≤ q.length) ∧ (let s : State := demoF demo [demoForm (.launch 1) [1, 2, 3, 4]]; let bank : Nat := 0;
    let pri : Nat := 1; let f : Form := demoForm (.launch 1) [1, 2, 3, 4]; let p0 : DWord := 1; let p1 : DWord := 2;
    let p2 : DWord := 3; let p3 : DWord := 4; let l := s.launchqs.get [] pri; s.b.key = bank ∧ s.b.forms = [f] ∧
    f.kind = .launch pri ∧ f.ops = [p0, p1, p2, p3] ∧ s.b.bound = true ∧ s.b.wait = none ∧ (∀ x ∈ s.banks, x.2.bound = true →
    x.2.waiting = []) ∧ (∀ x ∈ s.saved, x.1.waiting = []) ∧ (∀ u ∈ s.uqs, u.2.since = none) ∧ l.length < 64) ∧
    (let s : State := { demoF demo [demoForm (.launch 1) [1, 2, 3, 4]] with launchqs := [(1, List.replicate 64 demoLaunch)] };
    let bank : Nat := 0; let pri : Nat := 1; let f : Form := demoForm (.launch 1) [1, 2, 3, 4]; let p0 : DWord := 1;
    let p1 : DWord := 2; let p2 : DWord := 3; let p3 : DWord := 4; let l := s.launchqs.get [] pri; s.b.key = bank ∧
    s.b.forms = [f] ∧ f.kind = .launch pri ∧ f.ops = [p0, p1, p2, p3] ∧ s.b.bound = true ∧ s.b.wait = none ∧
    (∀ x ∈ s.banks, x.2.bound = true → x.2.waiting = []) ∧ (∀ x ∈ s.saved, x.1.waiting = []) ∧
    (∀ u ∈ s.uqs, u.2.since = none) ∧ 64 ≤ l.length) ∧
    (let s : State := { demoF demo [{ demoForm (.launch 1) [1, 2, 3, 4] 1 with since := 9 }] with uqs := [(0, ⟨0, 0, 0, some (1, 3)⟩)] };
    let bank : Nat := 0; let pri : Nat := 1; let f : Form := { demoForm (.launch 1) [1, 2, 3, 4] 1 with since := 9 };
    let p0 : DWord := 1; let p1 : DWord := 2; let p2 : DWord := 3; let p3 : DWord := 4; let l := s.launchqs.get [] pri;
    s.b.key = bank ∧ s.b.forms = [f] ∧ f.kind = .launch pri ∧ f.ops = [p0, p1, p2, p3] ∧ l.length < 64 ∧ f.phase = 1 ∧
    (∃ x ∈ s.waiters, pri ≤ x.1 ∧ x.2 < f.since)) := by
  dsimp only
  refine ⟨⟨?_, ?_, ?_, ?_, ?_⟩, ⟨?_, ?_, ?_, ?_, ?_⟩, ⟨?_, ?_, ?_, ?_, ?_, ?_, ?_, ?_, ?_, ?_⟩, ⟨?_, ?_, ?_, ?_, ?_, ?_, ?_, ?_, ?_, ?_⟩, ⟨?_, ?_, ?_, ?_, ?_, ?_, ⟨(1, 3), by decide, by decide, by decide⟩⟩⟩ <;> first | exact performs_of (by decide) | decide | decide +kernel

theorem test_w_TaskRuns :
  (let s : State := { demo with taskqs := [(9, [⟨0, 2, 1, [7, 8, 9], 0⟩])] }; let die : Nat := 1; let pri : Nat := 1;
    let r : Task := ⟨0, 2, 1, [7, 8, 9], 0⟩; let rs : List Task := []; s.taskqs.get [] (8 * die + pri) = r :: rs ∧ pri < 8 ∧
    s.image r.ctx r.hnd false = none) ∧ (let s : State := { demoW with taskqs := [(9, [⟨0, 2, 1, [7, 8, 9], 0⟩])] };
    let die : Nat := 1; let pri : Nat := 1; let p : Place := ⟨16, 0, false⟩; let r : Task := ⟨0, 2, 1, [7, 8, 9], 0⟩;
    let rs : List Task := []; let k := demoKern; s.taskqs.get [] (8 * die + pri) = r :: rs ∧ pri < 8 ∧
    s.image r.ctx r.hnd false = some k ∧ s.bindChecks r.ctx k = true ∧ s.placesOk r.ctx k 1 1 [p] = true ∧
    p.core / 16 = die ∧ p.col < 4 ∧ (∀ n, n ≠ pri → n < 8 → s.taskqs.get [] (8 * die + n) = []) ∧
    (∀ n, s.launchqs.get [] n = [])) := by
  dsimp only
  refine ⟨⟨?_, ?_, ?_⟩, ⟨?_, ?_, ?_, ?_, ?_, ?_, ?_, fun n h _ => smap_one (by omega), fun _ => rfl⟩⟩ <;> first | exact performs_of (by decide) | decide | decide +kernel

theorem test_w_LaunchCompletes :
  (let s : State := { demo with live := [{ demoLaunch with compl := 0 }] }; let l : Launch := { demoLaunch with compl := 0 };
    let ls : List Launch := []; s.live = l :: ls ∧ l.banks = [] ∧ (∀ x ∈ ls, x.id ≠ l.id) ∧ l.graph = none ∧ l.compl = 0) ∧
    (let s : State := { demoM with live := [demoLaunch], firm := [] }; let l : Launch := demoLaunch;
    let ls : List Launch := []; let va := l.compl.toNat; let w := s.draw;
    let d := ({ w with live := ls } : State).asFirm l.ctx; let f := demoLeaf; s.live = l :: ls ∧ l.banks = [] ∧
    (∀ x ∈ ls, x.id ≠ l.id) ∧ l.graph = none ∧ l.compl ≠ 0 ∧ va % 8 = 0 ∧ d.translate (.k 0) true l.ctx va true = .ok f ∧
    s.unlinked f va = false ∧ d.portWaits okraQ f va = false ∧ Tlb.ver f = false ∧ s.gPoison (Leaf.pa f va) = false ∧
    (∀ i, i < 8 → s.inPool (Leaf.pa f va + i) = false)) ∧
    (let s : State := { demoM with live := [demoLaunch], firm := [], b := { demo.b with queues := [(0, ⟨[{ demoPkt (.gst 8) 0x60 7 0x40 true false with posted := [⟨demoLeaf, 0x60, [7, 0, 0, 0, 0, 0, 0, 0], none, false, false, 3, 0, 0⟩] }], false, false, 0⟩)] } };
    let l : Launch := demoLaunch; let ls : List Launch := []; let va := l.compl.toNat; let w := s.draw;
    let d := ({ w with live := ls } : State).asFirm l.ctx; let f := demoLeaf; s.live = l :: ls ∧ l.banks = [] ∧
    (∀ x ∈ ls, x.id ≠ l.id) ∧ l.graph = none ∧ l.compl ≠ 0 ∧ va % 8 = 0 ∧ d.translate (.k 0) true l.ctx va true = .ok f ∧
    s.unlinked f va = false ∧ d.portWaits okraQ f va = true) ∧
    (let s : State := { demo with live := [{ demoLaunch with graph := some (7, [2, 2]), bound := true }] };
    let l : Launch := { demoLaunch with graph := some (7, [2, 2]), bound := true }; let ls : List Launch := []; let g := 7;
    let h := 2; let n := 2; let rest := []; s.live = l :: ls ∧ l.banks = [] ∧ (∀ x ∈ ls, x.id ≠ l.id) ∧ l.graph = some (g,
    h :: n :: rest)) := by
  dsimp only
  refine ⟨⟨?_, ?_, ?_, ?_, ?_⟩, ⟨?_, ?_, ?_, ?_, ?_, ?_, ok_of (by decide +kernel), (by decide +kernel), (by decide +kernel), ?_, (by decide +kernel), (by decide +kernel)⟩, ⟨?_, ?_, ?_, ?_, ?_, ?_, ok_of (by decide +kernel), (by decide +kernel), (by decide +kernel)⟩, ⟨?_, ?_, ?_, ?_⟩⟩ <;> first | exact performs_of (by decide) | decide | decide +kernel

theorem test_w_PlacesObeyTheRules :
  (let s : State := demo; let ctx : Nat := 0; let k : Kern := demoKern; let p : Nat := 1; let q : Nat := 1;
    let ps : List Place := [⟨127, 0, true⟩]; let a := ⟨127, 0, true⟩; let b := ⟨127, 0, true⟩;
    s.placesOk ctx k p q ps = true ∧ (∀ a ∈ ps, a.col < 4) ∧ a ∈ ps ∧ b ∈ ps ∧ a.core = b.core) ∧ (let s : State := demo;
    let ctx : Nat := 0; let k : Kern := demoKern; let p : Nat := 1; let q : Nat := 1;
    let ps : List Place := [⟨127, 0, true⟩]; let a := ⟨127, 0, true⟩; s.placesOk ctx k p q ps = true ∧
    (∀ a ∈ ps, a.col < 4) ∧ a ∈ ps) ∧ (let s : State := demo; let ctx : Nat := 0; let k : Kern := demoKern; let p : Nat := 1;
    let q : Nat := 1; let ps : List Place := [⟨127, 0, true⟩]; s.placesOk ctx k p q ps = true ∧ (∀ a ∈ ps, a.col < 4)) ∧
    (let s : State := { demo with grants := [(0, ⟨0, 1, none, .cores 2 true⟩)] }; let ctx : Nat := 0;
    let k : Kern := demoKern; let p : Nat := 1; let q : Nat := 1; let ps : List Place := [⟨127, 0, true⟩];
    let a := ⟨127, 0, true⟩; let e := (0, ⟨0, 1, none, .cores 2 true⟩); let set := 2; s.placesOk ctx k p q ps = true ∧
    (∀ a ∈ ps, a.col < 4) ∧ a ∈ ps ∧ e ∈ s.grants ∧ e.2.giver = ctx ∧ e.2.res = .cores set true) ∧ (let s : State := demo;
    let ctx : Nat := 0; let k : Kern := demoKern; let p : Nat := 1; let q : Nat := 1;
    let ps : List Place := [⟨127, 0, true⟩]; s.placesOk ctx k p q ps = true ∧ (∀ a ∈ ps, a.col < 4)) ∧
    (let s : State := { demoT with grants := [(0, ⟨0, 1, none, .cores (.ofNat 128 (2 ^ 127)) true⟩)] }; let ctx : Nat := 1;
    let k : Kern := demoKern; let p : Nat := 1; let q : Nat := 1; let ps : List Place := [⟨127, 0, true⟩];
    let a := ⟨127, 0, true⟩; s.placesOk ctx k p q ps = true ∧ (∀ a ∈ ps, a.col < 4) ∧ a ∈ ps ∧ ctx ≠ 0) ∧
    (let s : State := demo; let ctx : Nat := 0; let k : Kern := demoKern; let p : Nat := 1; let q : Nat := 1;
    let ps : List Place := [⟨0, 0, true⟩]; let a := ⟨0, 0, true⟩; let x := demoBank; s.placesOk ctx k p q ps = true ∧
    (∀ a ∈ ps, a.col < 4) ∧ a ∈ ps ∧ x ∈ s.bound ∧ x.core = a.core) := by
  dsimp only
  and_intros <;> first | exact performs_of (by decide) | decide | decide +kernel

theorem test_w_BindingState :
  let s : State := { demoW with launchqs := [(1, [demoLaunch])] }; let pri : Nat := 1;
    let ps : List Place := [⟨16, 0, false⟩]; let l : Launch := demoLaunch; let ls : List Launch := [];
    let k : Kern := demoKern; s.launchqs.get [] pri = l :: ls ∧ l.graph = none ∧ l.pri = pri ∧
    (∀ x ∈ ls, x.stamp ≠ l.stamp) ∧ s.image l.ctx l.hnd false = some k ∧ s.bindChecks l.ctx k = true ∧
    s.placesOk l.ctx k (spreads k).1 (spreads k).2 ps = true ∧ (∀ n, n ≠ pri → s.launchqs.get [] n = []) ∧
    (∀ n, s.taskqs.get [] n = []) ∧ (∀ p ∈ ps, p.col < 4) := by
  dsimp only
  refine ⟨?_, ?_, ?_, ?_, ?_, ?_, ?_, fun n h => smap_one h, fun _ => rfl, ?_⟩ <;> first | exact performs_of (by decide) | decide | decide +kernel

theorem test_w_BanksSwitchTogether :
  (let s : State := demo; let core : Nat := 0; let c (s : State) (n : Nat) : Core := s.cores.get .reset n;
    (c s core).switchReq = false) ∧
    (let s : State := { demo with b := { demo.b with retiredSwitch := true }, cores := [(0, { Core.reset with a := { SlotMem.zero with owner := some 0 }, switchReq := true, cyc := 10 })] };
    let core : Nat := 0; let fg := s.foreground core; let c (s : State) (n : Nat) : Core := s.cores.get .reset n;
    (c s core).switchReq = true ∧ (∀ b ∈ fg, s.switchable b = true)) ∧
    (let s : State := { demo with b := { demo.b with open_ := true }, cores := [(0, { Core.reset with a := { SlotMem.zero with owner := some 0 }, switchReq := true, cyc := 10 })] };
    let core : Nat := 0; let fg := s.foreground core; let c (s : State) (n : Nat) : Core := s.cores.get .reset n;
    (c s core).switchReq = true ∧ (∃ b ∈ fg, s.switchable b = false)) ∧
    (let s : State := { demo with b := { demo.b with retiredSwitch := true } };
    let b := { demoBank with retiredSwitch := true }; s.switchable b = true) := by
  dsimp only
  and_intros <;> first | exact performs_of (by decide) | decide | decide +kernel

theorem test_w_BudgetMoves :
  (let s : State := demo; (∀ e ∈ s.ctxs, e.2.bid < 256) ∧ (∀ e ∈ s.ctxs, ∀ x ∈ s.ctxs, e.2.bucket.getLsbD 63 = true →
    x.2.bucket.getLsbD 63 = true → e.2.bid = x.2.bid → e = x) ∧ s.ctxs.Nodup) ∧
    (let s : State := { demoT with banks := [(1, { Bank.fresh 1 with bound := true, uid := 2049, ctx := 1 })], ctxs := [(0, { Ctx.root with share := 1 }), (1, { Ctx.new 0 1 0 with st := .run }), (2, { Ctx.new 0 1 0 with st := .run })], b := { demo.b with ctx := 2, lnch := 1 }, cores := [(0, { Core.reset with a := { SlotMem.zero with owner := some 1 }, cyc := 10 })], windows := [(2, 0)] };
    let n : Nat := 2; let core : Nat := 0; let c := s.cores.get .reset core;
    let meets (x y : Bank) : Prop := x.col < y.col + y.cols ∧ y.col < x.col + x.cols; c.switchReq = false ∧ n < 4096 ∧
    (∃ b ∈ s.foreground core, b.core = core ∧ b.ctx = n ∧
    s.windows.filter (fun w => w.1 / 4096 == b.seq) = [(4096 * b.seq + n, rfld (s.ctx n).share 10 0 * 1000000 / 1024)] ∧
    ∃ x ∈ s.bound, x.core = core ∧ x.slotB = !b.slotB ∧ s.within n 9 x.ctx = false ∧ meets x b)) := by
  dsimp only
  and_intros <;> first | exact performs_of (by decide) | decide | decide +kernel

theorem test_w_SyncForms_own :
  let s : State := { demo with b := { demo.b with kern := some demoKern }, tokqs := [(511, ⟨true, 3, [], 0⟩), (1, ⟨false, 3, [], 0⟩)], qOwner := [(2, 1)] };
    s.Performs (.tkset always 3 1) always ∧ s.Performs (.tkadv always 3 1) always ∧ s.Performs (.tkwait always 3 1) always ∧
    (3 : BitVec 8).toNat < ((s.b.kern.map (·.tickets)).getD 0) ∧ ¬(4 : BitVec 8).toNat < ((s.b.kern.map (·.tickets)).getD 0) ∧
    s.Performs (.tqput always 15 31 1) always ∧ s.Performs (.tqget always 15 31 1) always ∧ s.Performs (.tqrel always 15 31) always ∧
    s.qOwner.get 0 511 = s.b.ctx ∧ (s.tokqs.get ⟨false, 0, [], 0⟩ 511).en = true ∧ ¬s.qOwner.get 0 2 = s.b.ctx ∧
    s.qOwner.get 0 1 = s.b.ctx ∧ ¬(s.tokqs.get ⟨false, 0, [], 0⟩ 1).en = true ∧ s.cur.phase = .alone ∧ s.b.region = none := by
  dsimp only
  and_intros <;> first | exact performs_of (by decide) | decide

theorem test_w_WaitForms_issue :
  let s : State := demo;
    s.Performs (.cwaitReg always 15 true 1) always ∧ s.Performs (.cwaitImm always 15 true 4) always ∧ s.Performs (.drain always 7) always := by
  dsimp only
  and_intros <;> exact performs_of (by decide)

theorem test_w_RegionForms :
  (let s : State := demo; let c : Ctl := always; let off : BitVec 20 := 16; let code : BitVec 8 := 9; let b := s.b;
    s.Performs (.chk c off) c ∧ b.region = none ∧ s.Performs (.txb c off) c ∧ s.Performs (.abt c code) c ∧
    s.Performs (.asrt c code) ⟨c.h, 0, false⟩ ∧ s.Performs (.gclr c) c ∧ s.Performs (.snap c) c ∧ s.snapRoom = true ∧
    s.Performs (.snape c) c ∧ rfld b.vsnp 63 63 = 0) ∧
    (let s : State := { demo with b := { demo.b with region := some demoRegion } }; let c : Ctl := always;
    let code : BitVec 8 := 9; s.Performs (.abt c code) c ∧ s.Performs (.asrt c code) ⟨c.h, 0, false⟩ ∧
    s.Performs (.gclr c) c) ∧
    (let s : State := { demo with snaps := (List.range 4096).map fun i => (i, ⟨7, 0, 3, false⟩), vctr := 5 };
    let c : Ctl := always; let b := s.b; s.Performs (.snap c) c ∧ s.cur.phase = .alone ∧ b.region = none ∧
    s.snapRoom = false) ∧
    (let s : State := { demo with vctr := 5, snaps := [(3, ⟨0, 0, 5, false⟩)], b := { demo.b with vsnp := 0x8000000000000005, rgst := 0x2000000000000000 } };
    let c : Ctl := always; let b := s.b; s.Performs (.snape c) c ∧ rfld b.vsnp 63 63 = 1) := by
  dsimp only
  and_intros <;> first | exact performs_of (by decide) | decide | decide +kernel

theorem test_w_CommitForms :
  (let s : State := demo; let c : Ctl := always; let rd : BitVec 6 := 3; s.Performs (.cmt c) c ∧ s.b.region = none ∧
    s.Performs (.txc c rd) c) ∧ (let s : State := { demo with b := { demo.b with region := some demoRegion } };
    let c : Ctl := always; let rd : BitVec 6 := 3; let r := demoRegion; s.Performs (.cmt c) c ∧ s.b.region = some r ∧
    s.Performs (.txc c rd) c) ∧
    (let s : State := { demo with b := { demo.b with region := some { demoRegion with txn := true } } };
    let c : Ctl := always; let rd : BitVec 6 := 3; let r := { demoRegion with txn := true }; s.Performs (.cmt c) c ∧
    s.b.region = some r ∧ s.Performs (.txc c rd) c) := by
  dsimp only
  and_intros <;> first | exact performs_of (by decide) | decide | decide +kernel

theorem test_w_HeldStoresAndGuards :
  (let s : State := { demo with b := { demo.b with region := some { demoRegion with guards := [(5, 0x44, 4)] } } };
    let c : Ctl := always; let rs : BitVec 6 := 1; let ar : BitVec 5 := 1; let sz : BitVec 2 := 3;
    let u : Nat := 2 ^ sz.toNat; let a := s.ra ar.toNat; let legal (a n : Nat) : Prop := a + n ≤ s.shareSize ∧ a % n = 0;
    let r := { demoRegion with guards := [(5, 0x44, 4)] }; s.Performs (.st c rs ar sz 0) c ∧ legal a u ∧
    s.b.region = some r ∧ r.sync = [] ∧ ((r.held.filter fun h => h.col == s.cur.col).length < 1024)) ∧
    (let s : State := demo; let c : Ctl := always; let rs : BitVec 6 := 1; let ar : BitVec 5 := 1; let fmt : BitVec 3 := 6;
    let d : BitVec 7 := 0; let a := s.ra ar.toNat;
    let size : Nat := match fmt.toNat with | 0 => 1 | 1 => 1 | 2 => 2 | 3 => 2 | 4 => 4 | 5 => 4 | _ => 8;
    let la := (BitVec.ofInt 32 (a + d.toInt * size)).toNat; let legal (a n : Nat) : Prop := a + n ≤ s.shareSize ∧ a % n = 0;
    s.Performs (.ldgScalar c rs ar fmt d) c ∧ legal la size ∧ s.b.region = none) ∧ (let s : State := demo;
    let c : Ctl := always; let ar : BitVec 5 := 1; let d4 : BitVec 4 := 0; let vc : Bool := false; let vr : BitVec 11 := 3;
    let a := s.ra ar.toNat; let va := (BitVec.ofInt 32 (a + d4.toInt * 64)).toNat;
    let legal (a n : Nat) : Prop := a + n ≤ s.shareSize ∧ a % n = 0; s.Performs (.ldgVector c vc vr ar d4) c ∧ legal va 64 ∧
    s.b.region = none) ∧ (let s : State := { demo with b := { demo.b with region := some demoRegion } };
    let c : Ctl := always; let rs : BitVec 6 := 1; let ar : BitVec 5 := 1; let fmt : BitVec 3 := 6; let d : BitVec 7 := 0;
    let a := s.ra ar.toNat;
    let size : Nat := match fmt.toNat with | 0 => 1 | 1 => 1 | 2 => 2 | 3 => 2 | 4 => 4 | 5 => 4 | _ => 8;
    let la := (BitVec.ofInt 32 (a + d.toInt * size)).toNat; let legal (a n : Nat) : Prop := a + n ≤ s.shareSize ∧ a % n = 0;
    let r := demoRegion; s.Performs (.ldgScalar c rs ar fmt d) c ∧ legal la size ∧ s.b.region = some r) ∧
    (let s : State := { demo with b := { demo.b with region := some demoRegion } }; let c : Ctl := always;
    let ar : BitVec 5 := 1; let d4 : BitVec 4 := 0; let vc : Bool := false; let vr : BitVec 11 := 3; let a := s.ra ar.toNat;
    let va := (BitVec.ofInt 32 (a + d4.toInt * 64)).toNat; let legal (a n : Nat) : Prop := a + n ≤ s.shareSize ∧ a % n = 0;
    let r := demoRegion; s.Performs (.ldgVector c vc vr ar d4) c ∧ legal va 64 ∧ s.b.region = some r) := by
  dsimp only
  and_intros <;> first | exact performs_of (by decide) | decide | decide +kernel

theorem test_w_RollbackRestores :
  (let s : State := { demo with b := { demo.b with region := some { demoRegion with async := [⟨9, 200, 7, 3, 63⟩] } } };
    let bank : Nat := 0; let r : Region := { demoRegion with async := [⟨9, 200, 7, 3, 63⟩] };
    let a : Abort := ⟨9, 200, 7, 3, 63⟩; s.b.key = bank ∧ s.b.region = some r ∧ a.cause < 32 ∧ a.code < 256 ∧ a.slt < 8 ∧
    a.col < 4 ∧ a.gix < 64 ∧ s.b.open_ = false ∧ s.b.kindA = [] ∧ r.async = [a] ∧ s.b.forms = []) ∧
    (let s : State := { demo with b := { demo.b with region := some { demoRegion with async := [⟨9, 200, 7, 3, 63⟩] }, forms := [(demoForm .cmt [] 1)], open_ := true } };
    let bank : Nat := 0; let r : Region := { demoRegion with async := [⟨9, 200, 7, 3, 63⟩] };
    let a : Abort := ⟨9, 200, 7, 3, 63⟩; let f : Form := (demoForm .cmt [] 1); s.b.key = bank ∧ s.b.region = some r ∧
    a.cause < 32 ∧ a.code < 256 ∧ a.slt < 8 ∧ a.col < 4 ∧ a.gix < 64 ∧ s.b.open_ = true ∧ s.b.forms = [f] ∧ f.kind = .cmt ∧
    1 ≤ f.phase) ∧
    (let s : State := { { demo with b := { demo.b with region := some demoRegion, forms := [(demoForm (.cwait 3 true) [])] } } with cores := [(0, { Core.reset with cyc := 5000 })] };
    let bank : Nat := 0; let r : Region := demoRegion; let a : Abort := ⟨9, 200, 7, 3, 63⟩;
    let f : Form := (demoForm (.cwait 3 true) []); let co := 3; let sb := true; s.b.key = bank ∧ s.b.region = some r ∧
    a.cause < 32 ∧ a.code < 256 ∧ a.slt < 8 ∧ a.col < 4 ∧ a.gix < 64 ∧ s.b.forms = [f] ∧ f.kind = .cwait co sb ∧
    f.cyc + 4096 ≤ s.now ∧ f.col < 4) ∧
    (let s : State := { demo with b := { demo.b with region := some { demoRegion with held := [⟨0, 3, false, 0x40, [1, 2], 5, 9, 4, false, 0⟩] }, forms := [(demoForm .cmt [] 1)] } };
    let bank : Nat := 0; let r : Region := { demoRegion with held := [⟨0, 3, false, 0x40, [1, 2], 5, 9, 4, false, 0⟩] };
    let a : Abort := ⟨9, 200, 7, 3, 63⟩; let f : Form := (demoForm .cmt [] 1);
    let h := ⟨0, 3, false, 0x40, [1, 2], 5, 9, 4, false, 0⟩; let hs := []; s.b.key = bank ∧ s.b.region = some r ∧
    a.cause < 32 ∧ a.code < 256 ∧ a.slt < 8 ∧ a.col < 4 ∧ a.gix < 64 ∧ s.b.forms = [f] ∧ f.kind = .cmt ∧ 1 ≤ f.phase ∧
    r.held = h :: hs) ∧ (let s : State := { demo with b := { demo.b with region := some demoRegion } }; let bank : Nat := 0;
    let r : Region := demoRegion; let a : Abort := ⟨9, 200, 7, 3, 63⟩; s.b.key = bank ∧ s.b.region = some r ∧ a.cause < 32 ∧
    a.code < 256 ∧ a.slt < 8 ∧ a.col < 4 ∧ a.gix < 64 ∧ s.b.forms = []) := by
  dsimp only
  and_intros <;> first | exact performs_of (by decide) | decide | decide +kernel

theorem test_w_CommitMoves :
  (let s : State := { demo with b := { demo.b with region := some demoRegion, forms := [(demoForm .cmt [])], pend := [⟨.s 3, 7, 7, 1, 1, 5, 11, false, false, true⟩] } };
    let bank : Nat := 0; let r : Region := demoRegion; let f : Form := (demoForm .cmt []);
    let landed := (∀ p ∈ s.b.pend, p.reg = false) ∧ (∀ x ∈ s.b.fars, x.reg = false) ∧ (∀ k ∈ s.b.contribs, k.reg = true →
    k.ql = none) ∧ (∀ o ∈ s.core.xops, o.bank = bank → o.reg = false) ∧ s.b.stores = []; s.b.key = bank ∧
    s.b.region = some r ∧ s.b.forms = [f] ∧ f.kind = .cmt ∧ f.phase ≤ 1 ∧ f.phase = 0 ∧ ¬landed) ∧
    (let s : State := { demo with b := { demo.b with region := some { demoRegion with held := [⟨0, 3, false, 0x40, [1, 2], 5, 9, 4, false, 0⟩, ⟨0, 3, false, 0x40, [3, 4, 5, 6], 6, 9, 4, false, 0⟩] }, forms := [(demoForm .cmt [])] } };
    let bank : Nat := 0;
    let r : Region := { demoRegion with held := [⟨0, 3, false, 0x40, [1, 2], 5, 9, 4, false, 0⟩, ⟨0, 3, false, 0x40, [3, 4, 5, 6], 6, 9, 4, false, 0⟩] };
    let f : Form := (demoForm .cmt []); let landed := (∀ p ∈ s.b.pend, p.reg = false) ∧ (∀ x ∈ s.b.fars, x.reg = false) ∧
    (∀ k ∈ s.b.contribs, k.reg = true → k.ql = none) ∧ (∀ o ∈ s.core.xops, o.bank = bank → o.reg = false) ∧ s.b.stores = [];
    let locked (h : HStore) : Bool := s.core.locked s.b.slotB h.addr h.bytes.length true; s.b.key = bank ∧
    s.b.region = some r ∧ s.b.forms = [f] ∧ f.kind = .cmt ∧ f.phase ≤ 1 ∧ landed ∧ r.held ≠ [] ∧
    r.held.Pairwise (fun g h => 4 * g.iss + g.col < 4 * h.iss + h.col) ∧ (∀ h ∈ r.held, h.spill = false ∧
    locked h = false)) ∧
    (let s : State := { { demo with b := { demo.b with region := some { demoRegion with held := [⟨0, 3, false, 0x40, [1, 2], 5, 9, 4, false, 0⟩] }, forms := [(demoForm .cmt [] 1)] } } with cores := [(0, { Core.reset with cyc := 10, xops := [⟨0, 0, false, 0, .mma always 0 false 1 2 2 2 1 true true, 0, 0, [], none, none, 4, 9, false, false, []⟩] })] };
    let bank : Nat := 0; let r : Region := { demoRegion with held := [⟨0, 3, false, 0x40, [1, 2], 5, 9, 4, false, 0⟩] };
    let f : Form := (demoForm .cmt [] 1); let landed := (∀ p ∈ s.b.pend, p.reg = false) ∧ (∀ x ∈ s.b.fars, x.reg = false) ∧
    (∀ k ∈ s.b.contribs, k.reg = true → k.ql = none) ∧ (∀ o ∈ s.core.xops, o.bank = bank → o.reg = false) ∧ s.b.stores = [];
    let locked (h : HStore) : Bool := s.core.locked s.b.slotB h.addr h.bytes.length true;
    let h := ⟨0, 3, false, 0x40, [1, 2], 5, 9, 4, false, 0⟩; s.b.key = bank ∧ s.b.region = some r ∧ s.b.forms = [f] ∧
    f.kind = .cmt ∧ f.phase ≤ 1 ∧ landed ∧ r.held = [h] ∧ h.spill = false ∧ locked h = true ∧ f.phase = 1) ∧
    (let s : State := { demo with b := { demo.b with region := some { demoRegion with pkts := [(2, 3, (demoPkt .cpyIn 0 0 0x40 false false))] }, forms := [(demoForm .cmt [])] } };
    let bank : Nat := 0; let r : Region := { demoRegion with pkts := [(2, 3, (demoPkt .cpyIn 0 0 0x40 false false))] };
    let f : Form := (demoForm .cmt []); let landed := (∀ p ∈ s.b.pend, p.reg = false) ∧ (∀ x ∈ s.b.fars, x.reg = false) ∧
    (∀ k ∈ s.b.contribs, k.reg = true → k.ql = none) ∧ (∀ o ∈ s.core.xops, o.bank = bank → o.reg = false) ∧ s.b.stores = [];
    let col := 2; let q := 3; let p := (demoPkt .cpyIn 0 0 0x40 false false); let ps := []; let k := 4 * col + q;
    s.b.key = bank ∧ s.b.region = some r ∧ s.b.forms = [f] ∧ f.kind = .cmt ∧ f.phase ≤ 1 ∧ landed ∧ r.held = [] ∧
    r.pkts = (col, q, p) :: ps ∧ (s.b.queues.get .empty k).pkts.length < 16) ∧
    (let s : State := { demo with b := { demo.b with region := some demoRegion, forms := [(demoForm .cmt [])] } };
    let bank : Nat := 0; let r : Region := demoRegion; let f : Form := (demoForm .cmt []);
    let landed := (∀ p ∈ s.b.pend, p.reg = false) ∧ (∀ x ∈ s.b.fars, x.reg = false) ∧ (∀ k ∈ s.b.contribs, k.reg = true →
    k.ql = none) ∧ (∀ o ∈ s.core.xops, o.bank = bank → o.reg = false) ∧ s.b.stores = []; s.b.key = bank ∧
    s.b.region = some r ∧ s.b.forms = [f] ∧ f.kind = .cmt ∧ f.phase ≤ 1 ∧ landed ∧ r.held = [] ∧ r.pkts = [] ∧ f.ops = []) := by
  dsimp only
  and_intros <;> first | exact performs_of (by decide) | decide | decide +kernel

theorem test_w_TransactionMoves :
  (let s : State := (demoQ { demo with b := { demo.b with region := some { demoRegion with txn := true }, forms := [(demoForm .txc [0])] } } [(demoPkt .cpyIn 0 0 0x40 false false)]);
    let bank : Nat := 0; let r : Region := { demoRegion with txn := true }; let f : Form := (demoForm .txc [0]);
    s.b.key = bank ∧ s.b.region = some r ∧ r.txn = true ∧ s.b.forms = [f] ∧ f.kind = .txc ∧
    (∃ e ∈ s.b.queues, e.2.pkts ≠ []) ∧ f.phase < 3) ∧ (let s : State := demoTx [(512, ⟨9, []⟩)]; let bank : Nat := 0;
    let r : Region := (demoTx [(512, ⟨9, []⟩)]).b.region.getD demoRegion; let f : Form := (demoForm .txc [0]);
    let w := s.draw; let l := 512; let ts := (s.vers.get ⟨0, []⟩ l).ts; s.b.key = bank ∧ s.b.region = some r ∧ r.txn = true ∧
    s.b.forms = [f] ∧ f.kind = .txc ∧ s.b.queues = [] ∧ s.b.stores = [] ∧ s.regionLanded = true ∧ f.phase = 0 ∧
    w.writeSet r.pkts = .ok [⟨l, true, false⟩] ∧ s.locks = [] ∧ rfld s.b.vsnp 55 0 < ts) ∧ (let s : State := demoTx [];
    let bank : Nat := 0; let r : Region := (demoTx []).b.region.getD demoRegion; let f : Form := (demoForm .txc [0]);
    let w := s.draw; let l := 512; let ts := (s.vers.get ⟨0, []⟩ l).ts; s.b.key = bank ∧ s.b.region = some r ∧ r.txn = true ∧
    s.b.forms = [f] ∧ f.kind = .txc ∧ s.b.queues = [] ∧ s.b.stores = [] ∧ s.regionLanded = true ∧ f.phase = 0 ∧
    w.writeSet r.pkts = .ok [⟨l, true, false⟩] ∧ s.locks = [] ∧ ts ≤ rfld s.b.vsnp 55 0 ∧ s.poolRoom 1 = true ∧
    s.poolRoom 0 = true) ∧ (let s : State := { demoTx [] with b := { (demoTx []).b with forms := [demoForm .txc [8] 4] } };
    let bank : Nat := 0; let r : Region := (demoTx []).b.region.getD demoRegion; let f : Form := demoForm .txc [8] 4;
    let w := s.draw; let col := 0; let queue := 0; let n := 8; let p := demoPkt (.gst 8) 0x60 0x40 0x40 false false;
    let l := { demoLeaf with ver := true, ent := 0xFFC0000000010020 }; let tc := 8; let kept := []; let k := 4 * col + queue;
    let va := p.p0.toNat; s.b.key = bank ∧ s.b.region = some r ∧ r.txn = true ∧ s.b.forms = [f] ∧ f.kind = .txc ∧
    f.phase = 4 ∧ r.pkts = [(col, queue, p)] ∧ f.ops = tc :: kept ∧ p.kind = .gst n ∧ n ∈ [1, 2, 4, 8] ∧ va % n = 0 ∧
    p.done = false ∧ p.rel = false ∧ (s.b.queues.get .empty k).susp = false ∧
    w.translate (.k (k % 4)) true s.b.ctx va = .ok l ∧ s.portWaits k l va = false) ∧
    (let s : State := { { demo with b := { demo.b with region := some { demoRegion with txn := true }, forms := [(demoForm .txc [8] 4)], vsnp := 0x8000000000000007 } } with locks := [(5, (0, some 8))] };
    let bank : Nat := 0; let r : Region := { demoRegion with txn := true }; let f : Form := (demoForm .txc [8] 4);
    s.b.key = bank ∧ s.b.region = some r ∧ r.txn = true ∧ s.b.forms = [f] ∧ f.kind = .txc ∧ f.phase = 4 ∧ r.pkts = []) ∧
    (let s : State := { { demo with b := { demo.b with region := some { demoRegion with txn := true }, forms := [(demoForm .txc [8] 5)], vsnp := 0x8000000000000007 } } with vctr := 8 };
    let bank : Nat := 0; let r : Region := { demoRegion with txn := true }; let f : Form := (demoForm .txc [8] 5);
    let tc := 8; s.b.key = bank ∧ s.b.region = some r ∧ r.txn = true ∧ s.b.forms = [f] ∧ f.kind = .txc ∧ f.phase = 5 ∧
    r.pkts = [] ∧ f.ops = [tc]) := by
  dsimp only
  refine ⟨⟨?_, ?_, ?_, ?_, ?_, ?_, ?_⟩, ⟨?_, ?_, ?_, ?_, ?_, ?_, ?_, ?_, ?_, ok_of (by decide +kernel), ?_, ?_⟩, ⟨?_, ?_, ?_, ?_, ?_, ?_, ?_, ?_, ?_, ok_of (by decide +kernel), ?_, ?_, ?_, ?_⟩, ⟨?_, ?_, ?_, ?_, ?_, ?_, ?_, ?_, ?_, ?_, ?_, ?_, ?_, ?_, ok_of (by decide +kernel), (by decide +kernel)⟩, ⟨?_, ?_, ?_, ?_, ?_, ?_, ?_⟩, ⟨?_, ?_, ?_, ?_, ?_, ?_, ?_, ?_⟩⟩ <;> first | exact performs_of (by decide) | decide | decide +kernel

theorem test_w_VersionsStayReadable :
  let s : State := { demo with vctr := 9, vpool := 1, snaps := [(0, ⟨0, 0, 7, false⟩)], vers := [(512, ⟨5, []⟩)] };
    let pa : Nat := 0x10001; let line : Nat := 512; let x := ⟨0, 0, 7, false⟩; let t := okOf demo (s.versionFor line);
    let pw := 0x1007F; let bs := [7]; let v := s.vers.get ⟨0, []⟩ line; x ∈ s.liveSnaps ∧ s.versionFor line = .ok t ∧
    s.canon pa / 128 = line ∧ s.canon pw / 128 = line ∧ pw % 128 + List.length bs ≤ 128 ∧ x.ts ≤ s.vctr.toNat ∧
    v.ts ≤ s.vctr.toNat ∧ s.vctr.toNat + 1 < 2 ^ 56 ∧ (v.ts ≤ x.ts ∨ ∃ o ∈ v.old, o.1 ≤ x.ts) := by
  dsimp only
  refine ⟨?_, ok_is (by decide +kernel), ?_, ?_, ?_, ?_, ?_, ?_, ?_⟩ <;> first | exact performs_of (by decide) | decide | decide +kernel

theorem test_w_TranslationMoves :
  (let s : State := demoT; let n : Nat := 1; (s.ctxs.find n).isSome = true ∧ s.bound.all (fun b => b.forms.isEmpty) = true) ∧
    (let s : State := demoT; let n : Nat := 1; (s.ctxs.find n).isSome = true ∧
    s.bound.all (fun b => b.pend.isEmpty) = true) ∧
    (let s : State := { demoT with shoots := [⟨1, 1, 0x10000, 2, false, none, none⟩], tlb := [⟨⟨1, 1, 1, 1, true, true, 0x3F, false, false, 0, 0⟩, 0, 0, 0⟩, ⟨⟨0, 1, 1, 1, true, true, 0x3F, false, false, 0, 0⟩, 0, 0, 0⟩], nests := [⟨0, 1, 1, ⟨1, true, true, false, 0x3F, false, false, 0, 0⟩, 0⟩] };
    let n : Nat := 1; let q : Shoot := ⟨1, 1, 0x10000, 2, false, none, none⟩; let qs : List Shoot := [];
    (s.ctxs.find n).isSome = true ∧ s.sdr.getLsbD 63 = false ∧ s.shoots = q :: qs ∧ q.slot = none ∧ q.bank = none ∧
    s.shotAt q.stage q.ctx q.base q.npg = false) ∧ (let s : State := { demoT with sdr := 0x8400000000020000 };
    let n : Nat := 1; let ring := rfld s.sdr 51 5 * 32; let slot := ring + 32 * (s.sdh.toNat % 2 ^ rfld s.sdr 59 56);
    let e := s.gNat slot 8; (s.ctxs.find n).isSome = true ∧ s.sdr.getLsbD 63 = true ∧ s.shoots = [] ∧ e < 2 ^ 63) ∧
    (let s : State := { demoT with sdr := 0x8400000000020000, mem := demoM.mem ++ demoCells 0x20000 [2 ^ 63 + 2 ^ 61 + 2 ^ 32, 0x10000, 2, 0], tlb := [⟨⟨1, 1, 1, 1, true, true, 0x3F, false, false, 0, 0⟩, 0, 0, 0⟩] };
    let n : Nat := 1; let ring := rfld s.sdr 51 5 * 32; let slot := ring + 32 * (s.sdh.toNat % 2 ^ rfld s.sdr 59 56);
    let e := s.gNat slot 8; let base := s.gNat (slot + 8) 8; let npg := s.gNat (slot + 16) 8; let stage := fld e 62 61;
    let c := fld e 43 32; (s.ctxs.find n).isSome = true ∧ s.sdr.getLsbD 63 = true ∧ s.shoots = [] ∧ 2 ^ 63 ≤ e ∧
    fld e 60 44 = 0 ∧ (stage = 1 ∨ stage = 2) ∧ base < 2 ^ 56 ∧ base % 65536 = 0 ∧ npg < 2 ^ 32 ∧ s.gNat (slot + 24) 8 = 0 ∧
    s.shotAt stage c base npg = false ∧ (s.ctxs.find c).isSome = true) := by
  dsimp only
  and_intros <;> first | exact performs_of (by decide) | decide | decide +kernel

theorem test_w_ContextTree :
  (let s : State := { demoX (demoForm (.ctx (.ctxnew always 3 1)) [0x100000]) .run with b := { demo.b with forms := [(demoForm (.ctx (.ctxnew always 3 1)) [0x100000])], ctx := 2 }, ctxs := [(0, Ctx.root), (1, Ctx.root), (2, { Ctx.new 1 8 0 with st := .run })] };
    let f : Form := (demoForm (.ctx (.ctxnew always 3 1)) [0x100000]); let c : Ctl := always; let rd : BitVec 6 := 3;
    let ra : BitVec 6 := 1; let n : Nat := 3; let x : DWord := 0x100000; s.b.bound = true ∧ s.b.forms = [f] ∧
    (∀ e ∈ s.banks, e.2.bound = true → e.2.forms = []) ∧ s.settledBefore f.iss = true ∧ f.kind = .ctx (.ctxnew c rd ra) ∧
    f.ops = [x] ∧ f.phase = 0 ∧ n < 4096 ∧ s.ctxs.find n = none ∧ (∀ k, k < n → (s.ctxs.find k).isSome = true) ∧
    8 ≤ (s.ctx s.b.ctx).depth) ∧ (let s : State := demoX (demoForm (.ctx (.ctxnew always 3 1)) [0x100000]) .run;
    let f : Form := (demoForm (.ctx (.ctxnew always 3 1)) [0x100000]); let c : Ctl := always; let rd : BitVec 6 := 3;
    let ra : BitVec 6 := 1; let n : Nat := 3; let x : DWord := 0x100000; s.b.bound = true ∧ s.b.forms = [f] ∧
    (∀ e ∈ s.banks, e.2.bound = true → e.2.forms = []) ∧ s.settledBefore f.iss = true ∧ f.kind = .ctx (.ctxnew c rd ra) ∧
    f.ops = [x] ∧ f.phase = 0 ∧ n < 4096 ∧ s.ctxs.find n = none ∧ (∀ k, k < n → (s.ctxs.find k).isSome = true) ∧
    (s.ctx s.b.ctx).depth < 8) ∧ (let s : State := demoX (demoForm (.ctx (.ctxdlg always 3 1 2)) [1, 6]) .run;
    let f : Form := (demoForm (.ctx (.ctxdlg always 3 1 2)) [1, 6]); let c : Ctl := always; let rd : BitVec 6 := 3;
    let ra : BitVec 6 := 1; let rb : BitVec 6 := 2; let n : Nat := 1; let v : DWord := 1; let w : DWord := 6;
    let live := (s.ctxs.find n).isSome = true; s.b.bound = true ∧ s.b.forms = [f] ∧ (∀ e ∈ s.banks, e.2.bound = true →
    e.2.forms = []) ∧ s.settledBefore f.iss = true ∧ f.kind = .ctx (.ctxdlg c rd ra rb) ∧ f.ops = [v, w] ∧ f.phase = 0 ∧
    v.toNat = n ∧ live) ∧ (let s : State := demoX (demoForm (.ctx (.ctxrunRun always 3 1 2)) [1, 0]) .run;
    let f : Form := (demoForm (.ctx (.ctxrunRun always 3 1 2)) [1, 0]); let c : Ctl := always; let rd : BitVec 6 := 3;
    let ra : BitVec 6 := 1; let rb : BitVec 6 := 2; let n : Nat := 1; let v : DWord := 1; let w : DWord := 0;
    let st := (s.ctx n).st; let live := (s.ctxs.find n).isSome = true; s.b.bound = true ∧ s.b.forms = [f] ∧
    (∀ e ∈ s.banks, e.2.bound = true → e.2.forms = []) ∧ s.settledBefore f.iss = true ∧
    f.kind = .ctx (.ctxrunRun c rd ra rb) ∧ f.ops = [v, w] ∧ f.phase = 0 ∧ v.toNat = n ∧ rfld w 3 0 = 0 ∧ live ∧ st ≠ .new ∧
    st ≠ .stopped) ∧ (let s : State := demoX (demoForm (.ctx (.ctxrunRun always 3 1 2)) [1, 0]) .new;
    let f : Form := (demoForm (.ctx (.ctxrunRun always 3 1 2)) [1, 0]); let c : Ctl := always; let rd : BitVec 6 := 3;
    let ra : BitVec 6 := 1; let rb : BitVec 6 := 2; let n : Nat := 1; let v : DWord := 1; let w : DWord := 0;
    let st := (s.ctx n).st; let live := (s.ctxs.find n).isSome = true; s.b.bound = true ∧ s.b.forms = [f] ∧
    (∀ e ∈ s.banks, e.2.bound = true → e.2.forms = []) ∧ s.settledBefore f.iss = true ∧
    f.kind = .ctx (.ctxrunRun c rd ra rb) ∧ f.ops = [v, w] ∧ f.phase = 0 ∧ v.toNat = n ∧ rfld w 3 0 = 0 ∧ live ∧
    (st = .new ∨ st = .stopped)) ∧ (let s : State := demoX (demoForm (.ctx (.ctxrunRun always 3 1 2)) [1, 0]) .stopped;
    let f : Form := (demoForm (.ctx (.ctxrunRun always 3 1 2)) [1, 0]); let c : Ctl := always; let rd : BitVec 6 := 3;
    let ra : BitVec 6 := 1; let rb : BitVec 6 := 2; let n : Nat := 1; let v : DWord := 1; let w : DWord := 0;
    let st := (s.ctx n).st; let live := (s.ctxs.find n).isSome = true; s.b.bound = true ∧ s.b.forms = [f] ∧
    (∀ e ∈ s.banks, e.2.bound = true → e.2.forms = []) ∧ s.settledBefore f.iss = true ∧
    f.kind = .ctx (.ctxrunRun c rd ra rb) ∧ f.ops = [v, w] ∧ f.phase = 0 ∧ v.toNat = n ∧ rfld w 3 0 = 0 ∧ live ∧
    (st = .new ∨ st = .stopped)) ∧ (let s : State := demoX (demoForm (.ctx (.ctxstop always 2 3 1)) [1, 0, 0, 0, 0]) .new;
    let f : Form := (demoForm (.ctx (.ctxstop always 2 3 1)) [1, 0, 0, 0, 0]); let c : Ctl := always; let sp : BitVec 4 := 2;
    let rd : BitVec 6 := 3; let ra : BitVec 6 := 1; let n : Nat := 1; let v : DWord := 1; let st := (s.ctx n).st;
    let live := (s.ctxs.find n).isSome = true; let ps := [0, 0, 0, 0]; s.b.bound = true ∧ s.b.forms = [f] ∧
    (∀ e ∈ s.banks, e.2.bound = true → e.2.forms = []) ∧ s.settledBefore f.iss = true ∧ f.kind = .ctx (.ctxstop c sp rd ra) ∧
    f.ops = v :: ps ∧ ps.length = 4 ∧ v.toNat = n ∧ live ∧ f.phase = 0 ∧ st ≠ .run) ∧
    (let s : State := demoX (demoForm (.ctx (.ctxstop always 2 3 1)) [1, 0, 0, 0, 0]) .run;
    let f : Form := (demoForm (.ctx (.ctxstop always 2 3 1)) [1, 0, 0, 0, 0]); let c : Ctl := always; let sp : BitVec 4 := 2;
    let rd : BitVec 6 := 3; let ra : BitVec 6 := 1; let n : Nat := 1; let v : DWord := 1; let st := (s.ctx n).st;
    let live := (s.ctxs.find n).isSome = true; let ps := [0, 0, 0, 0]; s.b.bound = true ∧ s.b.forms = [f] ∧
    (∀ e ∈ s.banks, e.2.bound = true → e.2.forms = []) ∧ s.settledBefore f.iss = true ∧ f.kind = .ctx (.ctxstop c sp rd ra) ∧
    f.ops = v :: ps ∧ ps.length = 4 ∧ v.toNat = n ∧ live ∧ f.phase = 0 ∧ st = .run) ∧
    (let s : State := demoX (demoForm (.ctx (.ctxstop always 2 3 1)) [1, 0, 0, 0, 0] 2) .stopping;
    let f : Form := (demoForm (.ctx (.ctxstop always 2 3 1)) [1, 0, 0, 0, 0] 2); let c : Ctl := always;
    let sp : BitVec 4 := 2; let rd : BitVec 6 := 3; let ra : BitVec 6 := 1; let n : Nat := 1; let v : DWord := 1;
    let live := (s.ctxs.find n).isSome = true; let ps := [0, 0, 0, 0]; s.b.bound = true ∧ s.b.forms = [f] ∧
    (∀ e ∈ s.banks, e.2.bound = true → e.2.forms = []) ∧ s.settledBefore f.iss = true ∧ f.kind = .ctx (.ctxstop c sp rd ra) ∧
    f.ops = v :: ps ∧ ps.length = 4 ∧ v.toNat = n ∧ live ∧ f.phase = 2 ∧ ps.head? = some 0 ∧ s.allSaved n = true) ∧
    (let s : State := { demoX (demoForm (.ctx (.ctxstop always 2 3 1)) [1, 0, 0, 0, 0] 2) .stopping with banks := [(1, { Bank.fresh 1 with bound := true, uid := 2049, ctx := 1 })] };
    let f : Form := (demoForm (.ctx (.ctxstop always 2 3 1)) [1, 0, 0, 0, 0] 2); let c : Ctl := always;
    let sp : BitVec 4 := 2; let rd : BitVec 6 := 3; let ra : BitVec 6 := 1; let n : Nat := 1; let v : DWord := 1;
    let live := (s.ctxs.find n).isSome = true; let ps := [0, 0, 0, 0]; s.b.bound = true ∧ s.b.forms = [f] ∧
    (∀ e ∈ s.banks, e.2.bound = true → e.2.forms = []) ∧ s.settledBefore f.iss = true ∧ f.kind = .ctx (.ctxstop c sp rd ra) ∧
    f.ops = v :: ps ∧ ps.length = 4 ∧ v.toNat = n ∧ live ∧ f.phase = 2 ∧ s.allSaved n = false) ∧
    (let s : State := demoX (demoForm (.ctx (.ctxdel always 3 1)) [1]) .run;
    let f : Form := (demoForm (.ctx (.ctxdel always 3 1)) [1]); let c : Ctl := always; let rd : BitVec 6 := 3;
    let ra : BitVec 6 := 1; let n : Nat := 1; let v : DWord := 1; let mine (k : Nat) : Bool := s.within n 9 k;
    let st := (s.ctx n).st; let live := (s.ctxs.find n).isSome = true; s.b.bound = true ∧ s.b.forms = [f] ∧
    (∀ e ∈ s.banks, e.2.bound = true → e.2.forms = []) ∧ s.settledBefore f.iss = true ∧ f.kind = .ctx (.ctxdel c rd ra) ∧
    f.ops = [v] ∧ f.phase = 0 ∧ v.toNat = n ∧ live ∧ s.grants = [] ∧ mine s.b.ctx = false ∧ (st = .run ∨ st = .stopping)) ∧
    (let s : State := demoX (demoForm (.ctx (.ctxdel always 3 1)) [1]) .new;
    let f : Form := (demoForm (.ctx (.ctxdel always 3 1)) [1]); let c : Ctl := always; let rd : BitVec 6 := 3;
    let ra : BitVec 6 := 1; let n : Nat := 1; let v : DWord := 1; let mine (k : Nat) : Bool := s.within n 9 k;
    let st := (s.ctx n).st; let live := (s.ctxs.find n).isSome = true; s.b.bound = true ∧ s.b.forms = [f] ∧
    (∀ e ∈ s.banks, e.2.bound = true → e.2.forms = []) ∧ s.settledBefore f.iss = true ∧ f.kind = .ctx (.ctxdel c rd ra) ∧
    f.ops = [v] ∧ f.phase = 0 ∧ v.toNat = n ∧ live ∧ s.grants = [] ∧ mine s.b.ctx = false ∧ st ≠ .run ∧ st ≠ .stopping ∧
    (∀ b ∈ s.bound, mine b.ctx = false)) ∧ (let s : State := demoX (demoForm (.ctx (.shoot always 3 1 2)) [0x10000, 1]) .run;
    let f : Form := (demoForm (.ctx (.shoot always 3 1 2)) [0x10000, 1]); let c : Ctl := always; let rd : BitVec 6 := 3;
    let ra : BitVec 6 := 1; let rb : BitVec 6 := 2; let v : DWord := 0x10000; let w : DWord := 1; s.b.bound = true ∧
    s.b.forms = [f] ∧ (∀ e ∈ s.banks, e.2.bound = true → e.2.forms = []) ∧ s.settledBefore f.iss = true ∧
    f.kind = .ctx (.shoot c rd ra rb) ∧ f.ops = [v, w] ∧ f.phase = 0 ∧ (s.ctxs.find s.b.ctx).isSome = true) ∧
    (let s : State := demoX (demoForm (.ctx (.ctxdel always 3 1)) [0] 1) .run;
    let f : Form := (demoForm (.ctx (.ctxdel always 3 1)) [0] 1); let v : DWord := 0; let i := .ctxdel always 3 1;
    s.b.bound = true ∧ s.b.forms = [f] ∧ (∀ e ∈ s.banks, e.2.bound = true → e.2.forms = []) ∧ s.settledBefore f.iss = true ∧
    f.kind = .ctx i ∧ f.phase = 1 ∧ f.ops = [v] ∧ (∀ q ∈ s.shoots, q.bank ≠ some s.b.uid)) ∧
    (let s : State := { demoX (demoForm (.ctx (.ctxdel always 3 1)) [0] 1) .run with shoots := [⟨2, 1, 0, 1, false, none, some 2048⟩] };
    let f : Form := (demoForm (.ctx (.ctxdel always 3 1)) [0] 1); let v : DWord := 0; let i := .ctxdel always 3 1;
    s.b.bound = true ∧ s.b.forms = [f] ∧ (∀ e ∈ s.banks, e.2.bound = true → e.2.forms = []) ∧ s.settledBefore f.iss = true ∧
    f.kind = .ctx i ∧ f.phase = 1 ∧ f.ops = [v] ∧ (∃ q ∈ s.shoots, q.bank = some s.b.uid)) := by
  dsimp only
  and_intros <;> first | exact performs_of (by decide) | decide | decide +kernel

theorem test_w_RepliesAndSaves :
  (let s : State := demoX (demoForm (.ctx (.ctxrunRetry always 3 1 2)) [0, 0x7000000000001]) .run;
    let f : Form := (demoForm (.ctx (.ctxrunRetry always 3 1 2)) [0, 0x7000000000001]); let c : Ctl := always;
    let rd : BitVec 6 := 3; let ra : BitVec 6 := 1; let rb : BitVec 6 := 2; let v : DWord := 0;
    let w : DWord := 0x7000000000001; let op := rfld w 3 0;
    let reply := f.kind = .ctx (.ctxrunRun c rd ra rb) ∨ f.kind = .ctx (.ctxrunRetry c rd ra rb) ∨ f.kind = .ctx (.ctxrunRefuse c rd ra rb) ∨ f.kind = .ctx (.ctxrunSkip c rd ra rb);
    s.b.bound = true ∧ s.b.forms = [f] ∧ (∀ e ∈ s.banks, e.2.bound = true → e.2.forms = []) ∧ s.settledBefore f.iss = true ∧
    f.phase ≠ 1 ∧ reply ∧ f.ops = [v, w] ∧ 1 ≤ op ∧ op ≤ 3 ∧ s.recs = []) ∧
    (let s : State := { demoX (demoForm (.ctx (.ctxrunRetry always 3 1 2)) [0, 0x7000000000001]) .run with banks := [(1, { Bank.fresh 1 with bound := true, uid := 2049, ctx := 1, pc := 0x40, len := 8, fall := 0x48, halted := some (.reply ⟨63, 0, 0, 0, 0, 0, false, .before, false, none⟩) })], recs := [⟨7, 0, ⟨63, 0, 0, 0, 0, 0, false, .before, false, none⟩, 1, 1, 2049, 0x40, 0, 0, true, true⟩] };
    let f : Form := (demoForm (.ctx (.ctxrunRetry always 3 1 2)) [0, 0x7000000000001]); let c : Ctl := always;
    let rd : BitVec 6 := 3; let ra : BitVec 6 := 1; let rb : BitVec 6 := 2; let v : DWord := 0;
    let w : DWord := 0x7000000000001;
    let r : Rec := ⟨7, 0, ⟨63, 0, 0, 0, 0, 0, false, .before, false, none⟩, 1, 1, 2049, 0x40, 0, 0, true, true⟩;
    let k : Nat := 1;
    let x : Bank := { Bank.fresh 1 with bound := true, uid := 2049, ctx := 1, pc := 0x40, len := 8, fall := 0x48, halted := some (.reply ⟨63, 0, 0, 0, 0, 0, false, .before, false, none⟩) };
    let op := rfld w 3 0;
    let reply := f.kind = .ctx (.ctxrunRun c rd ra rb) ∨ f.kind = .ctx (.ctxrunRetry c rd ra rb) ∨ f.kind = .ctx (.ctxrunRefuse c rd ra rb) ∨ f.kind = .ctx (.ctxrunSkip c rd ra rb);
    s.b.bound = true ∧ s.b.forms = [f] ∧ (∀ e ∈ s.banks, e.2.bound = true → e.2.forms = []) ∧ s.settledBefore f.iss = true ∧
    f.phase ≠ 1 ∧ reply ∧ f.ops = [v, w] ∧ f.phase = 0 ∧ s.recs = [r] ∧ r.written = true ∧ r.holder = s.b.ctx ∧
    r.tid = rfld w 63 48 ∧ k ≠ s.b.key ∧ s.banks = [(k, x)] ∧ x.key = k ∧ x.bound = true ∧ x.uid = r.uid ∧ x.ctx = r.ctx ∧
    r.uid ≠ 0 ∧ s.b.uid ≠ r.uid ∧ x.halted = some (.reply r.cause) ∧ x.open_ = false ∧ r.waits = true ∧ r.cause.num ≠ 2 ∧
    r.cause.num ≠ 6 ∧ r.cause.num ≠ 7 ∧ r.cause.kind = .before ∧ x.len ≠ 0 ∧ x.fall ≠ 0 ∧ 1 ≤ op ∧ op ≤ 3 ∧
    s.within r.ctx 9 s.b.ctx = false) ∧
    (let s : State := demoX (demoForm (.ctx (.ctxsaveSave always 2 3 1)) [1, 0x400, 0x100, 0, 0]) .run;
    let f : Form := (demoForm (.ctx (.ctxsaveSave always 2 3 1)) [1, 0x400, 0x100, 0, 0]); let c : Ctl := always;
    let sp : BitVec 4 := 2; let rd : BitVec 6 := 3; let ra : BitVec 6 := 1; let v : DWord := 1; let p0 : DWord := 0x400;
    let p1 : DWord := 0x100; let p2 : DWord := 0; let p3 : DWord := 0; let n : Nat := 1;
    let save := f.kind = .ctx (.ctxsaveSave c sp rd ra) ∨ f.kind = .ctx (.ctxsaveRestore c sp rd ra); s.b.bound = true ∧
    s.b.forms = [f] ∧ (∀ e ∈ s.banks, e.2.bound = true → e.2.forms = []) ∧ s.settledBefore f.iss = true ∧ f.phase ≠ 1 ∧
    save ∧ f.ops = [v, p0, p1, p2, p3] ∧ f.phase = 0 ∧ v.toNat = n ∧ p2.getLsbD 0 = false ∧ s.saved = [] ∧
    (s.ctx n).st ≠ .stopped) ∧
    (let s : State := demoX (demoForm (.ctx (.ctxsaveSave always 2 3 1)) [1, 0x400, 0xFF, 0, 0]) .stopped;
    let f : Form := (demoForm (.ctx (.ctxsaveSave always 2 3 1)) [1, 0x400, 0xFF, 0, 0]); let c : Ctl := always;
    let sp : BitVec 4 := 2; let rd : BitVec 6 := 3; let ra : BitVec 6 := 1; let v : DWord := 1; let p0 : DWord := 0x400;
    let p1 : DWord := 0xFF; let p2 : DWord := 0; let p3 : DWord := 0; let n : Nat := 1;
    let save := f.kind = .ctx (.ctxsaveSave c sp rd ra) ∨ f.kind = .ctx (.ctxsaveRestore c sp rd ra); s.b.bound = true ∧
    s.b.forms = [f] ∧ (∀ e ∈ s.banks, e.2.bound = true → e.2.forms = []) ∧ s.settledBefore f.iss = true ∧ f.phase ≠ 1 ∧
    save ∧ f.ops = [v, p0, p1, p2, p3] ∧ f.phase = 0 ∧ v.toNat = n ∧ p2.getLsbD 0 = false ∧ s.saved = [] ∧
    (s.ctx n).st = .stopped ∧ p1.toNat < 256) ∧
    (let s : State := demoX (demoForm (.ctx (.ctxsaveRestore always 2 3 1)) [1, 0x400, 0x100, 1, 0]) .run;
    let f : Form := (demoForm (.ctx (.ctxsaveRestore always 2 3 1)) [1, 0x400, 0x100, 1, 0]); let c : Ctl := always;
    let sp : BitVec 4 := 2; let rd : BitVec 6 := 3; let ra : BitVec 6 := 1; let v : DWord := 1; let p0 : DWord := 0x400;
    let p1 : DWord := 0x100; let p2 : DWord := 1; let p3 : DWord := 0; let n : Nat := 1;
    let save := f.kind = .ctx (.ctxsaveSave c sp rd ra) ∨ f.kind = .ctx (.ctxsaveRestore c sp rd ra); s.b.bound = true ∧
    s.b.forms = [f] ∧ (∀ e ∈ s.banks, e.2.bound = true → e.2.forms = []) ∧ s.settledBefore f.iss = true ∧ f.phase ≠ 1 ∧
    save ∧ f.ops = [v, p0, p1, p2, p3] ∧ f.phase = 0 ∧ v.toNat = n ∧ p2.getLsbD 0 = true ∧ (¬((s.ctx n).st = .new ∧
    ∀ e ∈ s.ctxs, e.1 ≠ n → s.within n 9 e.1 = false))) ∧
    (let s : State := demoX (demoForm (.ctx (.ctxsaveSave always 2 3 1)) [1, 0x400, 0x100, 0, 0] 2) .stopped;
    let f : Form := (demoForm (.ctx (.ctxsaveSave always 2 3 1)) [1, 0x400, 0x100, 0, 0] 2); let c : Ctl := always;
    let sp : BitVec 4 := 2; let rd : BitVec 6 := 3; let ra : BitVec 6 := 1; let v : DWord := 1; let p0 : DWord := 0x400;
    let p1 : DWord := 0x100; let p2 : DWord := 0; let p3 : DWord := 0; let n : Nat := 1;
    let save := f.kind = .ctx (.ctxsaveSave c sp rd ra) ∨ f.kind = .ctx (.ctxsaveRestore c sp rd ra); let l := demoLeaf;
    s.b.bound = true ∧ s.b.forms = [f] ∧ (∀ e ∈ s.banks, e.2.bound = true → e.2.forms = []) ∧ s.settledBefore f.iss = true ∧
    f.phase ≠ 1 ∧ save ∧ f.ops = [v, p0, p1, p2, p3] ∧ f.phase = 2 ∧ v.toNat = n ∧ p2.getLsbD 0 = false ∧ s.saved = [] ∧
    p0.toNat % 64 = 0 ∧ p0.toNat + 16 < 2 ^ 56 ∧ s.draw.translate (.k 0) true s.b.ctx (p0.toNat + 16) = .ok l ∧
    s.unlinked l (p0.toNat + 16) = false ∧ s.draw.portWaits okraQ l (p0.toNat + 16) = false ∧ Tlb.ver l = false) ∧
    (let s : State := demoX (demoForm (.ctx (.ctxsaveRestore always 2 3 1)) [1, 0x400, 0x100, 1, 0]) .new;
    let f : Form := (demoForm (.ctx (.ctxsaveRestore always 2 3 1)) [1, 0x400, 0x100, 1, 0]); let c : Ctl := always;
    let sp : BitVec 4 := 2; let rd : BitVec 6 := 3; let ra : BitVec 6 := 1; let v : DWord := 1; let p0 : DWord := 0x400;
    let p1 : DWord := 0x100; let p2 : DWord := 1; let p3 : DWord := 0; let n : Nat := 1;
    let save := f.kind = .ctx (.ctxsaveSave c sp rd ra) ∨ f.kind = .ctx (.ctxsaveRestore c sp rd ra);
    let u : State := (okOf (demo, []) (s.draw.getAll (4 * f.col) s.b.snapTs p0.toNat 256)).1;
    let h : List Byte := (okOf (demo, []) (s.draw.getAll (4 * f.col) s.b.snapTs p0.toNat 256)).2;
    let u' : State := (okOf (demo,
    []) (u.getAll (4 * f.col) s.b.snapTs (p0.toNat + 256) (leNat ((h.drop 8).take 8) - 256))).1;
    let body : List Byte := (okOf (demo,
    []) (u.getAll (4 * f.col) s.b.snapTs (p0.toNat + 256) (leNat ((h.drop 8).take 8) - 256))).2;
    let good := (s.ctx n).st = .new ∧ (∀ e ∈ s.ctxs, e.1 ≠ n → s.within n 9 e.1 = false) ∧ leNat ((h.drop 16).take 8) = 1 ∧
    fld (leNat (h.take 8)) 31 16 = 1 ∧ fld (leNat (h.take 8)) 15 0 = 0 ∧ leNat ((h.drop 24).take 32) = s.feat.toNat;
    s.b.bound = true ∧ s.b.forms = [f] ∧ (∀ e ∈ s.banks, e.2.bound = true → e.2.forms = []) ∧ s.settledBefore f.iss = true ∧
    f.phase ≠ 1 ∧ save ∧ f.ops = [v, p0, p1, p2, p3] ∧ f.phase = 0 ∧ v.toNat = n ∧ p2.getLsbD 0 = true ∧
    (s.ctxs.find n).isSome = true ∧ s.draw.getAll (4 * f.col) s.b.snapTs p0.toNat 256 = .ok (u, h) ∧
    u.getAll (4 * f.col) s.b.snapTs (p0.toNat + 256) (leNat ((h.drop 8).take 8) - 256) = .ok (u', body) ∧ ¬good) ∧
    (let s : State := { demoX (demoForm (.ctx (.ctxsaveRestore always 2 3 1)) [1, 0x400, 0x100, 1, 0]) .new with mem := demoM.mem ++ [(0x10402, 1), (0x10409, 1), (0x10410, 1), (0x10418, 15)], ctxs := [(0, Ctx.root), (1, Ctx.new 0 1 0)] };
    let f : Form := (demoForm (.ctx (.ctxsaveRestore always 2 3 1)) [1, 0x400, 0x100, 1, 0]); let c : Ctl := always;
    let sp : BitVec 4 := 2; let rd : BitVec 6 := 3; let ra : BitVec 6 := 1; let v : DWord := 1; let p0 : DWord := 0x400;
    let p1 : DWord := 0x100; let p2 : DWord := 1; let p3 : DWord := 0; let n : Nat := 1;
    let save := f.kind = .ctx (.ctxsaveSave c sp rd ra) ∨ f.kind = .ctx (.ctxsaveRestore c sp rd ra);
    let u : State := (okOf (demo, []) (s.draw.getAll (4 * f.col) s.b.snapTs p0.toNat 256)).1;
    let h : List Byte := (okOf (demo, []) (s.draw.getAll (4 * f.col) s.b.snapTs p0.toNat 256)).2;
    let u' : State := (okOf (demo,
    []) (u.getAll (4 * f.col) s.b.snapTs (p0.toNat + 256) (leNat ((h.drop 8).take 8) - 256))).1;
    let body : List Byte := (okOf (demo,
    []) (u.getAll (4 * f.col) s.b.snapTs (p0.toNat + 256) (leNat ((h.drop 8).take 8) - 256))).2;
    let good := (s.ctx n).st = .new ∧ (∀ e ∈ s.ctxs, e.1 ≠ n → s.within n 9 e.1 = false) ∧ leNat ((h.drop 16).take 8) = 1 ∧
    fld (leNat (h.take 8)) 31 16 = 1 ∧ fld (leNat (h.take 8)) 15 0 = 0 ∧ leNat ((h.drop 24).take 32) = s.feat.toNat;
    s.b.bound = true ∧ s.b.forms = [f] ∧ (∀ e ∈ s.banks, e.2.bound = true → e.2.forms = []) ∧ s.settledBefore f.iss = true ∧
    f.phase ≠ 1 ∧ save ∧ f.ops = [v, p0, p1, p2, p3] ∧ f.phase = 0 ∧ v.toNat = n ∧ p2.getLsbD 0 = true ∧
    (s.ctxs.find n).isSome = true ∧ s.draw.getAll (4 * f.col) s.b.snapTs p0.toNat 256 = .ok (u, h) ∧
    u.getAll (4 * f.col) s.b.snapTs (p0.toNat + 256) (leNat ((h.drop 8).take 8) - 256) = .ok (u', body) ∧ good) ∧
    (let s : State := { demoX (demoForm (.ctx (.ctxsaveRestore always 2 3 1)) [1, 0x400, 0x100, 1, 0]) .new with b := { demo.b with forms := [(demoForm (.ctx (.ctxsaveRestore always 2 3 1)) [1, 0x400, 0x100, 1, 0])], queues := [(1, ⟨[{ demoPkt (.gst 8) 0x400 7 0x40 true false with posted := [⟨demoLeaf, 0x400, [7, 0, 0, 0, 0, 0, 0, 0], none, false, false, 3, 0, 0⟩], iss := 9 }], false, false, 0⟩)] }, ctxs := [(0, Ctx.root), (1, Ctx.new 0 1 0)] };
    let f : Form := (demoForm (.ctx (.ctxsaveRestore always 2 3 1)) [1, 0x400, 0x100, 1, 0]); let c : Ctl := always;
    let sp : BitVec 4 := 2; let rd : BitVec 6 := 3; let ra : BitVec 6 := 1; let v : DWord := 1; let p0 : DWord := 0x400;
    let p1 : DWord := 0x100; let p2 : DWord := 1; let p3 : DWord := 0; let n : Nat := 1;
    let save := f.kind = .ctx (.ctxsaveSave c sp rd ra) ∨ f.kind = .ctx (.ctxsaveRestore c sp rd ra); s.b.bound = true ∧
    s.b.forms = [f] ∧ (∀ e ∈ s.banks, e.2.bound = true → e.2.forms = []) ∧ s.settledBefore f.iss = true ∧ f.phase ≠ 1 ∧
    save ∧ f.ops = [v, p0, p1, p2, p3] ∧ f.phase = 0 ∧ v.toNat = n ∧ p2.getLsbD 0 = true ∧ (s.ctx n).st = .new ∧
    (∀ e ∈ s.ctxs, e.1 ≠ n → s.within n 9 e.1 = false) ∧ s.draw.getAll (4 * f.col) s.b.snapTs p0.toNat 256 = .error none) := by
  dsimp only
  refine ⟨⟨?_, ?_, ?_, ?_, ?_, ?_, ?_, ?_, ?_, ?_⟩, ⟨?_, ?_, ?_, ?_, ?_, ?_, ?_, ?_, ?_, ?_, ?_, ?_, ?_, ?_, ?_, ?_, ?_, ?_, ?_, ?_, ?_, ?_, ?_, ?_, ?_, ?_, ?_, ?_, ?_, ?_, ?_, ?_⟩, ⟨?_, ?_, ?_, ?_, ?_, ?_, ?_, ?_, ?_, ?_, ?_, ?_⟩, ⟨?_, ?_, ?_, ?_, ?_, ?_, ?_, ?_, ?_, ?_, ?_, ?_, ?_⟩, ⟨?_, ?_, ?_, ?_, ?_, ?_, ?_, ?_, ?_, ?_, ?_⟩, ⟨?_, ?_, ?_, ?_, ?_, ?_, ?_, ?_, ?_, ?_, ?_, ?_, ?_, ok_of (by decide +kernel), ?_, ?_, ?_⟩, ⟨?_, ?_, ?_, ?_, ?_, ?_, ?_, ?_, ?_, ?_, ?_, ok_pair (by decide +kernel), ok_pair (by decide +kernel), ?_⟩, ⟨?_, ?_, ?_, ?_, ?_, ?_, ?_, ?_, ?_, ?_, ?_, ok_pair (by decide +kernel), ok_pair (by decide +kernel), (by decide +kernel)⟩, ⟨?_, ?_, ?_, ?_, ?_, ?_, ?_, ?_, ?_, ?_, ?_, ?_, err_as (by decide +kernel)⟩⟩ <;> first | exact performs_of (by decide) | decide | decide +kernel

theorem test_w_TrapRecordWritten :
  (let s : State := demoRing 16 true;
    let r : Rec := ⟨0, 1, ⟨63, 0, 0, 0, 0, 0, true, .before, false, none⟩, 1, 1, 2049, 0x40, 0, 0, false, true⟩;
    let h := r.holder; let x := s.ctx h; let n := 2 ^ rfld x.trr 3 0; let base := rfld x.trr 55 12 * 4096; s.recs = [r] ∧
    r.written = false ∧ (s.ctxs.find r.holder).isSome = true ∧ rfld x.trr 63 63 = 1 ∧ x.tid < 65536 ∧ r.cause.num < 256 ∧
    r.ctx < 4096 ∧ r.bank < 2048 ∧ base + 64 * n < 2 ^ 56 ∧ n ≤ (x.trt - x.trh).toNat) ∧ (let s : State := demoRing 15 false;
    let r : Rec := ⟨0, 1, ⟨63, 0, 0, 0, 0, 0, true, .before, false, none⟩, 1, 1, 2049, 0x40, 0, 0, false, true⟩;
    let h := r.holder; let x := s.ctx h; let n := 2 ^ rfld x.trr 3 0; let base := rfld x.trr 55 12 * 4096;
    let at_ := base + 64 * (x.trt.toNat % n);
    let word0 := x.tid * 2 ^ 48 + r.cause.num * 2 ^ 40 + r.ctx * 2 ^ 28 + r.bank * 2 ^ 17 + r.cause.rfl.toNat * 2 ^ 16;
    let w := s.draw.okraPut h at_ (toBytes 8 word0 ++ toBytes 8 r.pc.toNat ++ toBytes 8 r.cause.ead.toNat ++ toBytes 8 r.cause.edt.toNat ++ toBytes 8 (r.g1.toNat * 2 ^ 32 + r.g2.toNat) ++ List.replicate 24 0);
    s.recs = [r] ∧ r.written = false ∧ (s.ctxs.find r.holder).isSome = true ∧ rfld x.trr 63 63 = 1 ∧ x.tid < 65536 ∧
    r.cause.num < 256 ∧ r.ctx < 4096 ∧ r.bank < 2048 ∧ base + 64 * n < 2 ^ 56 ∧ (x.trt - x.trh).toNat < n ∧
    s.draw.okraWaits h at_ (r.bytes x.tid) = false ∧ w.2.2 = false) := by
  dsimp only
  and_intros <;> first | exact performs_of (by decide) | decide | decide +kernel

theorem test_w_Grants_0 :
  let s : State := { demoX (demoForm (.ctx (.ctxcore always 2 3 1)) [1, 1, 0, 1, 0]) .run with grants := [(0, ⟨0, 2, none, .cores 1 true⟩)] };
    let f : Form := (demoForm (.ctx (.ctxcore always 2 3 1)) [1, 1, 0, 1, 0]); let c : Ctl := always; let sp : BitVec 4 := 2;
    let rd : BitVec 6 := 3; let ra : BitVec 6 := 1; let n : Nat := 1; let id : Nat := 1; let v : DWord := 1;
    let p0 : DWord := 1; let p1 : DWord := 0; let p2 : DWord := 1; let p3 : DWord := 0; let me := s.b.ctx;
    let free := id < 65536 ∧ s.grants.find id = none ∧ ∀ k, k < id → (s.grants.find k).isSome = true;
    let set : BitVec 128 := p1 ++ p0; let held := ∀ k, k < 128 → set.getLsbD k = true → s.holdsCore me k = true ∧
    ∀ e ∈ s.grants, e.2.giver = me → ∀ x, e.2.res = .cores x true → x.getLsbD k = false; s.b.bound = true ∧ s.b.forms = [f] ∧
    (∀ e ∈ s.banks, e.2.bound = true → e.2.forms = []) ∧ s.settledBefore f.iss = true ∧ f.phase = 0 ∧
    (s.ctxs.find n).isSome = true ∧ v.toNat = n ∧ n ≠ s.b.ctx ∧ f.kind = .ctx (.ctxcore c sp rd ra) ∧
    f.ops = [v, p0, p1, p2, p3] ∧ free ∧ ¬held := by
  dsimp only
  refine ⟨?_, ?_, ?_, ?_, ?_, ?_, ?_, ?_, ?_, ?_, ?_, fun h => absurd ((h 0 (by decide) (by decide)).2 _ (List.mem_singleton.2 rfl) rfl 1 rfl) (by decide)⟩ <;> first | exact performs_of (by decide) | decide | decide +kernel

theorem test_w_Grants_1 :
  let s : State := demoX (demoForm (.ctx (.ctxcore always 2 3 1)) [1, 1, 0, 1, 0]) .run;
    let f : Form := (demoForm (.ctx (.ctxcore always 2 3 1)) [1, 1, 0, 1, 0]); let c : Ctl := always; let sp : BitVec 4 := 2;
    let rd : BitVec 6 := 3; let ra : BitVec 6 := 1; let n : Nat := 1; let id : Nat := 0; let v : DWord := 1;
    let p0 : DWord := 1; let p1 : DWord := 0; let p2 : DWord := 1; let p3 : DWord := 0; let me := s.b.ctx;
    let free := id < 65536 ∧ s.grants.find id = none ∧ ∀ k, k < id → (s.grants.find k).isSome = true;
    let set : BitVec 128 := p1 ++ p0; let held := ∀ k, k < 128 → set.getLsbD k = true → s.holdsCore me k = true ∧
    ∀ e ∈ s.grants, e.2.giver = me → ∀ x, e.2.res = .cores x true → x.getLsbD k = false; s.b.bound = true ∧ s.b.forms = [f] ∧
    (∀ e ∈ s.banks, e.2.bound = true → e.2.forms = []) ∧ s.settledBefore f.iss = true ∧ f.phase = 0 ∧
    (s.ctxs.find n).isSome = true ∧ v.toNat = n ∧ n ≠ s.b.ctx ∧ f.kind = .ctx (.ctxcore c sp rd ra) ∧
    f.ops = [v, p0, p1, p2, p3] ∧ free ∧ held ∧ me = 0 := by
  dsimp only
  and_intros <;> first | exact performs_of (by decide) | decide | decide +kernel

theorem test_w_Grants_2 :
  let s : State := { demoX (demoForm (.ctx (.ctxcore always 2 3 1)) [2, 3, 0, 1, 0]) .run with b := { demo.b with forms := [(demoForm (.ctx (.ctxcore always 2 3 1)) [2, 3, 0, 1, 0])], ctx := 1 }, ctxs := [(0, Ctx.root), (1, Ctx.root), (2, Ctx.new 1 2 0)], grants := [(0, ⟨0, 1, none, .cores 1 true⟩), (1, ⟨0, 1, none, .cores 2 true⟩)] };
    let f : Form := (demoForm (.ctx (.ctxcore always 2 3 1)) [2, 3, 0, 1, 0]); let c : Ctl := always; let sp : BitVec 4 := 2;
    let rd : BitVec 6 := 3; let ra : BitVec 6 := 1; let n : Nat := 2; let id : Nat := 2; let v : DWord := 2;
    let p0 : DWord := 3; let p1 : DWord := 0; let p2 : DWord := 1; let p3 : DWord := 0; let me := s.b.ctx;
    let free := id < 65536 ∧ s.grants.find id = none ∧ ∀ k, k < id → (s.grants.find k).isSome = true;
    let set : BitVec 128 := p1 ++ p0; let held := ∀ k, k < 128 → set.getLsbD k = true → s.holdsCore me k = true ∧
    ∀ e ∈ s.grants, e.2.giver = me → ∀ x, e.2.res = .cores x true → x.getLsbD k = false; s.b.bound = true ∧ s.b.forms = [f] ∧
    (∀ e ∈ s.banks, e.2.bound = true → e.2.forms = []) ∧ s.settledBefore f.iss = true ∧ f.phase = 0 ∧
    (s.ctxs.find n).isSome = true ∧ v.toNat = n ∧ n ≠ s.b.ctx ∧ f.kind = .ctx (.ctxcore c sp rd ra) ∧
    f.ops = [v, p0, p1, p2, p3] ∧ free ∧ held ∧ me ≠ 0 ∧ (∀ e ∈ s.grants, e.2.recv = me → ∀ x y, e.2.res = .cores x y →
    set &&& x ≠ set) := by
  dsimp only
  refine ⟨?_, ?_, ?_, ?_, ?_, ?_, ?_, ?_, ?_, ?_, ?_, (by refine fun k hk hb => ⟨?_, ?_⟩; revert hb; revert hk; revert k; decide +kernel; intro e he hg; rcases one_of_two he with rfl | rfl <;> exact absurd hg (by decide)), ?_, (by intro e he _ x y hx; rcases one_of_two he with rfl | rfl <;> cases hx <;> decide)⟩ <;> first | exact performs_of (by decide) | decide | decide +kernel

theorem test_w_Grants_3 :
  let s : State := { demoX (demoForm (.ctx (.ctxcore always 2 3 1)) [2, 3, 0, 1, 0]) .run with b := { demo.b with forms := [(demoForm (.ctx (.ctxcore always 2 3 1)) [2, 3, 0, 1, 0])], ctx := 1 }, ctxs := [(0, Ctx.root), (1, Ctx.root), (2, Ctx.new 1 2 0)], grants := [(0, ⟨0, 1, none, .cores 7 true⟩)] };
    let f : Form := (demoForm (.ctx (.ctxcore always 2 3 1)) [2, 3, 0, 1, 0]); let c : Ctl := always; let sp : BitVec 4 := 2;
    let rd : BitVec 6 := 3; let ra : BitVec 6 := 1; let n : Nat := 2; let id : Nat := 1; let v : DWord := 2;
    let p0 : DWord := 3; let p1 : DWord := 0; let p2 : DWord := 1; let p3 : DWord := 0; let me := s.b.ctx;
    let free := id < 65536 ∧ s.grants.find id = none ∧ ∀ k, k < id → (s.grants.find k).isSome = true;
    let set : BitVec 128 := p1 ++ p0; let held := ∀ k, k < 128 → set.getLsbD k = true → s.holdsCore me k = true ∧
    ∀ e ∈ s.grants, e.2.giver = me → ∀ x, e.2.res = .cores x true → x.getLsbD k = false; let pre := []; let post := [];
    let gid := 0; let gv := 0; let sr := none; let y := 7; let ex := true; s.b.bound = true ∧ s.b.forms = [f] ∧
    (∀ e ∈ s.banks, e.2.bound = true → e.2.forms = []) ∧ s.settledBefore f.iss = true ∧ f.phase = 0 ∧
    (s.ctxs.find n).isSome = true ∧ v.toNat = n ∧ n ≠ s.b.ctx ∧ f.kind = .ctx (.ctxcore c sp rd ra) ∧
    f.ops = [v, p0, p1, p2, p3] ∧ free ∧ held ∧ me ≠ 0 ∧ s.grants = pre ++ (gid, ⟨gv, me, sr, .cores y ex⟩) :: post ∧
    set &&& y = set ∧ (∀ e ∈ pre, e.2.recv = me → ∀ x z, e.2.res = .cores x z → set &&& x ≠ set) := by
  dsimp only
  refine ⟨?_, ?_, ?_, ?_, ?_, ?_, ?_, ?_, ?_, ?_, ?_, (by refine fun k hk hb => ⟨?_, ?_⟩; revert hb; revert hk; revert k; decide +kernel; intro e he hg; cases List.mem_singleton.1 he; exact absurd hg (by decide)), ?_, ?_, ?_, (by intro e h; cases h)⟩ <;> first | exact performs_of (by decide) | decide | decide +kernel

theorem test_w_Grants_4 :
  let s : State := { demoX (demoForm (.ctx (.ctxmem always 2 3 1)) [1, 0x10000, 0, 1, 0xFF80000000000000]) .run with ctxs := [(0, Ctx.root), (1, { Ctx.new 0 1 0 with s2 := [(0, ⟨0, true, true, false, 0x3F, false, false, 0, 0⟩)] })] };
    let f : Form := (demoForm (.ctx (.ctxmem always 2 3 1)) [1, 0x10000, 0, 1, 0xFF80000000000000]); let c : Ctl := always;
    let sp : BitVec 4 := 2; let rd : BitVec 6 := 3; let ra : BitVec 6 := 1; let n : Nat := 1; let id : Nat := 0;
    let v : DWord := 1; let p0 : DWord := 0x10000; let p1 : DWord := 0; let p2 : DWord := 1;
    let p3 : DWord := 0xFF80000000000000; let me := s.b.ctx; let free := id < 65536 ∧ s.grants.find id = none ∧ ∀ k, k < id →
    (s.grants.find k).isSome = true; let base := p0.toNat / 65536; let rbase := p1.toNat / 65536; s.b.bound = true ∧
    s.b.forms = [f] ∧ (∀ e ∈ s.banks, e.2.bound = true → e.2.forms = []) ∧ s.settledBefore f.iss = true ∧ f.phase = 0 ∧
    (s.ctxs.find n).isSome = true ∧ v.toNat = n ∧ n ≠ s.b.ctx ∧ f.kind = .ctx (.ctxmem c sp rd ra) ∧
    f.ops = [v, p0, p1, p2, p3] ∧ free ∧ me = 0 ∧ p2.toNat < 2 ^ 32 ∧ (∀ e ∈ s.grants, e.2.recv ≠ 0) ∧
    base + p2.toNat ≤ 2 ^ 36 ∧ rbase + p2.toNat ≤ 2 ^ 36 ∧ (∃ i, i < p2.toNat ∧
    ((s.ctx n).s2.find (rbase + i)).isSome = true) := by
  dsimp only
  and_intros <;> first | exact performs_of (by decide) | decide | decide +kernel

theorem test_w_Grants_5 :
  let s : State := demoX (demoForm (.ctx (.ctxmem always 2 3 1)) [1, 0x10000, 0x50000, 1, 0xFF80000000000000]) .run;
    let f : Form := (demoForm (.ctx (.ctxmem always 2 3 1)) [1, 0x10000, 0x50000, 1, 0xFF80000000000000]);
    let c : Ctl := always; let sp : BitVec 4 := 2; let rd : BitVec 6 := 3; let ra : BitVec 6 := 1; let n : Nat := 1;
    let id : Nat := 0; let v : DWord := 1; let p0 : DWord := 0x10000; let p1 : DWord := 0x50000; let p2 : DWord := 1;
    let p3 : DWord := 0xFF80000000000000; let me := s.b.ctx; let free := id < 65536 ∧ s.grants.find id = none ∧ ∀ k, k < id →
    (s.grants.find k).isSome = true; let base := p0.toNat / 65536; let rbase := p1.toNat / 65536; s.b.bound = true ∧
    s.b.forms = [f] ∧ (∀ e ∈ s.banks, e.2.bound = true → e.2.forms = []) ∧ s.settledBefore f.iss = true ∧ f.phase = 0 ∧
    (s.ctxs.find n).isSome = true ∧ v.toNat = n ∧ n ≠ s.b.ctx ∧ f.kind = .ctx (.ctxmem c sp rd ra) ∧
    f.ops = [v, p0, p1, p2, p3] ∧ free ∧ me = 0 ∧ p2.toNat < 2 ^ 32 ∧ (∀ e ∈ s.grants, e.2.recv ≠ 0) ∧
    base + p2.toNat ≤ 2 ^ 36 ∧ rbase + p2.toNat ≤ 2 ^ 36 ∧ (∀ i, i < p2.toNat → (s.ctx n).s2.find (rbase + i) = none) := by
  dsimp only
  and_intros <;> first | exact performs_of (by decide) | decide | decide +kernel

theorem test_w_Grants_6 :
  let s : State := { demoX (demoForm (.ctx (.ctxmem always 2 3 1)) [2, 0x10000, 0x50000, 1, 0xFF80000000000000]) .run with b := { demo.b with forms := [(demoForm (.ctx (.ctxmem always 2 3 1)) [2, 0x10000, 0x50000, 1, 0xFF80000000000000])], ctx := 1 }, ctxs := [(0, Ctx.root), (1, { Ctx.new 0 1 0 with s2 := [] }), (2, Ctx.new 1 2 0)], grants := [] };
    let f : Form := (demoForm (.ctx (.ctxmem always 2 3 1)) [2, 0x10000, 0x50000, 1, 0xFF80000000000000]);
    let c : Ctl := always; let sp : BitVec 4 := 2; let rd : BitVec 6 := 3; let ra : BitVec 6 := 1; let n : Nat := 2;
    let id : Nat := 0; let v : DWord := 2; let p0 : DWord := 0x10000; let p1 : DWord := 0x50000; let p2 : DWord := 1;
    let p3 : DWord := 0xFF80000000000000; let me := s.b.ctx; let free := id < 65536 ∧ s.grants.find id = none ∧ ∀ k, k < id →
    (s.grants.find k).isSome = true; let base := p0.toNat / 65536; let rbase := p1.toNat / 65536; s.b.bound = true ∧
    s.b.forms = [f] ∧ (∀ e ∈ s.banks, e.2.bound = true → e.2.forms = []) ∧ s.settledBefore f.iss = true ∧ f.phase = 0 ∧
    (s.ctxs.find n).isSome = true ∧ v.toNat = n ∧ n ≠ s.b.ctx ∧ f.kind = .ctx (.ctxmem c sp rd ra) ∧
    f.ops = [v, p0, p1, p2, p3] ∧ free ∧ me ≠ 0 ∧ p2.toNat < 2 ^ 32 ∧ base + p2.toNat ≤ 2 ^ 36 ∧ rbase + p2.toNat ≤ 2 ^ 36 ∧
    (∃ i, i < p2.toNat ∧ (s.ctx me).s2.find (base + i) = none) := by
  dsimp only
  and_intros <;> first | exact performs_of (by decide) | decide | decide +kernel

theorem test_w_Grants_7 :
  let s : State := { demoX (demoForm (.ctx (.ctxmem always 2 3 1)) [2, 0x10000, 0x50000, 1, 0xFF80000000000000]) .run with b := { demo.b with forms := [(demoForm (.ctx (.ctxmem always 2 3 1)) [2, 0x10000, 0x50000, 1, 0xFF80000000000000])], ctx := 1 }, ctxs := [(0, Ctx.root), (1, { Ctx.new 0 1 0 with s2 := [(1, ⟨1, true, true, false, 0x3F, false, false, 0, 0⟩)] }), (2, Ctx.new 1 2 0)], grants := [] };
    let f : Form := (demoForm (.ctx (.ctxmem always 2 3 1)) [2, 0x10000, 0x50000, 1, 0xFF80000000000000]);
    let c : Ctl := always; let sp : BitVec 4 := 2; let rd : BitVec 6 := 3; let ra : BitVec 6 := 1; let n : Nat := 2;
    let id : Nat := 0; let v : DWord := 2; let p0 : DWord := 0x10000; let p1 : DWord := 0x50000; let p2 : DWord := 1;
    let p3 : DWord := 0xFF80000000000000; let me := s.b.ctx; let free := id < 65536 ∧ s.grants.find id = none ∧ ∀ k, k < id →
    (s.grants.find k).isSome = true; let lf : Nat → Leaf2 := fun _ => ⟨1, true, true, false, 0x3F, false, false, 0, 0⟩;
    let base := p0.toNat / 65536; let rbase := p1.toNat / 65536;
    let inside (g : Grant) : Prop := g.recv = me ∧ ∃ fb rb k rp wp cf em dt, g.res = .mem fb rb k rp wp cf em dt ∧ rb ≤ base ∧ base + p2.toNat ≤ rb + k;
    s.b.bound = true ∧ s.b.forms = [f] ∧ (∀ e ∈ s.banks, e.2.bound = true → e.2.forms = []) ∧ s.settledBefore f.iss = true ∧
    f.phase = 0 ∧ (s.ctxs.find n).isSome = true ∧ v.toNat = n ∧ n ≠ s.b.ctx ∧ f.kind = .ctx (.ctxmem c sp rd ra) ∧
    f.ops = [v, p0, p1, p2, p3] ∧ free ∧ me ≠ 0 ∧ p2.toNat < 2 ^ 32 ∧ base + p2.toNat ≤ 2 ^ 36 ∧ rbase + p2.toNat ≤ 2 ^ 36 ∧
    (∀ i, i < p2.toNat → (s.ctx me).s2.find (base + i) = some (lf i)) ∧ (∀ i, i < p2.toNat →
    (s.ctx n).s2.find (rbase + i) = none) ∧ (∀ e ∈ s.grants, ¬inside e.2) := by
  dsimp only
  refine ⟨?_, ?_, ?_, ?_, ?_, ?_, ?_, ?_, ?_, ?_, ?_, ?_, ?_, ?_, ?_, ?_, ?_, (by intro e h; cases h)⟩ <;> first | exact performs_of (by decide) | decide | decide +kernel

theorem test_w_Grants_8 :
  let s : State := { demoX (demoForm (.ctx (.ctxmem always 2 3 1)) [2, 0x10000, 0x50000, 1, 0xFF80000000000000]) .run with b := { demo.b with forms := [(demoForm (.ctx (.ctxmem always 2 3 1)) [2, 0x10000, 0x50000, 1, 0xFF80000000000000])], ctx := 1 }, ctxs := [(0, Ctx.root), (1, { Ctx.new 0 1 0 with s2 := [(1, ⟨1, true, true, false, 0x3F, false, false, 0, 0⟩)] }), (2, Ctx.new 1 2 0)], grants := [(0, ⟨0, 1, none, .mem 0 0 16 true false false 0x3F false⟩)] };
    let f : Form := (demoForm (.ctx (.ctxmem always 2 3 1)) [2, 0x10000, 0x50000, 1, 0xFF80000000000000]);
    let c : Ctl := always; let sp : BitVec 4 := 2; let rd : BitVec 6 := 3; let ra : BitVec 6 := 1; let n : Nat := 2;
    let id : Nat := 1; let v : DWord := 2; let p0 : DWord := 0x10000; let p1 : DWord := 0x50000; let p2 : DWord := 1;
    let p3 : DWord := 0xFF80000000000000; let me := s.b.ctx; let free := id < 65536 ∧ s.grants.find id = none ∧ ∀ k, k < id →
    (s.grants.find k).isSome = true; let lf : Nat → Leaf2 := fun _ => ⟨1, true, true, false, 0x3F, false, false, 0, 0⟩;
    let base := p0.toNat / 65536; let rbase := p1.toNat / 65536;
    let inside (g : Grant) : Prop := g.recv = me ∧ ∃ fb rb k rp wp cf em dt, g.res = .mem fb rb k rp wp cf em dt ∧ rb ≤ base ∧ base + p2.toNat ≤ rb + k;
    let pre := []; let post := []; let gid := 0; let g := ⟨0, 1, none, .mem 0 0 16 true false false 0x3F false⟩; let fb := 0;
    let rb := 0; let k := 16; let rp := true; let wp := false; let cf := false; let em := 0x3F; let dt := false;
    let fits := (p3.getLsbD 63 = true → rp = true) ∧ (p3.getLsbD 62 = true → wp = true) ∧ (∀ j, j < 6 →
    p3.getLsbD (55 + j) = true → em.getLsbD j = true) ∧ (p3.getLsbD 61 = false → ∀ i, i < p2.toNat → (lf i).conf = false);
    s.b.bound = true ∧ s.b.forms = [f] ∧ (∀ e ∈ s.banks, e.2.bound = true → e.2.forms = []) ∧ s.settledBefore f.iss = true ∧
    f.phase = 0 ∧ (s.ctxs.find n).isSome = true ∧ v.toNat = n ∧ n ≠ s.b.ctx ∧ f.kind = .ctx (.ctxmem c sp rd ra) ∧
    f.ops = [v, p0, p1, p2, p3] ∧ free ∧ me ≠ 0 ∧ p2.toNat < 2 ^ 32 ∧ base + p2.toNat ≤ 2 ^ 36 ∧ rbase + p2.toNat ≤ 2 ^ 36 ∧
    (∀ i, i < p2.toNat → (s.ctx me).s2.find (base + i) = some (lf i)) ∧ (∀ i, i < p2.toNat →
    (s.ctx n).s2.find (rbase + i) = none) ∧ s.grants = pre ++ (gid, g) :: post ∧ inside g ∧
    g.res = .mem fb rb k rp wp cf em dt ∧ (∀ e ∈ pre, ¬inside e.2) ∧ s.grants.find gid = some g ∧ ¬fits := by
  dsimp only
  refine ⟨?_, ?_, ?_, ?_, ?_, ?_, ?_, ?_, ?_, ?_, ?_, ?_, ?_, ?_, ?_, ?_, ?_, ?_, ⟨rfl, _, _, _, _, _, _, _, _, rfl, by decide, by decide⟩, ?_, (by intro e h; cases h), ?_, ?_⟩ <;> first | exact performs_of (by decide) | decide | decide +kernel

theorem test_w_Grants_9 :
  let s : State := { demoX (demoForm (.ctx (.ctxmem always 2 3 1)) [2, 0x10000, 0x50000, 1, 0xBF80000000000000]) .run with b := { demo.b with forms := [(demoForm (.ctx (.ctxmem always 2 3 1)) [2, 0x10000, 0x50000, 1, 0xBF80000000000000])], ctx := 1 }, ctxs := [(0, Ctx.root), (1, { Ctx.new 0 1 0 with s2 := [(1, ⟨1, true, true, false, 0x3F, false, false, 0, 0⟩)] }), (2, Ctx.new 1 2 0)], grants := [(0, ⟨0, 1, none, .mem 0 0 16 true false false 0x3F false⟩)] };
    let f : Form := (demoForm (.ctx (.ctxmem always 2 3 1)) [2, 0x10000, 0x50000, 1, 0xBF80000000000000]);
    let c : Ctl := always; let sp : BitVec 4 := 2; let rd : BitVec 6 := 3; let ra : BitVec 6 := 1; let n : Nat := 2;
    let id : Nat := 1; let v : DWord := 2; let p0 : DWord := 0x10000; let p1 : DWord := 0x50000; let p2 : DWord := 1;
    let p3 : DWord := 0xBF80000000000000; let me := s.b.ctx; let free := id < 65536 ∧ s.grants.find id = none ∧ ∀ k, k < id →
    (s.grants.find k).isSome = true; let lf : Nat → Leaf2 := fun _ => ⟨1, true, true, false, 0x3F, false, false, 0, 0⟩;
    let base := p0.toNat / 65536; let rbase := p1.toNat / 65536;
    let inside (g : Grant) : Prop := g.recv = me ∧ ∃ fb rb k rp wp cf em dt, g.res = .mem fb rb k rp wp cf em dt ∧ rb ≤ base ∧ base + p2.toNat ≤ rb + k;
    let pre := []; let post := []; let gid := 0; let g := ⟨0, 1, none, .mem 0 0 16 true false false 0x3F false⟩; let fb := 0;
    let rb := 0; let k := 16; let rp := true; let wp := false; let cf := false; let em := 0x3F; let dt := false;
    let fits := (p3.getLsbD 63 = true → rp = true) ∧ (p3.getLsbD 62 = true → wp = true) ∧ (∀ j, j < 6 →
    p3.getLsbD (55 + j) = true → em.getLsbD j = true) ∧ (p3.getLsbD 61 = false → ∀ i, i < p2.toNat → (lf i).conf = false);
    s.b.bound = true ∧ s.b.forms = [f] ∧ (∀ e ∈ s.banks, e.2.bound = true → e.2.forms = []) ∧ s.settledBefore f.iss = true ∧
    f.phase = 0 ∧ (s.ctxs.find n).isSome = true ∧ v.toNat = n ∧ n ≠ s.b.ctx ∧ f.kind = .ctx (.ctxmem c sp rd ra) ∧
    f.ops = [v, p0, p1, p2, p3] ∧ free ∧ me ≠ 0 ∧ p2.toNat < 2 ^ 32 ∧ base + p2.toNat ≤ 2 ^ 36 ∧ rbase + p2.toNat ≤ 2 ^ 36 ∧
    (∀ i, i < p2.toNat → (s.ctx me).s2.find (base + i) = some (lf i)) ∧ (∀ i, i < p2.toNat →
    (s.ctx n).s2.find (rbase + i) = none) ∧ s.grants = pre ++ (gid, g) :: post ∧ inside g ∧
    g.res = .mem fb rb k rp wp cf em dt ∧ (∀ e ∈ pre, ¬inside e.2) ∧ s.grants.find gid = some g ∧ fits := by
  dsimp only
  refine ⟨?_, ?_, ?_, ?_, ?_, ?_, ?_, ?_, ?_, ?_, ?_, ?_, ?_, ?_, ?_, ?_, ?_, ?_, ⟨rfl, _, _, _, _, _, _, _, _, rfl, by decide, by decide⟩, ?_, (by intro e h; cases h), ?_, ?_⟩ <;> first | exact performs_of (by decide) | decide | decide +kernel

theorem test_w_Grants_10 :
  let s : State := { demoX (demoForm (.ctx (.ctxq always 2 3 1)) [1, 319, 1, 0, 0]) .run with qOwner := [(319, 1)] };
    let f : Form := (demoForm (.ctx (.ctxq always 2 3 1)) [1, 319, 1, 0, 0]); let c : Ctl := always; let sp : BitVec 4 := 2;
    let rd : BitVec 6 := 3; let ra : BitVec 6 := 1; let n : Nat := 1; let id : Nat := 0; let v : DWord := 1;
    let p0 : DWord := 319; let p1 : DWord := 1; let p2 : DWord := 0; let p3 : DWord := 0; let me := s.b.ctx;
    let free := id < 65536 ∧ s.grants.find id = none ∧ ∀ k, k < id → (s.grants.find k).isSome = true;
    let kind := rfld p0 63 60; let first := rfld p0 15 0; let key (k : Nat) : Nat := if kind = 0 then k else 65536 + k;
    let held := first + p1.toNat ≤ (if kind = 0 then 320 else 1024) ∧ ∀ i, i < p1.toNat →
    s.qOwner.get 0 (key (first + i)) = me; s.b.bound = true ∧ s.b.forms = [f] ∧ (∀ e ∈ s.banks, e.2.bound = true →
    e.2.forms = []) ∧ s.settledBefore f.iss = true ∧ f.phase = 0 ∧ (s.ctxs.find n).isSome = true ∧ v.toNat = n ∧
    n ≠ s.b.ctx ∧ f.kind = .ctx (.ctxq c sp rd ra) ∧ f.ops = [v, p0, p1, p2, p3] ∧ free ∧ rfld p0 63 60 ≤ 1 ∧
    p1.toNat < 2 ^ 32 ∧ 0 < p1.toNat ∧ ¬held := by
  dsimp only
  and_intros <;> first | exact performs_of (by decide) | decide | decide +kernel

theorem test_w_Grants_11 :
  let s : State := demoX (demoForm (.ctx (.ctxq always 2 3 1)) [1, 319, 1, 0, 0]) .run;
    let f : Form := (demoForm (.ctx (.ctxq always 2 3 1)) [1, 319, 1, 0, 0]); let c : Ctl := always; let sp : BitVec 4 := 2;
    let rd : BitVec 6 := 3; let ra : BitVec 6 := 1; let n : Nat := 1; let id : Nat := 0; let v : DWord := 1;
    let p0 : DWord := 319; let p1 : DWord := 1; let p2 : DWord := 0; let p3 : DWord := 0; let me := s.b.ctx;
    let free := id < 65536 ∧ s.grants.find id = none ∧ ∀ k, k < id → (s.grants.find k).isSome = true;
    let kind := rfld p0 63 60; let first := rfld p0 15 0; let key (k : Nat) : Nat := if kind = 0 then k else 65536 + k;
    let held := first + p1.toNat ≤ (if kind = 0 then 320 else 1024) ∧ ∀ i, i < p1.toNat →
    s.qOwner.get 0 (key (first + i)) = me; s.b.bound = true ∧ s.b.forms = [f] ∧ (∀ e ∈ s.banks, e.2.bound = true →
    e.2.forms = []) ∧ s.settledBefore f.iss = true ∧ f.phase = 0 ∧ (s.ctxs.find n).isSome = true ∧ v.toNat = n ∧
    n ≠ s.b.ctx ∧ f.kind = .ctx (.ctxq c sp rd ra) ∧ f.ops = [v, p0, p1, p2, p3] ∧ free ∧ rfld p0 63 60 ≤ 1 ∧
    p1.toNat < 2 ^ 32 ∧ 0 < p1.toNat ∧ held := by
  dsimp only
  and_intros <;> first | exact performs_of (by decide) | decide | decide +kernel

theorem test_w_Grants_12 :
  let s : State := { demoX (demoForm (.ctx (.ctxbud always 2 3 1)) [2, 5, 0, 0, 0]) .run with b := { demo.b with forms := [(demoForm (.ctx (.ctxbud always 2 3 1)) [2, 5, 0, 0, 0])], ctx := 1 }, ctxs := [(0, Ctx.root), (1, { Ctx.root with share := 4 }), (2, { Ctx.new 1 2 0 with share := 3 })] };
    let f : Form := (demoForm (.ctx (.ctxbud always 2 3 1)) [2, 5, 0, 0, 0]); let c : Ctl := always; let sp : BitVec 4 := 2;
    let rd : BitVec 6 := 3; let ra : BitVec 6 := 1; let n : Nat := 2; let v : DWord := 2; let p0 : DWord := 5;
    let p1 : DWord := 0; let p2 : DWord := 0; let p3 : DWord := 0; let me := s.b.ctx; let g := s.ctx me;
    let above := rfld g.share 10 0 < rfld p0 10 0 ∨ rfld g.power 15 4 < rfld p2 15 4 ∨ rfld g.power 2 0 < rfld p2 2 0;
    s.b.bound = true ∧ s.b.forms = [f] ∧ (∀ e ∈ s.banks, e.2.bound = true → e.2.forms = []) ∧ s.settledBefore f.iss = true ∧
    f.phase = 0 ∧ (s.ctxs.find n).isSome = true ∧ v.toNat = n ∧ n ≠ s.b.ctx ∧ f.kind = .ctx (.ctxbud c sp rd ra) ∧
    f.ops = [v, p0, p1, p2, p3] ∧ (s.ctx n).bucket.getLsbD 63 = false ∧ p1.getLsbD 63 = false ∧ above := by
  dsimp only
  and_intros <;> first | exact performs_of (by decide) | decide | decide +kernel

theorem test_w_Grants_13 :
  let s : State := demoX (demoForm (.ctx (.ctxbud always 2 3 1)) [1, 5, 0, 0, 0]) .run;
    let f : Form := (demoForm (.ctx (.ctxbud always 2 3 1)) [1, 5, 0, 0, 0]); let c : Ctl := always; let sp : BitVec 4 := 2;
    let rd : BitVec 6 := 3; let ra : BitVec 6 := 1; let n : Nat := 1; let v : DWord := 1; let p0 : DWord := 5;
    let p1 : DWord := 0; let p2 : DWord := 0; let p3 : DWord := 0; let me := s.b.ctx; let g := s.ctx me;
    let above := rfld g.share 10 0 < rfld p0 10 0 ∨ rfld g.power 15 4 < rfld p2 15 4 ∨ rfld g.power 2 0 < rfld p2 2 0;
    s.b.bound = true ∧ s.b.forms = [f] ∧ (∀ e ∈ s.banks, e.2.bound = true → e.2.forms = []) ∧ s.settledBefore f.iss = true ∧
    f.phase = 0 ∧ (s.ctxs.find n).isSome = true ∧ v.toNat = n ∧ n ≠ s.b.ctx ∧ f.kind = .ctx (.ctxbud c sp rd ra) ∧
    f.ops = [v, p0, p1, p2, p3] ∧ (s.ctx n).bucket.getLsbD 63 = false ∧ p1.getLsbD 63 = false ∧ ¬above := by
  dsimp only
  and_intros <;> first | exact performs_of (by decide) | decide | decide +kernel

theorem test_w_Grants_14 :
  let s : State := { demoX (demoForm (.ctx (.ctxrev always 3 1)) [0]) .run with ctxs := [(0, Ctx.root), (1, { Ctx.new 0 1 0 with s2 := [(0, ⟨0, true, true, false, 0x3F, false, false, 0, 0⟩)] })], grants := [(0, ⟨0, 1, none, .mem 0 0 1 true true false 0x3F false⟩)] };
    let f : Form := (demoForm (.ctx (.ctxrev always 3 1)) [0]); let c : Ctl := always; let rd : BitVec 6 := 3;
    let ra : BitVec 6 := 1; let n : Nat := 1; let id : Nat := 0; let v : DWord := 1; let p0 : DWord := 0;
    let g := ⟨0, 1, none, .mem 0 0 1 true true false 0x3F false⟩; let base := 0; let rbase := 0; let npg := 1;
    let rp := true; let wp := true; let conf := false; let em := 0x3F; let dt := false; s.b.bound = true ∧ s.b.forms = [f] ∧
    (∀ e ∈ s.banks, e.2.bound = true → e.2.forms = []) ∧ s.settledBefore f.iss = true ∧ f.phase = 0 ∧
    (s.ctxs.find n).isSome = true ∧ v.toNat = n ∧ n ≠ s.b.ctx ∧ f.kind = .ctx (.ctxrev c rd ra) ∧ f.ops = [p0] ∧
    p0.toNat = id ∧ s.grants.find id = some g ∧ g.recv = n ∧ g.res = .mem base rbase npg rp wp conf em dt ∧ (∀ k, k ≠ id →
    s.grants.find k = none) ∧ (s.ctx n).depth < 9 ∧ g.src = none := by
  dsimp only
  refine ⟨?_, ?_, ?_, ?_, ?_, ?_, ?_, ?_, ?_, ?_, ?_, ?_, ?_, ?_, fun k h => smap_only h, ?_, ?_⟩ <;> first | exact performs_of (by decide) | decide | decide +kernel

theorem test_w_Grants_15 :
  let s : State := { demoX (demoForm (.ctx (.ctxrev always 3 1)) [0]) .run with grants := [(0, ⟨0, 1, none, .cores 3 true⟩)] };
    let f : Form := (demoForm (.ctx (.ctxrev always 3 1)) [0]); let c : Ctl := always; let rd : BitVec 6 := 3;
    let ra : BitVec 6 := 1; let n : Nat := 1; let id : Nat := 0; let v : DWord := 1; let p0 : DWord := 0; let me := s.b.ctx;
    let set : BitVec 128 := 3; let excl : Bool := true; s.b.bound = true ∧ s.b.forms = [f] ∧
    (∀ e ∈ s.banks, e.2.bound = true → e.2.forms = []) ∧ s.settledBefore f.iss = true ∧ f.phase = 0 ∧
    (s.ctxs.find n).isSome = true ∧ v.toNat = n ∧ n ≠ s.b.ctx ∧ f.kind = .ctx (.ctxrev c rd ra) ∧ f.ops = [p0] ∧
    p0.toNat = id ∧ s.grants.find id = some ⟨me, n, none, .cores set excl⟩ ∧ (∀ k g, k ≠ id → s.grants.find k = some g →
    (g.src = none ∨ g.src = some id) ∧ (s.ctx g.recv).depth < 9 ∧ ∃ x y, g.res = .cores x y) ∧ (s.ctx n).depth < 9 ∧
    id < 65536 := by
  dsimp only
  refine ⟨?_, ?_, ?_, ?_, ?_, ?_, ?_, ?_, ?_, ?_, ?_, ?_, (by intro k g h hf; rw [smap_only h] at hf; cases hf), ?_, ?_⟩ <;> first | exact performs_of (by decide) | decide | decide +kernel

theorem test_w_Grants_16 :
  let s : State := { demoX (demoForm (.ctx (.ctxrev always 3 1)) [0]) .run with grants := [(0, ⟨0, 1, none, .queues 0 319 1⟩)], qOwner := [(319, 1)] };
    let f : Form := (demoForm (.ctx (.ctxrev always 3 1)) [0]); let c : Ctl := always; let rd : BitVec 6 := 3;
    let ra : BitVec 6 := 1; let n : Nat := 1; let id : Nat := 0; let v : DWord := 1; let p0 : DWord := 0; let kind := 0;
    let first := 319; let count := 1; let giver := 0; s.b.bound = true ∧ s.b.forms = [f] ∧ (∀ e ∈ s.banks, e.2.bound = true →
    e.2.forms = []) ∧ s.settledBefore f.iss = true ∧ f.phase = 0 ∧ (s.ctxs.find n).isSome = true ∧ v.toNat = n ∧
    n ≠ s.b.ctx ∧ f.kind = .ctx (.ctxrev c rd ra) ∧ f.ops = [p0] ∧ p0.toNat = id ∧ kind ≤ 1 ∧
    s.grants.find id = some ⟨giver, n, none, .queues kind first count⟩ ∧ (∀ k, k ≠ id → s.grants.find k = none) ∧
    (s.ctx n).depth < 9 ∧ id < 65536 := by
  dsimp only
  refine ⟨?_, ?_, ?_, ?_, ?_, ?_, ?_, ?_, ?_, ?_, ?_, ?_, ?_, fun k h => smap_only h, ?_, ?_⟩ <;> first | exact performs_of (by decide) | decide | decide +kernel

theorem test_w_ContextForms :
  let s : State := { demoT with b := { demo.b with sr := [(1, 1), (2, 8)] } }; let c : Ctl := always; let rd : BitVec 6 := 3;
    let ra : BitVec 6 := 1; let rb : BitVec 6 := 2; let x := s.rs ra.toNat; let y := s.rs rb.toNat; let n := x.toNat;
    let zero (v : DWord) (hi lo : Nat) : Prop := rfld v hi lo = 0; let k := if x.getLsbD 63 then s.b.ctx else n;
    s.Performs (.ctxrd c rd ra rb) c ∧ (s.ctxs.find k).isSome = true ∧ s.within s.b.ctx 9 k = true ∧ y.toNat ≤ 8 ∧
    (x.getLsbD 63 = true → zero x 62 0) := by
  dsimp only
  and_intros <;> first | exact performs_of (by decide) | decide | decide +kernel

theorem test_w_ContextTree_full :
  let f : Form := demoForm (.ctx (.ctxnew always 3 1)) [0x100000];
  let s : State := { demoX f .run with ctxs := (List.range 4096).map fun i => (i, Ctx.root) };
    s.b.bound = true ∧ s.b.forms = [f] ∧ (∀ e ∈ s.banks, e.2.bound = true → e.2.forms = []) ∧ s.settledBefore f.iss = true ∧
    f.kind = .ctx (.ctxnew always 3 1) ∧ f.ops = [0x100000] ∧ f.phase = 0 ∧ (∀ k, k < 4096 → (s.ctxs.find k).isSome = true) := by
  intro f s
  exact ⟨rfl, rfl, fun _ h => by simp [s, demoX, demoT, demoM, demo, State.reset] at h, rfl, rfl, rfl, rfl, fun _ h => smap_range h⟩

theorem demoRec_mem : demoRec.mem = demoM.mem ++ [(70594, 3), (70595, 0x10), (70597, 0x3F), (70600, 0x40)] := by
  decide +kernel

theorem demoRec_bell : ∃ u, demoRec.okraAdd 1 0x1400 1 = .ok u := by
  refine ⟨_, acc_is ?_⟩
  rw [mem_as demoRec_mem]
  decide +kernel

theorem test_w_TrapRecordWritten_bell :
    let s : State := demoRing 15 true
    let r : Rec := ⟨0, 1, ⟨63, 0, 0, 0, 0, 0, true, .before, false, none⟩, 1, 1, 2049, 0x40, 0, 0, false, true⟩
    let h := r.holder
    let x := s.ctx h
    let n := 2 ^ rfld x.trr 3 0
    let base := rfld x.trr 55 12 * 4096
    let at_ := base + 64 * (x.trt.toNat % n)
    let word0 := x.tid * 2 ^ 48 + r.cause.num * 2 ^ 40 + r.ctx * 2 ^ 28 + r.bank * 2 ^ 17 + r.cause.rfl.toNat * 2 ^ 16
    let w := s.draw.okraPut h at_ (toBytes 8 word0 ++ toBytes 8 r.pc.toNat ++ toBytes 8 r.cause.ead.toNat ++
      toBytes 8 r.cause.edt.toNat ++ toBytes 8 (r.g1.toNat * 2 ^ 32 + r.g2.toNat) ++ List.replicate 24 0)
    let bell := w.1.okraAdd h (base + 64 * n) 1
    s.recs = [r] ∧ r.written = false ∧ (s.ctxs.find r.holder).isSome = true ∧ rfld x.trr 63 63 = 1 ∧ x.tid < 65536 ∧
    r.cause.num < 256 ∧ r.ctx < 4096 ∧ r.bank < 2048 ∧ base + 64 * n < 2 ^ 56 ∧ (x.trt - x.trh).toNat < n ∧ w.2.2 = true ∧
    ∃ u, bell = .ok u := by
  refine ⟨?_, ?_, ?_, ?_, ?_, ?_, ?_, ?_, ?_, ?_, ?_, ?_⟩
  iterate 11 decide +kernel
  exact demoRec_bell

theorem wait_is {e : Access} (h : (match e with | .wait => true | _ => false) = true) : e = .wait := by
  cases e <;> simp_all

/-- A context with bucket 5, which its pages are charged to. -/
def throttled (c : Ctx) : Ctx :=
  { c with bucket := 0x8000000000000000, bid := 5, s2 := c.s2.map fun l => (l.1, { l.2 with bkt := 5 }) }

/-- The ring's machine with a bucket of context 1, and some tokens. -/
def demoThrottled (k : Smap Nat) : State :=
  { demoRing 15 true with
    tokens := k
    ctxs := (demoRing 15 true).ctxs.map fun e => if e.1 = 1 then (1, throttled e.2) else e }

theorem test_w_TrapRecordWritten_wait :
    let s : State := demoThrottled []
    let r : Rec := ⟨0, 1, ⟨63, 0, 0, 0, 0, 0, true, .before, false, none⟩, 1, 1, 2049, 0x40, 0, 0, false, true⟩
    let h := r.holder
    let x := s.ctx h
    let n := 2 ^ rfld x.trr 3 0
    let base := rfld x.trr 55 12 * 4096
    let at_ := base + 64 * (x.trt.toNat % n)
    s.recs = [r] ∧ r.written = false ∧ (s.ctxs.find r.holder).isSome = true ∧ rfld x.trr 63 63 = 1 ∧ x.tid < 65536 ∧
    r.cause.num < 256 ∧ r.ctx < 4096 ∧ r.bank < 2048 ∧ base + 64 * n < 2 ^ 56 ∧ (x.trt - x.trh).toNat < n ∧ s.draw.okraWaits h at_ (r.bytes x.tid) = true := by
  decide +kernel

/-- The leaf through which the fields of the record are written. -/
def demoSpentLeaf : Leaf := ⟨1, 0, 1, 1, true, true, 0x3F, false, false, 5, 18410715276690653216⟩

/-- The throttled machine once they are in memory. -/
def demoSpentAs : State :=
  { demoThrottled [(1797, 2)] with
    mem := demoM.mem ++ [(70594, 3), (70595, 0x10), (70597, 0x3F), (70600, 0x40)]
    tlb := [⟨demoSpentLeaf, 0, 0, 128⟩, ⟨demoSpentLeaf, 0, 0, 1032⟩]
    fresh := 1
    nests := [⟨8, 1, 1, ⟨1, true, true, false, 0x3F, false, false, 5, 0⟩, 0⟩] }

theorem demoSpentAs_bell :
    (match demoSpentAs.okraAdd 1 0x1400 1 with
      | .wait => true | _ => false) = true := by
  decide +kernel

theorem demoSpent_bell {t : State} {h a : Nat} (ht : t = demoSpentAs) (ha : a = 0x1400) (hh : h = 1) :
    t.okraAdd h a 1 = .wait := by
  subst ht ha hh; exact wait_is demoSpentAs_bell

theorem test_w_TrapRecordWritten_bellWait :
    let s : State := demoThrottled [(1797, 4)]
    let r : Rec := ⟨0, 1, ⟨63, 0, 0, 0, 0, 0, true, .before, false, none⟩, 1, 1, 2049, 0x40, 0, 0, false, true⟩
    let h := r.holder
    let x := s.ctx h
    let n := 2 ^ rfld x.trr 3 0
    let base := rfld x.trr 55 12 * 4096
    let at_ := base + 64 * (x.trt.toNat % n)
    let word0 := x.tid * 2 ^ 48 + r.cause.num * 2 ^ 40 + r.ctx * 2 ^ 28 + r.bank * 2 ^ 17 + r.cause.rfl.toNat * 2 ^ 16
    let w := s.draw.okraPut h at_ (toBytes 8 word0 ++ toBytes 8 r.pc.toNat ++ toBytes 8 r.cause.ead.toNat ++
      toBytes 8 r.cause.edt.toNat ++ toBytes 8 (r.g1.toNat * 2 ^ 32 + r.g2.toNat) ++ List.replicate 24 0)
    let bell := w.1.okraAdd h (base + 64 * n) 1
    s.recs = [r] ∧ r.written = false ∧ (s.ctxs.find r.holder).isSome = true ∧ rfld x.trr 63 63 = 1 ∧ x.tid < 65536 ∧
    r.cause.num < 256 ∧ r.ctx < 4096 ∧ r.bank < 2048 ∧ base + 64 * n < 2 ^ 56 ∧ (x.trt - x.trh).toNat < n ∧ w.2.2 = true ∧ bell = .wait := by
  intro s r h x n base at_ word0 w bell
  have d : w = (demoSpentAs, 64, true) := by decide +kernel
  refine ⟨?_, ?_, ?_, ?_, ?_, ?_, ?_, ?_, ?_, ?_, congrArg (·.2.2) d, demoSpent_bell (congrArg (·.1) d) ?_ rfl⟩
  all_goals decide +kernel

theorem test_w_ContextForms_issue :
  let s : State := { demoT with b := { demo.b with sr := [(1, 1), (8, 0x10000), (10, 1)] } };
    s.Performs (.ctxnew always 3 0) always ∧ s.Performs (.ctxdel always 3 1) always ∧ s.Performs (.ctxcore always 2 3 1) always ∧
    s.Performs (.ctxmem always 2 3 1) always ∧ s.Performs (.ctxq always 2 3 1) always ∧ s.Performs (.ctxbud always 2 3 1) always ∧
    s.Performs (.ctxrunRun always 3 1 0) always ∧ s.Performs (.ctxrunRetry always 3 1 0) always ∧
    s.Performs (.ctxrunRefuse always 3 1 0) always ∧ s.Performs (.ctxrunSkip always 3 1 0) always ∧
    s.Performs (.ctxstop always 2 3 1) always ∧ s.Performs (.ctxrev always 3 1) always ∧ s.Performs (.ctxdlg always 3 1 2) always ∧
    s.Performs (.ctxsaveSave always 2 3 1) always ∧ s.Performs (.ctxsaveRestore always 2 3 1) always ∧
    s.Performs (.shoot always 3 8 1) always ∧
    (let n := (s.rs 1).toNat
     (n ≠ 0 ∧ ∃ e, s.ctxs.find n = some e ∧ e.parent = s.b.ctx) ∧
     ((s.ctxs.find n).isSome = true ∧ n ≠ s.b.ctx ∧ s.within s.b.ctx 9 n = true)) ∧
    (let n := (s.rs 2).toNat
     ¬(n ≠ 0 ∧ ∃ e, s.ctxs.find n = some e ∧ e.parent = s.b.ctx)) ∧
    rfld (s.rs 8) 63 52 = 0 ∧ rfld (s.rs 8) 15 0 = 0 ∧ rfld (s.rs 10) 63 32 = 0 ∧ s.rs 10 ≠ 0 ∧ ¬rfld (s.rs 1) 15 0 = 0 ∧
    s.cur.phase = .alone ∧ s.b.region = none := by
  intro s
  refine ⟨?_, ?_, ?_, ?_, ?_, ?_, ?_, ?_, ?_, ?_, ?_, ?_, ?_, ?_, ?_, ?_, ⟨⟨by decide, _, rfl, by decide⟩, by decide⟩, ?_, ?_⟩
  iterate 16 exact performs_of (by decide)
  · exact fun h => h.1 rfl
  · decide

theorem test_w_HostRegisters :
  (let s : State := demo; let fn : Nat := 0; let q : Nat := 0; let hi : Bool := false;
    let vf := s.vfOf (s.qOwner.get 0 (65536 + q));
    let calm : Prop := ∀ n, vf = some n → s.tdis.get .unlocked n = .unlocked ∨ s.tdis.get .unlocked n = .error; q < 1024 ∧
    fn = vf.getD 0 ∧ calm ∧ hi = false) ∧ (let s : State := demo; let fn : Nat := 3; let q : Nat := 0;
    let vf := s.vfOf (s.qOwner.get 0 (65536 + q)); q < 1024 ∧ fn ≠ vf.getD 0) ∧
    (let s : State := { demoT with vfs := [(3, 1)], qOwner := [(65536, 1)], tdis := [(3, .run)] }; let q : Nat := 0;
    let vf := s.vfOf (s.qOwner.get 0 (65536 + q)); let n := 3; let c := 1; q < 1024 ∧ vf = some n ∧ s.vfs.find n = some c ∧
    (s.tdis.get .unlocked n = .locked ∨ s.tdis.get .unlocked n = .run)) ∧ (let q : Nat := 1023;
    let r : HostReq := ⟨0, true, 2 ^ 60 + 0x103FF0, 8, [7], false⟩; r.write = true ∧ r.vf = 0 ∧ q < 1024 ∧
    r.addr = 2 ^ 60 + 0x100000 + 16 * q) ∧ (let r : HostReq := ⟨0, true, 2 ^ 60 + 0x1000, 8, [7], false⟩; r.write = true ∧
    r.vf = 0 ∧ r.addr = 2 ^ 60 + 0x1000) ∧ (let q : Nat := 3; let r : HostReq := ⟨3, true, 2 ^ 61 + 0x3000, 4, [7], false⟩;
    r.write = true ∧ q < 1024 ∧ r.addr = 2 ^ 61 + 4096 * q) ∧ (let q : Nat := 1024;
    let r : HostReq := ⟨0, true, 2 ^ 61 + 0x400000, 4, [7], false⟩; r.write = true ∧ 1024 ≤ q ∧ r.addr = 2 ^ 61 + 4096 * q) ∧
    (let s : State := { demoT with vfs := [(3, 1)], qOwner := [(65536, 1)], tdis := [(3, .run)] }; let q : Nat := 0;
    let hi : Bool := false; let vf := s.vfOf (s.qOwner.get 0 (65536 + q)); let n := 3; let c := 1; q < 1024 ∧ hi = false ∧
    vf = some n ∧ s.vfs.find n = some c ∧ (s.tdis.get .unlocked n = .locked ∨ s.tdis.get .unlocked n = .run)) ∧
    (let q : Nat := 0; let hi : Bool := true; (hi = true ∨ 1024 ≤ q)) ∧ (let q : Nat := 1024; let hi : Bool := false;
    (hi = true ∨ 1024 ≤ q)) := by
  dsimp only
  and_intros <;> first | exact performs_of (by decide) | decide | decide +kernel

theorem test_w_Functions :
  (let s : State := demoT; let vf : Nat := 255; let n : Nat := 1; let c : Ctx := demoT.ctx 1; 1 ≤ vf ∧ vf ≤ 255 ∧
    s.ctxs.find n = some c ∧ c.depth = 1) ∧
    (let s : State := { demoT with vfs := [(3, 1)], qOwner := [(65536, 1)], tdis := [(3, .run)] }; let vf : Nat := 3;
    let n : Nat := 1; s.vfs.find vf = some n) ∧
    (let s : State := { demoT with vfs := [(3, 1)], qOwner := [(65536, 1)], tdis := [(3, .run)] }; let vf : Nat := 3;
    let n : Nat := 1; let c : Ctx := demoT.ctx 1; s.vfs.find vf = some n ∧ s.ctxs.find n = some c ∧ s.banks = [] ∧
    s.b.bound = true ∧ s.b.forms = [] ∧ (∀ e ∈ s.grants, e.2.recv ≠ n → s.within n 9 e.2.recv = false)) := by
  dsimp only
  and_intros <;> first | exact performs_of (by decide) | decide | decide +kernel

theorem test_w_HostMemory :
  (let s : State := { demo with stst := 0 }; let r : HostReq := ⟨0, true, 0x40, 2, [7, 8], false⟩; r.addr < 2 ^ 60 ∧
    s.stst.getLsbD 63 = false) ∧ (let s : State := demo; let r : HostReq := ⟨3, true, 0x40, 2, [7, 8], false⟩;
    r.addr < 2 ^ 60 ∧ s.stst.getLsbD 63 = true ∧ s.hostPa r.vf r.addr r.write = none) ∧
    (let s : State := { demoT with vfs := [(3, 1)], ctxs := [(0, Ctx.root), (1, { Ctx.new 0 1 0 with st := .run, s2 := [(0, ⟨0, true, true, true, 0x3F, false, false, 0, 0⟩)] })] };
    let r : HostReq := ⟨3, true, 0x40, 2, [7, 8], false⟩; let n := if r.write then r.data.length else r.len;
    let conf (pa : Nat) : Prop := s.confFrame (pa / 65536) = true;
    let trusted : Prop := r.vf ≠ 0 ∧ r.tee = true ∧ s.tdis.get .unlocked r.vf = .run; let pa := 0x40; r.addr < 2 ^ 60 ∧
    s.stst.getLsbD 63 = true ∧ s.hostPa r.vf r.addr r.write = some pa ∧ pa % 65536 + n ≤ 65536 ∧ conf pa ∧ ¬trusted) ∧
    (let s : State := { demoT with tdis := [(3, .run)], vfs := [(3, 1)], ctxs := [(0, Ctx.root), (1, { Ctx.new 0 1 0 with st := .run, s2 := [(0, ⟨0, true, true, true, 0x3F, false, false, 0, 0⟩)] })] };
    let r : HostReq := ⟨3, false, 0xFFFE, 2, [7, 8], true⟩; let n := if r.write then r.data.length else r.len;
    let conf (pa : Nat) : Prop := s.confFrame (pa / 65536) = true;
    let trusted : Prop := r.vf ≠ 0 ∧ r.tee = true ∧ s.tdis.get .unlocked r.vf = .run; let pa := 0xFFFE; r.addr < 2 ^ 60 ∧
    s.stst.getLsbD 63 = true ∧ s.hostPa r.vf r.addr r.write = some pa ∧ pa % 65536 + n ≤ 65536 ∧ (¬conf pa ∨ trusted) ∧
    r.write = false ∧ (∀ i, i < n → s.inPool (pa + i) = false)) ∧
    (let s : State := { demoM with mem := demoM.mem.take 7 ++ [(0x3002, 1), (0x3006, 0xC0), (0x3007, 0xFF)], vctr := 9, vpool := 1, snaps := [(0, ⟨0, 0, 7, false⟩)] };
    let r : HostReq := ⟨0, true, 0x10040, 2, [7, 8], false⟩; let n := if r.write then r.data.length else r.len;
    let conf (pa : Nat) : Prop := s.confFrame (pa / 65536) = true;
    let plain (pa : Nat) : Prop := s.frameWith 54 (pa / 65536) = false;
    let trusted : Prop := r.vf ≠ 0 ∧ r.tee = true ∧ s.tdis.get .unlocked r.vf = .run; let pa := 0x10040;
    let x := ⟨0, 0, 7, false⟩; let i := 0x41; r.addr < 2 ^ 60 ∧ s.stst.getLsbD 63 = true ∧
    s.hostPa r.vf r.addr r.write = some pa ∧ pa % 65536 + n ≤ 65536 ∧ (¬conf pa ∨ trusted) ∧ r.write = true ∧
    x ∈ s.liveSnaps ∧ s.poolRoom 1 = true ∧ pa % 128 + n ≤ 128 ∧ 0 < n ∧ pa < 2 ^ 39 ∧ ¬plain pa ∧ i < 128) ∧
    (let s : State := { demoT with tdis := [(3, .run)], vfs := [(3, 1)], ctxs := [(0, Ctx.root), (1, { Ctx.new 0 1 0 with st := .run, s2 := [(0, ⟨0, true, true, true, 0x3F, false, false, 0, 0⟩)] })] };
    let r : HostReq := ⟨3, true, 0xFFFE, 2, [7, 8], true⟩; let n := if r.write then r.data.length else r.len;
    let conf (pa : Nat) : Prop := s.confFrame (pa / 65536) = true;
    let plain (pa : Nat) : Prop := s.frameWith 54 (pa / 65536) = false;
    let trusted : Prop := r.vf ≠ 0 ∧ r.tee = true ∧ s.tdis.get .unlocked r.vf = .run; let pa := 0xFFFE; r.addr < 2 ^ 60 ∧
    s.stst.getLsbD 63 = true ∧ s.hostPa r.vf r.addr r.write = some pa ∧ pa % 65536 + n ≤ 65536 ∧ (¬conf pa ∨ trusted) ∧
    r.write = true ∧ plain pa) ∧ (let s : State := demo; let r : HostReq := ⟨0, true, 0x40, 2, [7, 8], false⟩;
    let n := if r.write then r.data.length else r.len; let conf (pa : Nat) : Prop := s.confFrame (pa / 65536) = true;
    let plain (pa : Nat) : Prop := s.frameWith 54 (pa / 65536) = false;
    let trusted : Prop := r.vf ≠ 0 ∧ r.tee = true ∧ s.tdis.get .unlocked r.vf = .run; let pa := 0x40; r.addr < 2 ^ 60 ∧
    s.stst.getLsbD 63 = true ∧ s.hostPa r.vf r.addr r.write = some pa ∧ pa % 65536 + n ≤ 65536 ∧ (¬conf pa ∨ trusted) ∧
    r.write = true ∧ plain pa) ∧
    (let s : State := { demoT with vfs := [(3, 1)], ctxs := [(0, Ctx.root), (1, { Ctx.new 0 1 0 with st := .run, s2 := [(0, ⟨0, true, true, true, 0x3F, false, false, 0, 0⟩)] })] };
    let r : HostReq := ⟨0, true, 0x40, 2, [7, 8], false⟩; let pa := 0x40; r.addr < 2 ^ 60 ∧
    (∃ e ∈ s.ctxs, ∃ l ∈ e.2.s2, l.2.frame = pa / 65536 ∧ l.2.conf = true)) ∧
    (let s : State := { demo with mem := [(0x100002, 0x20), (0x100007, 0x80), (0x200000, 0xA0), (0x200006, 0x20), (0x200007, 0x80)], ctxs := [(0, { Ctx.root with s1r := 0x100000 })] };
    let r : HostReq := ⟨0, true, 0x40, 2, [7, 8], false⟩; let pa := 0x40; let i := 0; let j := 0;
    let t0 := rfld (s.ctx 0).s1r 51 20 * 2 ^ 20; let e0 := s.gNat (t0 + 8 * i) 8; let t1 := fld e0 51 8 * 256;
    let e1 := s.gNat (t1 + 8 * j) 8; r.addr < 2 ^ 60 ∧ i < 2 ^ 17 ∧ j < 512 ∧ s.ctxs.find 0 = some (s.ctx 0) ∧
    t0 + 8 * i < 2 ^ 39 ∧ t1 + 8 * j < 2 ^ 39 ∧ e0.testBit 63 = true ∧ e0.testBit 5 = false ∧ tableOk 0 e0 = true ∧
    e1.testBit 63 = true ∧ e1.testBit 5 = true ∧ leafOk 1 e1 = true ∧ e1.testBit 53 = true ∧ fld e1 51 16 ≤ pa / 65536 ∧
    pa / 65536 * 65536 < fld e1 51 16 * 65536 + 2 ^ 30) := by
  dsimp only
  refine ⟨⟨?_, ?_⟩, ⟨?_, ?_, ?_⟩, ⟨?_, ?_, ?_, ?_, ?_, ?_⟩, ⟨?_, ?_, ?_, ?_, ?_, ?_, ?_⟩, ⟨?_, ?_, ?_, ?_, ?_, ?_, (by decide +kernel), ?_, ?_, ?_, ?_, (by decide +kernel), ?_⟩, ⟨?_, ?_, ?_, ?_, ?_, ?_, ?_⟩, ⟨?_, ?_, ?_, ?_, ?_, ?_, ?_⟩, ⟨?_, ?_⟩, ⟨?_, ?_, ?_, ?_, ?_, ?_, ?_, ?_, ?_, ?_, ?_, ?_, ?_, ?_, ?_⟩⟩ <;> first | exact performs_of (by decide) | decide | decide +kernel

theorem test_w_HostAtomics :
  (let s : State := demoT; let r : AtomicReq := ⟨3, 0x40, false⟩; s.hostPa r.vf r.addr true = none) ∧
    (let s : State := { demoT with vfs := [(3, 1)], ctxs := [(0, Ctx.root), (1, { Ctx.new 0 1 0 with st := .run, s2 := [(0, ⟨0, true, true, true, 0x3F, false, false, 0, 0⟩)] })] };
    let r : AtomicReq := ⟨3, 0x40, false⟩; let pa : Nat := 0x40; let conf := s.confFrame (pa / 65536) = true;
    let trusted : Prop := r.vf ≠ 0 ∧ r.tee = true ∧ s.tdis.get .unlocked r.vf = .run; s.hostPa r.vf r.addr true = some pa ∧
    (s.stst.getLsbD 63 = false ∨ pa % 8 ≠ 0 ∨ s.hostPa r.vf r.addr false = none ∨ (conf ∧ ¬trusted))) ∧
    (let s : State := demoT; let r : AtomicReq := ⟨0, 0x40, false⟩; let pa : Nat := 0x40;
    let conf := s.confFrame (pa / 65536) = true;
    let trusted : Prop := r.vf ≠ 0 ∧ r.tee = true ∧ s.tdis.get .unlocked r.vf = .run; s.hostPa r.vf r.addr true = some pa ∧
    s.hostPa r.vf r.addr false ≠ none ∧ s.stst.getLsbD 63 = true ∧ pa % 8 = 0 ∧ (¬conf ∨ trusted) ∧ s.gPoison pa = false ∧
    s.frameWith 54 (pa / 65536) = false ∧ (∀ i, i < 8 → s.inPool (pa + i) = false)) ∧
    (let s : State := { demoT with tdis := [(3, .run)], vfs := [(3, 1)], ctxs := [(0, Ctx.root), (1, { Ctx.new 0 1 0 with st := .run, s2 := [(0, ⟨0, true, true, true, 0x3F, false, false, 0, 0⟩)] })] };
    let r : AtomicReq := ⟨3, 0x40, true⟩; let pa : Nat := 0x40; let conf := s.confFrame (pa / 65536) = true;
    let trusted : Prop := r.vf ≠ 0 ∧ r.tee = true ∧ s.tdis.get .unlocked r.vf = .run; s.hostPa r.vf r.addr true = some pa ∧
    s.hostPa r.vf r.addr false ≠ none ∧ s.stst.getLsbD 63 = true ∧ pa % 8 = 0 ∧ (¬conf ∨ trusted) ∧ s.gPoison pa = false ∧
    s.frameWith 54 (pa / 65536) = false ∧ (∀ i, i < 8 → s.inPool (pa + i) = false)) := by
  dsimp only
  and_intros <;> first | exact performs_of (by decide) | decide | decide +kernel

theorem test_w_HostPackets_launch :
  (let s : State := demoH 1 [0, 0x900000000]; let w : State := (qpktOf (s.draw.nextPkt 0)).1; let q : Nat := 0;
    let pri : Nat := 1; let p : QPkt := (qpktOf (s.draw.nextPkt 0)).2; let d (n : Nat) : Nat := p.dws.getD n 0;
    let u := w.uqs.get ⟨0, 0, 0, none⟩ q;
    let sound (type : Nat) : Prop := d 0 = 2 ^ 63 + type * 2 ^ 48 + pri * 2 ^ 45 ∧ d 2 % 8 = 0 ∧ d 2 < 2 ^ 56 ∧ d 7 = 0 ∧ pri ≤ rfld u.d0 62 60;
    let h := d 3 / 2 ^ 32;
    let known := (w.image p.ctx h true).isSome = true ∨ (w.graphs.find (65536 * p.ctx + h)).isSome = true;
    s.stst.getLsbD 63 = true ∧ s.draw.nextPkt q = some (w, p, none) ∧ pri < 8 ∧ sound 1 ∧
    d 3 = d 3 / 2 ^ 32 % 2 ^ 16 * 2 ^ 32 ∧ d 4 = 0 ∧ ¬known) ∧ (let s : State := demoH 1 [0, 0x200000000];
    let w : State := (qpktOf (s.draw.nextPkt 0)).1; let q : Nat := 0; let pri : Nat := 1;
    let p : QPkt := (qpktOf (s.draw.nextPkt 0)).2; let d (n : Nat) : Nat := p.dws.getD n 0;
    let u := w.uqs.get ⟨0, 0, 0, none⟩ q;
    let sound (type : Nat) : Prop := d 0 = 2 ^ 63 + type * 2 ^ 48 + pri * 2 ^ 45 ∧ d 2 % 8 = 0 ∧ d 2 < 2 ^ 56 ∧ d 7 = 0 ∧ pri ≤ rfld u.d0 62 60;
    let h := d 3 / 2 ^ 32;
    let known := (w.image p.ctx h true).isSome = true ∨ (w.graphs.find (65536 * p.ctx + h)).isSome = true;
    let l := w.launchqs.get [] pri; s.stst.getLsbD 63 = true ∧ s.draw.nextPkt q = some (w, p, none) ∧ pri < 8 ∧ sound 1 ∧
    d 3 = d 3 / 2 ^ 32 % 2 ^ 16 * 2 ^ 32 ∧ d 4 = 0 ∧ known ∧ l.length < 64 ∧ w.waiters = []) ∧
    (let s : State := { demoH 1 [0, 0x200000000] with launchqs := [(1, List.replicate 64 demoLaunch)] };
    let w : State := (qpktOf (s.draw.nextPkt 0)).1; let q : Nat := 0; let pri : Nat := 1;
    let p : QPkt := (qpktOf (s.draw.nextPkt 0)).2; let d (n : Nat) : Nat := p.dws.getD n 0;
    let u := w.uqs.get ⟨0, 0, 0, none⟩ q;
    let sound (type : Nat) : Prop := d 0 = 2 ^ 63 + type * 2 ^ 48 + pri * 2 ^ 45 ∧ d 2 % 8 = 0 ∧ d 2 < 2 ^ 56 ∧ d 7 = 0 ∧ pri ≤ rfld u.d0 62 60;
    let h := d 3 / 2 ^ 32;
    let known := (w.image p.ctx h true).isSome = true ∨ (w.graphs.find (65536 * p.ctx + h)).isSome = true;
    let l := w.launchqs.get [] pri; s.stst.getLsbD 63 = true ∧ s.draw.nextPkt q = some (w, p, none) ∧ pri < 8 ∧ sound 1 ∧
    d 3 = d 3 / 2 ^ 32 % 2 ^ 16 * 2 ^ 32 ∧ d 4 = 0 ∧ known ∧ 64 ≤ l.length) := by
  dsimp only
  refine ⟨⟨?_, pkt_is (by decide +kernel), ?_, ?_, ?_, ?_, ?_⟩, ⟨?_, pkt_is (by decide +kernel), ?_, ?_, ?_, ?_, ?_, ?_, ?_⟩, ⟨?_, pkt_is (by decide +kernel), ?_, ?_, ?_, ?_, ?_, ?_⟩⟩ <;> first | exact performs_of (by decide) | decide | decide +kernel

theorem test_w_HostPackets_load :
  (let s : State := { demoH 2 [0, 0x1000, 64] with b := { demo.b with queues := [(0, ⟨[{ demoPkt (.gst 8) 0x1000 7 0x40 true false with posted := [⟨demoLeaf, 0x1000, [7, 0, 0, 0, 0, 0, 0, 0], none, false, false, 3, 0, 0⟩] }], false, false, 0⟩)] } };
    let w : State := (qpktOf (s.draw.nextPkt 0)).1; let q : Nat := 0; let pri : Nat := 1;
    let p : QPkt := (qpktOf (s.draw.nextPkt 0)).2; let d (n : Nat) : Nat := p.dws.getD n 0;
    let u := w.uqs.get ⟨0, 0, 0, none⟩ q;
    let sound (type : Nat) : Prop := d 0 = 2 ^ 63 + type * 2 ^ 48 + pri * 2 ^ 45 ∧ d 2 % 8 = 0 ∧ d 2 < 2 ^ 56 ∧ d 7 = 0 ∧ pri ≤ rfld u.d0 62 60;
    s.stst.getLsbD 63 = true ∧ s.draw.nextPkt q = some (w, p, none) ∧ pri < 8 ∧ sound 2 ∧ d 3 % 64 = 0 ∧ d 3 < 2 ^ 56 ∧
    d 5 = 0 ∧ d 6 = 0 ∧ w.okraGet p.ctx (d 3) (d 4) = .error none) ∧ (let s : State := demoH 2 [0, 0x10000, 64];
    let w : State := (qpktOf (s.draw.nextPkt 0)).1; let q : Nat := 0; let pri : Nat := 1;
    let p : QPkt := (qpktOf (s.draw.nextPkt 0)).2; let d (n : Nat) : Nat := p.dws.getD n 0;
    let u := w.uqs.get ⟨0, 0, 0, none⟩ q;
    let sound (type : Nat) : Prop := d 0 = 2 ^ 63 + type * 2 ^ 48 + pri * 2 ^ 45 ∧ d 2 % 8 = 0 ∧ d 2 < 2 ^ 56 ∧ d 7 = 0 ∧ pri ≤ rfld u.d0 62 60;
    let f := 1; s.stst.getLsbD 63 = true ∧ s.draw.nextPkt q = some (w, p, none) ∧ pri < 8 ∧ sound 2 ∧ d 3 % 64 = 0 ∧
    d 3 < 2 ^ 56 ∧ d 5 = 0 ∧ d 6 = 0 ∧ w.okraGet p.ctx (d 3) (d 4) = .error (some f)) ∧
    (let s : State := demoH 2 [0, 0x1000, 64]; let w : State := (qpktOf (s.draw.nextPkt 0)).1; let q : Nat := 0;
    let pri : Nat := 1; let p : QPkt := (qpktOf (s.draw.nextPkt 0)).2; let d (n : Nat) : Nat := p.dws.getD n 0;
    let u := w.uqs.get ⟨0, 0, 0, none⟩ q;
    let sound (type : Nat) : Prop := d 0 = 2 ^ 63 + type * 2 ^ 48 + pri * 2 ^ 45 ∧ d 2 % 8 = 0 ∧ d 2 < 2 ^ 56 ∧ d 7 = 0 ∧ pri ≤ rfld u.d0 62 60;
    let v := (okOf (demo, []) (w.okraGet p.ctx (d 3) (d 4))).1; let bs := (okOf (demo, []) (w.okraGet p.ctx (d 3) (d 4))).2;
    s.stst.getLsbD 63 = true ∧ s.draw.nextPkt q = some (w, p, none) ∧ pri < 8 ∧ sound 2 ∧ d 3 % 64 = 0 ∧ d 3 < 2 ^ 56 ∧
    d 5 = 0 ∧ d 6 = 0 ∧ w.okraGet p.ctx (d 3) (d 4) = .ok (v, bs)) := by
  dsimp only
  refine ⟨⟨?_, pkt_is (by decide +kernel), ?_, ?_, ?_, ?_, ?_, ?_, err_as (by decide +kernel)⟩, ⟨?_, pkt_is (by decide +kernel), ?_, ?_, ?_, ?_, ?_, ?_, err_as (by decide +kernel)⟩, ⟨?_, pkt_is (by decide +kernel), ?_, ?_, ?_, ?_, ?_, ?_, ok_pair (by decide +kernel)⟩⟩ <;> first | exact performs_of (by decide) | decide | decide +kernel

theorem test_w_HostPackets_unload :
  (let s : State := demoH 3 [0, 0x900000000]; let w : State := (qpktOf (s.draw.nextPkt 0)).1; let q : Nat := 0;
    let pri : Nat := 1; let p : QPkt := (qpktOf (s.draw.nextPkt 0)).2; let d (n : Nat) : Nat := p.dws.getD n 0;
    let u := w.uqs.get ⟨0, 0, 0, none⟩ q;
    let sound (type : Nat) : Prop := d 0 = 2 ^ 63 + type * 2 ^ 48 + pri * 2 ^ 45 ∧ d 2 % 8 = 0 ∧ d 2 < 2 ^ 56 ∧ d 7 = 0 ∧ pri ≤ rfld u.d0 62 60;
    let k := 65536 * p.ctx + d 3 / 2 ^ 32; s.stst.getLsbD 63 = true ∧ s.draw.nextPkt q = some (w, p, none) ∧ pri < 8 ∧
    sound 3 ∧ d 3 = d 3 / 2 ^ 32 % 2 ^ 16 * 2 ^ 32 ∧ d 4 = 0 ∧ d 5 = 0 ∧ d 6 = 0 ∧ w.objs.find k = none) ∧
    (let s : State := { demoH 3 [0, 0x100000000] with live := [demoLaunch] }; let w : State := (qpktOf (s.draw.nextPkt 0)).1;
    let q : Nat := 0; let pri : Nat := 1; let p : QPkt := (qpktOf (s.draw.nextPkt 0)).2;
    let d (n : Nat) : Nat := p.dws.getD n 0; let u := w.uqs.get ⟨0, 0, 0, none⟩ q;
    let sound (type : Nat) : Prop := d 0 = 2 ^ 63 + type * 2 ^ 48 + pri * 2 ^ 45 ∧ d 2 % 8 = 0 ∧ d 2 < 2 ^ 56 ∧ d 7 = 0 ∧ pri ≤ rfld u.d0 62 60;
    let k := 65536 * p.ctx + d 3 / 2 ^ 32; let o := ⟨0, [demoKern], [], [], [], none, true, 0⟩; s.stst.getLsbD 63 = true ∧
    s.draw.nextPkt q = some (w, p, none) ∧ pri < 8 ∧ sound 3 ∧ d 3 = d 3 / 2 ^ 32 % 2 ^ 16 * 2 ^ 32 ∧ d 4 = 0 ∧ d 5 = 0 ∧
    d 6 = 0 ∧ w.objs.find k = some o ∧ o.live = true ∧ w.referenced k o = true) ∧ (let s : State := demoH 3 [0, 0x100000000];
    let w : State := (qpktOf (s.draw.nextPkt 0)).1; let q : Nat := 0; let pri : Nat := 1;
    let p : QPkt := (qpktOf (s.draw.nextPkt 0)).2; let d (n : Nat) : Nat := p.dws.getD n 0;
    let u := w.uqs.get ⟨0, 0, 0, none⟩ q;
    let sound (type : Nat) : Prop := d 0 = 2 ^ 63 + type * 2 ^ 48 + pri * 2 ^ 45 ∧ d 2 % 8 = 0 ∧ d 2 < 2 ^ 56 ∧ d 7 = 0 ∧ pri ≤ rfld u.d0 62 60;
    let k := 65536 * p.ctx + d 3 / 2 ^ 32; let o := ⟨0, [demoKern], [], [], [], none, true, 0⟩; s.stst.getLsbD 63 = true ∧
    s.draw.nextPkt q = some (w, p, none) ∧ pri < 8 ∧ sound 3 ∧ d 3 = d 3 / 2 ^ 32 % 2 ^ 16 * 2 ^ 32 ∧ d 4 = 0 ∧ d 5 = 0 ∧
    d 6 = 0 ∧ w.objs.find k = some o ∧ o.live = true ∧ w.referenced k o = false) := by
  dsimp only
  refine ⟨⟨?_, pkt_is (by decide +kernel), ?_, ?_, ?_, ?_, ?_, ?_, ?_⟩, ⟨?_, pkt_is (by decide +kernel), ?_, ?_, ?_, ?_, ?_, ?_, ?_, ?_, ?_⟩, ⟨?_, pkt_is (by decide +kernel), ?_, ?_, ?_, ?_, ?_, ?_, ?_, ?_, ?_⟩⟩ <;> first | exact performs_of (by decide) | decide | decide +kernel

theorem test_w_HostPackets_graph :
  (let s : State := { demoH 4 [0, 0x500, 1] with objs := [] }; let w : State := (qpktOf (s.draw.nextPkt 0)).1;
    let q : Nat := 0; let pri : Nat := 1; let p : QPkt := (qpktOf (s.draw.nextPkt 0)).2;
    let d (n : Nat) : Nat := p.dws.getD n 0; let u := w.uqs.get ⟨0, 0, 0, none⟩ q;
    let sound (type : Nat) : Prop := d 0 = 2 ^ 63 + type * 2 ^ 48 + pri * 2 ^ 45 ∧ d 2 % 8 = 0 ∧ d 2 < 2 ^ 56 ∧ d 7 = 0 ∧ pri ≤ rfld u.d0 62 60;
    let v := (okOf (demo, []) (w.okraGet p.ctx (d 3) (2 * (d 4 % 2 ^ 16)))).1; let bs := (okOf (demo,
    []) (w.okraGet p.ctx (d 3) (2 * (d 4 % 2 ^ 16)))).2;
    let hs := (List.range (d 4 % 2 ^ 16)).map fun i => leNat ((bs.drop (2 * i)).take 2); s.stst.getLsbD 63 = true ∧
    s.draw.nextPkt q = some (w, p, none) ∧ pri < 8 ∧ sound 4 ∧ d 3 % 2 = 0 ∧ d 3 < 2 ^ 56 ∧ d 4 / 2 ^ 17 = 0 ∧
    1 ≤ d 4 % 2 ^ 16 ∧ d 4 % 2 ^ 16 ≤ 256 ∧ d 5 = d 5 / 2 ^ 32 % 2 ^ 16 * 2 ^ 32 ∧ d 6 = 0 ∧
    w.okraGet p.ctx (d 3) (2 * (d 4 % 2 ^ 16)) = .ok (v, bs) ∧ (∃ h ∈ hs, v.image p.ctx h true = none)) ∧
    (let s : State := { demoH 4 [0, 0x500, 1, 0x700000000] with graphs := [(7, ⟨0, [], false⟩)] };
    let w : State := (qpktOf (s.draw.nextPkt 0)).1; let q : Nat := 0; let pri : Nat := 1;
    let p : QPkt := (qpktOf (s.draw.nextPkt 0)).2; let d (n : Nat) : Nat := p.dws.getD n 0;
    let u := w.uqs.get ⟨0, 0, 0, none⟩ q;
    let sound (type : Nat) : Prop := d 0 = 2 ^ 63 + type * 2 ^ 48 + pri * 2 ^ 45 ∧ d 2 % 8 = 0 ∧ d 2 < 2 ^ 56 ∧ d 7 = 0 ∧ pri ≤ rfld u.d0 62 60;
    let v := (okOf (demo, []) (w.okraGet p.ctx (d 3) (2 * (d 4 % 2 ^ 16)))).1; let bs := (okOf (demo,
    []) (w.okraGet p.ctx (d 3) (2 * (d 4 % 2 ^ 16)))).2;
    let hs := (List.range (d 4 % 2 ^ 16)).map fun i => leNat ((bs.drop (2 * i)).take 2); let g := d 5 / 2 ^ 32;
    let x := ⟨0, [], false⟩; s.stst.getLsbD 63 = true ∧ s.draw.nextPkt q = some (w, p, none) ∧ pri < 8 ∧ sound 4 ∧
    d 3 % 2 = 0 ∧ d 3 < 2 ^ 56 ∧ d 4 / 2 ^ 17 = 0 ∧ 1 ≤ d 4 % 2 ^ 16 ∧ d 4 % 2 ^ 16 ≤ 256 ∧
    d 5 = d 5 / 2 ^ 32 % 2 ^ 16 * 2 ^ 32 ∧ d 6 = 0 ∧ w.okraGet p.ctx (d 3) (2 * (d 4 % 2 ^ 16)) = .ok (v, bs) ∧
    (∀ h ∈ hs, v.image p.ctx h true ≠ none) ∧ g ≠ 0 ∧ v.graphs.find (65536 * p.ctx + g) = some x) ∧
    (let s : State := demoH 4 [0, 0x500, 1]; let w : State := (qpktOf (s.draw.nextPkt 0)).1; let q : Nat := 0;
    let pri : Nat := 1; let p : QPkt := (qpktOf (s.draw.nextPkt 0)).2; let d (n : Nat) : Nat := p.dws.getD n 0;
    let u := w.uqs.get ⟨0, 0, 0, none⟩ q;
    let sound (type : Nat) : Prop := d 0 = 2 ^ 63 + type * 2 ^ 48 + pri * 2 ^ 45 ∧ d 2 % 8 = 0 ∧ d 2 < 2 ^ 56 ∧ d 7 = 0 ∧ pri ≤ rfld u.d0 62 60;
    let v := (okOf (demo, []) (w.okraGet p.ctx (d 3) (2 * (d 4 % 2 ^ 16)))).1; let bs := (okOf (demo,
    []) (w.okraGet p.ctx (d 3) (2 * (d 4 % 2 ^ 16)))).2;
    let hs := (List.range (d 4 % 2 ^ 16)).map fun i => leNat ((bs.drop (2 * i)).take 2); let g := d 5 / 2 ^ 32; let h := 3;
    s.stst.getLsbD 63 = true ∧ s.draw.nextPkt q = some (w, p, none) ∧ pri < 8 ∧ sound 4 ∧ d 3 % 2 = 0 ∧ d 3 < 2 ^ 56 ∧
    d 4 / 2 ^ 17 = 0 ∧ 1 ≤ d 4 % 2 ^ 16 ∧ d 4 % 2 ^ 16 ≤ 256 ∧ d 5 = d 5 / 2 ^ 32 % 2 ^ 16 * 2 ^ 32 ∧ d 6 = 0 ∧
    w.okraGet p.ctx (d 3) (2 * (d 4 % 2 ^ 16)) = .ok (v, bs) ∧ (∀ h ∈ hs, v.image p.ctx h true ≠ none) ∧ g = 0 ∧
    v.newHandle p.ctx 1 = some h) := by
  dsimp only
  refine ⟨⟨?_, pkt_is (by decide +kernel), ?_, ?_, ?_, ?_, ?_, ?_, ?_, ?_, ?_, ok_pair (by decide +kernel), ?_⟩, ⟨?_, pkt_is (by decide +kernel), ?_, ?_, ?_, ?_, ?_, ?_, ?_, ?_, ?_, ok_pair (by decide +kernel), ?_, ?_, ?_⟩, ⟨?_, pkt_is (by decide +kernel), ?_, ?_, ?_, ?_, ?_, ?_, ?_, ?_, ?_, ok_pair (by decide +kernel), ?_, ?_, (by decide +kernel)⟩⟩ <;> first | exact performs_of (by decide) | decide | decide +kernel

theorem test_w_HostPackets_reply :
  (let s : State := demoH 5 [0, 0x7000000000000]; let w : State := (qpktOf (s.draw.nextPkt 0)).1; let q : Nat := 0;
    let pri : Nat := 1; let p : QPkt := (qpktOf (s.draw.nextPkt 0)).2; let d (n : Nat) : Nat := p.dws.getD n 0;
    let u := w.uqs.get ⟨0, 0, 0, none⟩ q;
    let sound (type : Nat) : Prop := d 0 = 2 ^ 63 + type * 2 ^ 48 + pri * 2 ^ 45 ∧ d 2 % 8 = 0 ∧ d 2 < 2 ^ 56 ∧ d 7 = 0 ∧ pri ≤ rfld u.d0 62 60;
    let op := 0; let tid := 7; s.stst.getLsbD 63 = true ∧ s.draw.nextPkt q = some (w, p, none) ∧ pri < 8 ∧ sound 5 ∧ op < 4 ∧
    tid < 65536 ∧ d 3 = tid * 2 ^ 48 + op ∧ d 4 = 0 ∧ d 5 = 0 ∧ d 6 = 0 ∧ op = 0) ∧
    (let s : State := demoH 5 [0, 0x7000000000003]; let w : State := (qpktOf (s.draw.nextPkt 0)).1; let q : Nat := 0;
    let pri : Nat := 1; let p : QPkt := (qpktOf (s.draw.nextPkt 0)).2; let d (n : Nat) : Nat := p.dws.getD n 0;
    let u := w.uqs.get ⟨0, 0, 0, none⟩ q;
    let sound (type : Nat) : Prop := d 0 = 2 ^ 63 + type * 2 ^ 48 + pri * 2 ^ 45 ∧ d 2 % 8 = 0 ∧ d 2 < 2 ^ 56 ∧ d 7 = 0 ∧ pri ≤ rfld u.d0 62 60;
    let op := 3; let tid := 7; s.stst.getLsbD 63 = true ∧ s.draw.nextPkt q = some (w, p, none) ∧ pri < 8 ∧ sound 5 ∧ op < 4 ∧
    tid < 65536 ∧ d 3 = tid * 2 ^ 48 + op ∧ d 4 = 0 ∧ d 5 = 0 ∧ d 6 = 0 ∧ op ≠ 0 ∧ w.reply p.ctx tid (op - 1) = none) ∧
    (let s : State := { demoH 5 [0, 0x7000000000002] with recs := [⟨7, 0, ⟨63, 0, 0, 0, 0, 0, false, .before, false, none⟩, 1, 1, 2049, 0x40, 0, 0, true, true⟩] };
    let w : State := (qpktOf (s.draw.nextPkt 0)).1; let q : Nat := 0; let pri : Nat := 1;
    let p : QPkt := (qpktOf (s.draw.nextPkt 0)).2; let d (n : Nat) : Nat := p.dws.getD n 0;
    let u := w.uqs.get ⟨0, 0, 0, none⟩ q;
    let sound (type : Nat) : Prop := d 0 = 2 ^ 63 + type * 2 ^ 48 + pri * 2 ^ 45 ∧ d 2 % 8 = 0 ∧ d 2 < 2 ^ 56 ∧ d 7 = 0 ∧ pri ≤ rfld u.d0 62 60;
    let op := 2; let tid := 7; let t := (w.reply p.ctx tid (op - 1)).getD demo; s.stst.getLsbD 63 = true ∧
    s.draw.nextPkt q = some (w, p, none) ∧ pri < 8 ∧ sound 5 ∧ op < 4 ∧ tid < 65536 ∧ d 3 = tid * 2 ^ 48 + op ∧ d 4 = 0 ∧
    d 5 = 0 ∧ d 6 = 0 ∧ op ≠ 0 ∧ w.reply p.ctx tid (op - 1) = some t) := by
  dsimp only
  refine ⟨⟨?_, pkt_is (by decide +kernel), ?_, ?_, ?_, ?_, ?_, ?_, ?_, ?_, ?_⟩, ⟨?_, pkt_is (by decide +kernel), ?_, ?_, ?_, ?_, ?_, ?_, ?_, ?_, ?_, ?_⟩, ⟨?_, pkt_is (by decide +kernel), ?_, ?_, ?_, ?_, ?_, ?_, ?_, ?_, ?_, some_is (by decide +kernel)⟩⟩ <;> first | exact performs_of (by decide) | decide | decide +kernel

theorem test_w_ObjectChecks :
  (let os : List Obj := [⟨0, [], [⟨7, 0, true, 5⟩], [], [], none, true, 0⟩, ⟨0, [], [⟨7, 3, false, 9⟩], [], [], none, true, 1⟩];
    let n : Nat := 7; let all := os.flatMap fun o => o.defs.map fun d => (o.seq, d); let pre := [(0, ⟨7, 0, true, 5⟩)];
    let e := (1, ⟨7, 3, false, 9⟩); let post := []; all = pre ++ e :: post ∧ e.2.name = n ∧ e.2.weak = false ∧
    (∀ x ∈ pre, x.2.name = n → x.2.weak = true)) ∧
    (let os : List Obj := [⟨0, [], [⟨7, 0, true, 5⟩], [], [], none, true, 0⟩, ⟨0, [], [⟨8, 3, true, 9⟩], [], [], none, true, 1⟩];
    let n : Nat := 8; let all := os.flatMap fun o => o.defs.map fun d => (o.seq, d); let pre := [(0, ⟨7, 0, true, 5⟩)];
    let e := (1, ⟨8, 3, true, 9⟩); let post := []; all = pre ++ e :: post ∧ e.2.name = n ∧ (∀ x ∈ pre, x.2.name ≠ n) ∧
    (∀ x ∈ all, x.2.name = n → x.2.weak = true)) ∧
    (let os : List Obj := [⟨0, [], [⟨7, 0, true, 5⟩], [], [], none, true, 0⟩, ⟨0, [], [⟨7, 3, false, 9⟩], [], [], none, true, 1⟩];
    let n : Nat := 9; let all := os.flatMap fun o => o.defs.map fun d => (o.seq, d); (∀ x ∈ all, x.2.name ≠ n)) := by
  dsimp only
  and_intros <;> first | exact performs_of (by decide) | decide | decide +kernel

theorem test_w_PacketsAreConsumed :
  let q : Nat := 0; let n := 1; n ≠ q := by
  dsimp only
  first | exact performs_of (by decide) | decide | decide +kernel

theorem test_w_PacketsAreConsumed_none :
  (let s : State := demo; let q : Nat := 0; let u := s.uqs.get ⟨0, 0, 0, none⟩ q; let i := .launchPacket q;
    (u.ridx = u.widx ∨ u.d0.getLsbD 63 = false ∨ 2 ^ 31 ≤ (u.widx - u.ridx).toNat) ∧
    i ∈ [Instr.launchPacket q, .loadPacket q, .unloadPacket q, .graphPacket q, .replyPacket q]) ∧
    (let s : State := { demoH 1 [] with mem := demoM.mem }; let q : Nat := 0; let w := (qpktOf (s.draw.nextPkt 0)).1;
    let p := (qpktOf (s.draw.nextPkt 0)).2; let i := .replyPacket q; s.stst.getLsbD 63 = true ∧ s.draw.nextPkt q = some (w,
    p, none) ∧ (p.dws.getD 0 0).testBit 63 = false ∧
    i ∈ [Instr.launchPacket q, .loadPacket q, .unloadPacket q, .graphPacket q, .replyPacket q]) := by
  dsimp only
  refine ⟨⟨?_, ?_⟩, ⟨?_, pkt_is (by decide +kernel), ?_, ?_⟩⟩ <;> first | exact performs_of (by decide) | decide | decide +kernel

theorem test_w_UnloadCompletes :
  (let s : State := { demoM with objs := [(1, ⟨0, [demoKern], [], [], [], some 0, false, 0⟩)] }; let k : Nat := 1;
    let o : Obj := ⟨0, [demoKern], [], [], [], some 0, false, 0⟩; let va : BitVec 56 := 0; s.objs = [(k, o)] ∧
    o.unload = some va ∧ s.draw.referenced k o = false ∧ va = 0) ∧
    (let s : State := { demoM with firm := [], objs := [(1, ⟨0, [demoKern], [], [], [], some 0x408, false, 0⟩)] };
    let k : Nat := 1; let o : Obj := ⟨0, [demoKern], [], [], [], some 0x408, false, 0⟩; let va : BitVec 56 := 0x408;
    let d := ({ s.draw with objs := [] } : State); let f := demoLeaf; s.objs = [(k, o)] ∧ o.unload = some va ∧
    s.draw.referenced k o = false ∧ va ≠ 0 ∧ va.toNat % 8 = 0 ∧
    (d.asFirm o.ctx).translate (.k 0) true o.ctx va.toNat true = .ok f ∧ s.unlinked f va.toNat = false ∧
    (d.asFirm o.ctx).portWaits okraQ f va.toNat = false ∧ Tlb.ver f = false ∧ s.gPoison (Leaf.pa f va.toNat) = false ∧
    (∀ i, i < 8 → s.inPool (Leaf.pa f va.toNat + i) = false)) := by
  dsimp only
  refine ⟨⟨?_, ?_, ?_, ?_⟩, ⟨?_, ?_, ?_, ?_, ?_, ok_of (by decide +kernel), (by decide +kernel), (by decide +kernel), ?_, ?_, (by decide +kernel)⟩⟩ <;> first | exact performs_of (by decide) | decide | decide +kernel

theorem test_w_Starts :
  let s : State := demo; s.power = true ∧ s.agenda = [] := by
  dsimp only
  and_intros <;> first | exact performs_of (by decide) | decide | decide +kernel

theorem test_w_PackageErrors :
  (let s : State := demo; let core : Nat := 1; let slotB : Bool := false;
    let owns (b : Bank) : Prop := b.bound = true ∧ b.core = core ∧ b.slotB = slotB; core < 128 ∧ (∀ b ∈ s.bound, ¬owns b)) ∧
    (let s : State := demo; let core : Nat := 128; let slotB : Bool := false;
    (128 ≤ core ∨ (∃ b, s.bound.find? (fun b => b.core == core && b.slotB == slotB) = some b ∧ b.ctx = 0))) ∧
    (let s : State := { demo with b := { demo.b with ctx := 1 } }; let core : Nat := 0; let slotB : Bool := false;
    let o := { demo with b := { demo.b with ctx := 1 } }.b; core < 128 ∧
    s.bound.find? (fun b => b.core == core && b.slotB == slotB) = some o ∧ s.bank? o.key = some o ∧ o.ctx ≠ 0) ∧
    (let s : State := { demo with b := { demo.b with ctx := 1 } }; let core : Nat := 0; let slotB : Bool := false;
    let owns (b : Bank) : Prop := b.bound = true ∧ b.core = core ∧ b.slotB = slotB; core < 128 ∧ s.banks = [] ∧ owns s.b ∧
    s.b.ctx ≠ 0) ∧ (let port : Nat := 48; 48 ≤ port) ∧ (let port : Nat := 47; port < 48) ∧
    (let s : State := { demo with klp := [(47, 0x8000000000000000)], replays := [(47, 8)] }; let port : Nat := 47;
    let r := s.klp.get 0 port; port < 48 ∧ r.getLsbD 63 = true ∧ 8 ≤ s.replays.get 0 port) ∧
    (let s : State := { demo with klp := [(47, 0x80000000FFFFFFFF)], replays := [(47, 7)] }; let port : Nat := 47;
    let n : Nat := 7; let r := s.klp.get 0 port; port < 48 ∧ r.getLsbD 63 = true ∧ n = s.replays.get 0 port ∧ (8 ≤ n →
    ∀ b ∈ s.bound, ∀ e ∈ b.queues, ∀ p ∈ e.2.pkts, p.posted = [])) ∧
    (let s : State := { demo with klp := [(47, 0x8000000000000000)], replays := [(47, 8)] }; let port : Nat := 47;
    let n : Nat := 8; let r := s.klp.get 0 port; port < 48 ∧ r.getLsbD 63 = true ∧ n = s.replays.get 0 port ∧ (8 ≤ n →
    ∀ b ∈ s.bound, ∀ e ∈ b.queues, ∀ p ∈ e.2.pkts, p.posted = [])) ∧
    (let s : State := { demoQ demo [{ demoPkt (.gst 8) 0x60 7 0x40 true false with lag := 2, sent := true, posted := [⟨{ demoLeaf with frame := 0x808000000 }, 0x60, [7, 0, 0, 0, 0, 0, 0, 0], none, false, false, 3, 0, 0⟩] }] with klp := [(47, 0x8000000000000000)], replays := [(47, 8)] };
    let port : Nat := 47; let r := s.klp.get 0 port; let k : Nat := 0;
    let q : Queue := ⟨[{ demoPkt (.gst 8) 0x60 7 0x40 true false with lag := 2, sent := true, posted := [⟨{ demoLeaf with frame := 0x808000000 }, 0x60, [7, 0, 0, 0, 0, 0, 0, 0], none, false, false, 3, 0, 0⟩] }], false, false, 0⟩;
    let p : Pkt := { demoPkt (.gst 8) 0x60 7 0x40 true false with lag := 2, sent := true, posted := [⟨{ demoLeaf with frame := 0x808000000 }, 0x60, [7, 0, 0, 0, 0, 0, 0, 0], none, false, false, 3, 0, 0⟩] };
    let ps : List Pkt := [];
    let w : Posted := ⟨{ demoLeaf with frame := 0x808000000 }, 0x60, [7, 0, 0, 0, 0, 0, 0, 0], none, false, false, 3, 0, 0⟩;
    let ws : List Posted := []; let wr : Bool := true; port < 48 ∧ r.getLsbD 63 = true ∧ 8 ≤ s.replays.get 0 port ∧
    s.banks = [] ∧ s.b.bound = true ∧ s.b.queues = [(k, q)] ∧ q.pkts = p :: ps ∧ p.started = true ∧ p.done = false ∧
    p.posted = w :: ws ∧ foreign (s.canon (Leaf.pa w.leaf w.va)) = true ∧
    (wr = false ↔ p.rmw.isSome = true ∨ w.cred.isSome = true ∨ ∃ m, p.kind = .gld m)) ∧ (let s : State := demo;
    let port : Nat := 47; let r := s.klp.get 0 port; port < 48 ∧ r.getLsbD 63 = false) := by
  dsimp only
  refine ⟨⟨?_, ?_⟩, .inl (by decide), ⟨?_, ?_, ?_, ?_⟩, ⟨?_, ?_, ?_, ?_⟩, ?_, ?_, ⟨?_, ?_, ?_⟩, ⟨?_, ?_, ?_, ?_⟩, ⟨?_, ?_, ?_, ?_⟩, ⟨?_, ?_, ?_, ?_, ?_, ?_, ?_, ?_, ?_, ?_, ?_, (by simp [demoPkt, Pkt.rmw])⟩, ⟨?_, ?_⟩⟩ <;> first | exact performs_of (by decide) | decide | decide +kernel

theorem test_w_PowerAgents :
  (let s : State := { demo with cores := [(3, { Core.reset with settling := true, tgt := 3 })] }; let n : Nat := 3;
    let c (t : State) (k : Nat) : Core := t.cores.get .reset k; let x := c s n; x.settling = true) ∧ (let s : State := demo;
    let n : Nat := 3; let c (t : State) (k : Nat) : Core := t.cores.get .reset k; let x := c s n; x.settling = false) ∧
    (let zone : Nat := 9; let temp : Nat := 1681; zone < 10 ∧ temp < 65536) := by
  dsimp only
  and_intros <;> first | exact performs_of (by decide) | decide | decide +kernel

theorem test_w_GuardedRegisterWrites :
  let s : State := { demo with b := { demo.b with cbc := [(31, 0x8000000000000040)] } }; let bank : Nat := 0;
    let col : Nat := 3; let buf : Nat := 7; s.b.key = bank ∧ col < s.b.cols ∧ buf < 8 := by
  dsimp only
  and_intros <;> first | exact performs_of (by decide) | decide | decide +kernel

theorem test_w_WatchdogAndLoadFaults :
  (let s : State := { demo with b := { demo.b with halted := some (.fault ⟨63, 0, 0, 0, 0, 0, false, .before, false, none⟩) } };
    let bank : Nat := 0; let stopped := ∃ c, s.b.halted = some (.reply c) ∨ s.b.halted = some (.fault c); s.b.key = bank ∧
    stopped) ∧ (let s : State := demo; let bank : Nat := 0; let us : Nat := 19999; let x := s.ctx s.b.ctx;
    let limit := max s.wdl.toNat 1 ≤ us ∨ x.st = .stopping ∧ 1000000 ≤ s.ns - x.stopAt;
    let stopped := ∃ c, s.b.halted = some (.reply c) ∨ s.b.halted = some (.fault c); s.b.key = bank ∧ ¬stopped ∧
    (¬limit ∨ s.b.committing = true)) ∧ (let s : State := { demo with b := { demo.b with forms := [demoForm .cmt [] 1] } };
    let bank : Nat := 0; let us : Nat := 20000; let x := s.ctx s.b.ctx;
    let limit := max s.wdl.toNat 1 ≤ us ∨ x.st = .stopping ∧ 1000000 ≤ s.ns - x.stopAt;
    let stopped := ∃ c, s.b.halted = some (.reply c) ∨ s.b.halted = some (.fault c); s.b.key = bank ∧ ¬stopped ∧
    (¬limit ∨ s.b.committing = true)) ∧ (let s : State := demo; let bank : Nat := 0; let us : Nat := 20000;
    let x := s.ctx s.b.ctx; let limit := max s.wdl.toNat 1 ≤ us ∨ x.st = .stopping ∧ 1000000 ≤ s.ns - x.stopAt;
    let stopped := ∃ c, s.b.halted = some (.reply c) ∨ s.b.halted = some (.fault c); s.b.key = bank ∧ s.b.bound = true ∧
    ¬stopped ∧ s.b.committing = false ∧ limit) ∧
    (let s : State := { demo with b := { demo.b with queues := [(3, ⟨[], true, false, 0x10000⟩)] } }; let bank : Nat := 0;
    let k : Nat := 3; let q : Queue := ⟨[], true, false, 0x10000⟩; s.b.key = bank ∧
    s.b.queues.find? (fun e => e.2.susp && !e.2.told) = some (k, q)) ∧ (let s : State := demo; let bank : Nat := 0;
    s.b.key = bank ∧ (∀ e ∈ s.b.queues, e.2.susp = true → e.2.told = true)) := by
  dsimp only
  refine ⟨⟨?_, ⟨_, .inr rfl⟩⟩, ⟨?_, (by rintro ⟨c, h | h⟩ <;> cases h), ?_⟩, ⟨?_, (by rintro ⟨c, h | h⟩ <;> cases h), ?_⟩, ⟨?_, ?_, (by rintro ⟨c, h | h⟩ <;> cases h), ?_, ?_⟩, ⟨?_, ?_⟩, ⟨?_, ?_⟩⟩ <;> first | exact performs_of (by decide) | decide | decide +kernel

theorem test_w_SavedBanksResume :
  (let s : State := { demo with saved := [({ Bank.fresh 0 with bound := true, uid := 77, mode := .whole, sr := [(1, 5)], pc := 0x40, pgr := 0x8000000000000005 }, { SlotMem.zero with partw := 0x0408 })] };
    let idx : Nat := 0; let p : Place := ⟨3, 1, true⟩;
    let b : Bank := { Bank.fresh 0 with bound := true, uid := 77, mode := .whole, sr := [(1, 5)], pc := 0x40, pgr := 0x8000000000000005 };
    let m : SlotMem := { SlotMem.zero with partw := 0x0408 }; s.saved[idx]? = some (b, m) ∧ b.streams = [] ∧ p.col < 4 ∧
    s.savedPlaceOk b m p = false) ∧
    (let s : State := { demo with saved := [({ Bank.fresh 0 with bound := true, uid := 77, mode := .whole, sr := [(1, 5)], pc := 0x40, pgr := 0x8000000000000005 }, { SlotMem.zero with partw := 0x0408 })] };
    let idx : Nat := 0; let p : Place := ⟨3, 0, true⟩;
    let b : Bank := { Bank.fresh 0 with bound := true, uid := 77, mode := .whole, sr := [(1, 5)], pc := 0x40, pgr := 0x8000000000000005 };
    let m : SlotMem := { SlotMem.zero with partw := 0x0408 }; s.saved[idx]? = some (b, m) ∧ b.streams = [] ∧ p.col < 4 ∧
    s.savedPlaceOk b m p = true) := by
  dsimp only
  and_intros <;> first | exact performs_of (by decide) | decide | decide +kernel

theorem test_w_Attestation :
  demo.stst.getLsbD 63 = true ∧ { demo with stst := 0 }.stst.getLsbD 63 = false := by
  decide

end Sys2Proof.Tests
end

section
/-! PROOFS. Division (R99): what the model's quotient and remainder are in each case, where they are in range, the identity
between them, and that DIV and REM write them. -/

namespace Sys2Proof.Machine

open Sys2Proof

/-! ### The cases of a division -/

theorem quotient_zero (unsigned : Bool) (x : DWord) {y : DWord} (hy : y = 0) : quotient unsigned x y = -1 := if_pos hy

theorem remainder_zero (unsigned : Bool) (x : DWord) {y : DWord} (hy : y = 0) : remainder unsigned x y = x := if_pos hy

theorem quotient_unsigned {x y : DWord} (hy : y ≠ 0) : quotient true x y = .ofNat 64 (x.toNat / y.toNat) := if_neg hy

theorem remainder_unsigned {x y : DWord} (hy : y ≠ 0) : remainder true x y = .ofNat 64 (x.toNat % y.toNat) := if_neg hy

theorem quotient_signed {x y : DWord} (hy : y ≠ 0) : quotient false x y = .ofInt 64 (x.toInt.tdiv y.toInt) := if_neg hy

theorem remainder_signed {x y : DWord} (hy : y ≠ 0) : remainder false x y = .ofInt 64 (x.toInt.tmod y.toInt) := if_neg hy

/-- The quotient 2^63 of the least number by -1 is out of range and wraps to the dividend; the remainder is 0. -/
theorem least_divided_by_neg_one {x y : DWord} (hx : x = 0x8000000000000000) (hy : y = -1) :
    quotient false x y = x ∧ remainder false x y = 0 := by
  subst hx hy
  decide

/-! ### The results are in range -/

theorem toNat_quotient {x y : DWord} (hy : y ≠ 0) : (quotient true x y).toNat = x.toNat / y.toNat := by
  rw [quotient_unsigned hy, ← BitVec.udiv_def, BitVec.toNat_udiv]

theorem toNat_remainder {x y : DWord} (hy : y ≠ 0) : (remainder true x y).toNat = x.toNat % y.toNat := by
  rw [remainder_unsigned hy, ← BitVec.umod_def, BitVec.toNat_umod]

/-- The one signed quotient that is out of range is that of the least number by -1. -/
theorem toInt_quotient {x y : DWord} (hy : y ≠ 0) (hrange : x ≠ 0x8000000000000000 ∨ y ≠ -1) :
    (quotient false x y).toInt = x.toInt.tdiv y.toInt := by
  rw [quotient_signed hy, BitVec.toInt_ofInt, ← BitVec.toInt_sdiv]
  exact BitVec.toInt_sdiv_of_ne_or_ne x y hrange

theorem toInt_remainder {x y : DWord} (hy : y ≠ 0) : (remainder false x y).toInt = x.toInt.tmod y.toInt := by
  rw [remainder_signed hy, ← BitVec.toInt_srem, BitVec.ofInt_toInt]

/-! ### The identity -/

/-- The identity of the integers' truncating division, reduced modulo 2^64; it needs no quotient in range. -/
theorem quotient_mul_add_remainder (unsigned : Bool) (x y : DWord) :
    quotient unsigned x y * y + remainder unsigned x y = x := by
  by_cases hy : y = 0
  · rw [quotient_zero unsigned x hy, remainder_zero unsigned x hy, hy]
    exact BitVec.zero_add x
  cases unsigned with
  | true =>
    calc quotient true x y * y + remainder true x y
        = .ofNat 64 (x.toNat / y.toNat * y.toNat + x.toNat % y.toNat) := by
          rw [quotient_unsigned hy, remainder_unsigned hy, BitVec.ofNat_add, BitVec.ofNat_mul, BitVec.ofNat_toNat 64 y,
            BitVec.setWidth_eq]
      _ = x := by rw [Nat.div_add_mod', BitVec.ofNat_toNat, BitVec.setWidth_eq]
  | false =>
    calc quotient false x y * y + remainder false x y
        = .ofInt 64 (x.toInt.tdiv y.toInt * y.toInt + x.toInt.tmod y.toInt) := by
          rw [quotient_signed hy, remainder_signed hy, BitVec.ofInt_add, BitVec.ofInt_mul, BitVec.ofInt_toInt]
      _ = x := by rw [Int.tdiv_mul_add_tmod, BitVec.ofInt_toInt]

/-! ### The forms -/

/-- A DIV that performs writes the quotient, with a bound of 24 (R69). -/
theorem exec_div {s : State} {c : Ctl} {rd ra b : BitVec 6} {i m : Bool} (h : s.Performs (.div c rd ra i m b) c) :
    exec (.div c rd ra i m b) s =
      .next (s.resS rd.toNat (quotient m (s.rs ra.toNat) (s.aluB i m b)) 24).draw :=
  congrArg Host.Outcome.next (State.syl_performs _ h (.inr rfl))

/-- A REM that performs writes the remainder, with a bound of 24 (R69). -/
theorem exec_rem {s : State} {c : Ctl} {rd ra b : BitVec 6} {i m : Bool} (h : s.Performs (.rem c rd ra i m b) c) :
    exec (.rem c rd ra i m b) s =
      .next (s.resS rd.toNat (remainder m (s.rs ra.toNat) (s.aluB i m b)) 24).draw :=
  congrArg Host.Outcome.next (State.syl_performs _ h (.inr rfl))

/-- Settles O16: DIV and REM write the model's quotient and remainder, so each clause is a fact about those two: the fixed
values by their cases, the others by their range, and the identity for every divisor. -/
theorem divisionIsTruncated : Obligations.DivisionIsTruncated := by
  intro s c rd ra b i m hdiv hrem
  refine ⟨_, _, exec_div hdiv, exec_rem hrem, ?_⟩
  intro x y
  refine ⟨?byZero, ?overflow, ?unsigned, ?signed, quotient_mul_add_remainder m x y⟩
  case byZero =>
    intro hy
    exact ⟨quotient_zero m x hy, remainder_zero m x hy⟩
  case overflow =>
    rintro rfl hx hy
    exact least_divided_by_neg_one hx hy
  case unsigned =>
    rintro rfl hy
    exact ⟨toNat_quotient hy, toNat_remainder hy⟩
  case signed =>
    rintro rfl hy hrange
    exact ⟨toInt_quotient hy hrange, toInt_remainder hy⟩

end Sys2Proof.Machine
end

section
/-! PROOFS. Address registers (R132): a result is reduced modulo 2^32, so ADRSET and ADRADD can be read as operations on
32-bit words. -/

namespace Sys2Proof.Machine

open Sys2Proof

/-! ### Results modulo 2^32 -/

/-- Of the value given to an address register only its remainder modulo 2^32 counts. -/
theorem State.resA_congr (s : State) (ar : Nat) {v w : Nat} (h : v % 2 ^ 32 = w % 2 ^ 32) : s.resA ar v = s.resA ar w :=
  congrArg (s.result (.a ar) · 1 1) h

/-- A displacement is added as a 32-bit word (R123). -/
theorem addA_eq_add (a : Nat) (d : Int) : addA a d = (BitVec.ofNat 32 a + BitVec.ofInt 32 d).toNat := by
  rw [← BitVec.ofInt_natCast, ← BitVec.ofInt_add, BitVec.toNat_ofInt]
  rfl

/-- The low 32 bits of a scalar are added as a 32-bit word: the high ones are lost in the reduction. -/
theorem add_toNat_mod (a : Nat) (x : DWord) :
    (a + x.toNat) % 2 ^ 32 = (BitVec.ofNat 32 a + x.setWidth 32).toNat % 2 ^ 32 := by
  rw [BitVec.toNat_add, BitVec.toNat_ofNat, BitVec.toNat_setWidth, Nat.mod_mod, ← Nat.add_mod]

/-! ### The forms -/

/-- An ADRSET with an immediate that performs writes it, zero-extended, with a bound of 1. -/
theorem exec_adrsetImm {s : State} {c : Ctl} {ar : BitVec 5} {imm : BitVec 16} (h : s.Performs (.adrsetImm c ar imm) c) :
    exec (.adrsetImm c ar imm) s = .next (s.resA ar.toNat imm.toNat).draw :=
  congrArg Host.Outcome.next (State.syl_performs _ h (.inr rfl))

/-- An ADRSET from a scalar that performs writes the scalar, reduced modulo 2^32. -/
theorem exec_adrsetReg {s : State} {c : Ctl} {ar : BitVec 5} {rs : BitVec 6} (h : s.Performs (.adrsetReg c ar rs) c) :
    exec (.adrsetReg c ar rs) s = .next (s.resA ar.toNat (s.rs rs.toNat).toNat).draw :=
  congrArg Host.Outcome.next (State.syl_performs _ h (.inr rfl))

/-- An ADRADD with an immediate that performs advances the register by it, read as a signed number. -/
theorem exec_adraddImm {s : State} {c : Ctl} {ar : BitVec 5} {imm : BitVec 16} (h : s.Performs (.adraddImm c ar imm) c) :
    exec (.adraddImm c ar imm) s = .next (s.resA ar.toNat (addA (s.ra ar.toNat) imm.toInt)).draw :=
  congrArg Host.Outcome.next (State.syl_performs _ h (.inr rfl))

/-- An ADRADD from a scalar that performs advances the register by the scalar. -/
theorem exec_adraddReg {s : State} {c : Ctl} {ar : BitVec 5} {rs : BitVec 6} (h : s.Performs (.adraddReg c ar rs) c) :
    exec (.adraddReg c ar rs) s = .next (s.resA ar.toNat (s.ra ar.toNat + (s.rs rs.toNat).toNat)).draw :=
  congrArg Host.Outcome.next (State.syl_performs _ h (.inr rfl))

/-- Settles O23: each form writes its result; what is left is that a signed immediate and a scalar, added as numbers, give
the same register as the 32-bit words of the statement. -/
theorem addressRegisterForms : Obligations.AddressRegisterForms := by
  intro s c ar rs imm old x
  refine ⟨exec_adrsetImm, ?setReg, ?addImm, ?addReg⟩
  case setReg =>
    intro h
    have low : (s.rs rs.toNat).toNat % 2 ^ 32 = x.toNat % 2 ^ 32 := by rw [BitVec.toNat_setWidth, Nat.mod_mod]
    rw [exec_adrsetReg h, s.resA_congr _ low]
  case addImm =>
    intro h
    rw [exec_adraddImm h, addA_eq_add, ← BitVec.signExtend]
  case addReg =>
    intro h
    rw [exec_adraddReg h, s.resA_congr _ (add_toNat_mod _ _)]

end Sys2Proof.Machine
end
